-- ==== Sys2Proof/Word.lean ====
section
/-! DEFINITION. The word types of the machine (R2, R24) and the plainest arithmetic on them. -/

namespace Sys2Proof

/-- One byte of memory. -/
abbrev Byte := BitVec 8
/-- One instruction, literal, pair or header word (R258). -/
abbrev W32 := BitVec 32
/-- One 64-bit register copy. -/
abbrev Word := BitVec 64
/-- One bit per position of a pane: bit l + 32·m is position (l, m) (R5, R62). -/
abbrev Mask := BitVec 256

/-- The bits [lo + n - 1 : lo] of a number. -/
abbrev bits (w lo n : Nat) : Nat := w / 2 ^ lo % 2 ^ n

/-- A number read as a signed value of n bits. -/
def signed (n w : Nat) : Int :=
  let r := w % 2 ^ n
  if 2 * r < 2 ^ n then (r : Int) else (r : Int) - 2 ^ n

/-- The code of n bits of an integer, wrapped (R66). -/
def wrap (n : Nat) (v : Int) : Nat := (v % (2 ^ n : Int)).toNat

/-- An integer limited to the signed range of n bits (R66, R68). -/
def clampS (n : Nat) (v : Int) : Int :=
  if v < -(2 ^ (n - 1) : Int) then -(2 ^ (n - 1) : Int)
  else if v > (2 ^ (n - 1) : Int) - 1 then (2 ^ (n - 1) : Int) - 1 else v

/-- Position (l, m) as a bit number (R5). -/
abbrev posOf (l m : Nat) : Nat := l + 32 * m

/-- The mask of every position of a pane of fold M (R20). -/
def fullMask (M : Nat) : Mask := BitVec.ofNat 256 (2 ^ (32 * M) - 1)

/-- One bit of a mask. -/
abbrev bitAt (m : Mask) (q : Nat) : Bool := m.getLsbD q

/-- The positions below n whose bit is set, ascending. -/
def positionsBelow (n : Nat) (m : Mask) : List Nat := (List.range n).filter fun q => bitAt m q

/-- The positions of a mask, in ascending bit order (member, then lane). -/
def positions (m : Mask) : List Nat := positionsBelow 256 m

/-- The positions of a mask in ascending lane, then ascending member, order (R128). -/
def laneOrder (m : Mask) : List Nat :=
  ((List.range 32).flatMap fun l => (List.range 8).map fun k => posOf l k).filter fun q => bitAt m q

/-- The mask whose set bits are the listed positions. -/
def maskOf (qs : List Nat) : Mask := qs.foldl (fun m q => m ||| BitVec.ofNat 256 (2 ^ q)) 0

/-- The number of positions of a mask. -/
def countOf (m : Mask) : Nat := (positions m).length

/-- The bytes of a number, little-endian (R2). -/
def toBytes : Nat → Nat → List Byte
  | 0, _ => []
  | n + 1, v => BitVec.ofNat 8 v :: toBytes n (v / 256)

/-- The number a little-endian byte string gives (R2). -/
def ofBytes : List Byte → Nat
  | [] => 0
  | b :: bs => b.toNat + 256 * ofBytes bs

/-- Sub-element e of width w bits of a copy (R2, R65). -/
abbrev sub (w e : Nat) (x : Word) : Nat := bits x.toNat (w * e) w

/-- A copy from its sub-elements of width w bits. -/
def packSubs (w : Nat) : List Nat → Nat
  | [] => 0
  | x :: xs => x % 2 ^ w + 2 ^ w * packSubs w xs

/-- The smallest element of a list of numbers above all of which it lies below `d`, else `d`. -/
def minOf (d : Nat) (xs : List Nat) : Nat := xs.foldl min d

end Sys2Proof
end

