-- ==== Sys2Proof/Syntax.lean ====
section
/-! DEFINITION. The operations and events of the machine, one constructor of `Instr` per row of the opcode table
(R278 to R280, 95_what_each_step_holds.md). The first 182 have an instruction word; the others are events. -/

namespace Sys2Proof

/-- A 7-bit operand code (R24, R38); a literal carries the clause word that follows the instruction. -/
inductive Opnd where
  | v (n : Fin 64)
  | w (n : Fin 32)
  | s (n : Fin 30)
  | zr
  | lit (x : W32)
deriving DecidableEq, Repr

/-- Integer widths (R319). -/
inductive IWidth where
  | i64 | i32 | i16 | i8
deriving DecidableEq, Repr

/-- Floating-point types of the vector operations (R312). -/
inductive FType where
  | f64 | f32 | bf16 | f16
deriving DecidableEq, Repr

/-- Types of the lane and member reductions (R335, R343). -/
inductive RType where
  | f64 | f32 | i64 | i32
deriving DecidableEq, Repr

/-- Types of `atom` (R287). -/
inductive AType where
  | i32 | i64 | f32 | f64
deriving DecidableEq, Repr

/-- Operations of `atom` (R287). -/
inductive AtomOp where
  | add | min | max | and | or | xor | xchg | cas
deriving DecidableEq, Repr

/-- Operations of `atom2` (R290). -/
inductive Atom2Op where
  | addBf16 | addF16 | minBf16 | maxBf16
deriving DecidableEq, Repr

/-- Conditions of `icmp` (R320). -/
inductive ICond where
  | eq | ne | lt | le | ltu | leu | tst | ntst
deriving DecidableEq, Repr

/-- Conditions of `fcmp` (R314). -/
inductive FCond where
  | eq | ne | lt | le | gt | ge | un | ord
deriving DecidableEq, Repr

/-- Conversion codes of `fcvt` (R74 Table 4), in code order. -/
inductive CvtCode where
  | f32f64 | f64f32 | bf16f32 | f32bf16 | f16f32 | f32f16 | e4m3sat | e4m3nan | f32e4m3 | e5m2f32
  | f32e5m2 | i64f64 | f64i64 | ui64f64 | f64ui64 | i32f32 | f32i32 | i32f64 | f32i8x8 | q4f32
deriving DecidableEq, Repr

/-- Special functions (R75 Table 5), in code order. -/
inductive SfFn where
  | rcp | rsqrt | sqrt | exp2 | log2 | sinpi | cospi | tanh | sigm | silu | gelu | erf
deriving DecidableEq, Repr

/-- Rounding modes (R69). -/
inductive RMode where
  | rne | rtz | rup | rdn
deriving DecidableEq, Repr

/-- Cache policies: no suffix, .dev, .sys, .str (R144). -/
inductive CPol where
  | dflt | dev | sys | str
deriving DecidableEq, Repr

/-- Access widths of 1, 2, 4 and 8 bytes (R332). -/
inductive MWidth where
  | b | h | w | d
deriving DecidableEq, Repr

/-- Element counts of `ld` and `st` (R332). -/
inductive MCount where
  | one | two | four
deriving DecidableEq, Repr

/-- Tile element types of `mld` and `mst` (R116). -/
inductive TileTy where
  | f64 | f32 | bf16 | f16 | e4m3 | e5m2 | i8 | q4
deriving DecidableEq, Repr

/-- Half types of `mmh` (R106). -/
inductive HalfTy where
  | bf16 | f16
deriving DecidableEq, Repr

/-- Operand types of `mmf` (R106). -/
inductive F8Ty where
  | e4m3 | e5m2 | e4m3e5m2 | e5m2e4m3
deriving DecidableEq, Repr

/-- Operand types of `mmi` (R106). -/
inductive I8Ty where
  | i8 | ui8i8 | i8ui8 | ui8
deriving DecidableEq, Repr

/-- Q4 code types (R67), in TYPE order. -/
inductive Q4Ty where
  | uni | e2m1 | pow2 | hyb
deriving DecidableEq, Repr

/-- Weight types of stack-side jobs (R120). -/
inductive WtTy where
  | bf16w | e4m3w | q4w | rsvd
deriving DecidableEq, Repr

/-- The flags .ta, .tb, .ms, .cf of a matrix multiply (R106). -/
structure MFlags where
  ta : Bool
  tb : Bool
  ms : Bool
  cf : Bool
deriving DecidableEq, Repr

/-- One pair word of `bmw`: a predicate number (63 is the else arm) and an offset (R50). -/
structure BmwPair where
  pred : Nat
  off : Nat
deriving DecidableEq, Repr

/-- Where a management or platform SEND came from (R253): Ethernet port and 16-byte address. -/
structure ReqSrc where
  port : Nat
  addr : Nat
deriving DecidableEq, Repr

/-- A RESET request (R255): its source, the ac the steps take, and the cores whose self-test fails in step 3. -/
structure ResetReq where
  src : ReqSrc
  len : Nat
  bad : List Nat
deriving DecidableEq, Repr

/-- A station coming up, and the nodes it reaches (R217). -/
structure LinkUp where
  station : Nat
  nodes : List Nat
deriving DecidableEq, Repr

/-- The kind of a remote or host access (R209 Table 2). -/
inductive RKind where
  | load | store | atomic | batch
deriving DecidableEq, Repr

/-- A peer's request as it arrives (R206): source node, kind, offset, and for an atomic its form, `op2` for an `atom2`. -/
structure Inbound where
  src : Nat
  kind : RKind
  off : Nat
  size : Nat
  data : Nat
  op : AtomOp
  ty : AType
  cmp : Nat
  stamp : Nat
  op2 : Option Atom2Op
  /-- The tag verifies under the slot that the header names (R215). -/
  tagOk : Bool
deriving DecidableEq, Repr

/-- What an error struck (R240). Numbers are: pane, code, copy; core, register, byte or element; address. -/
inductive Site where
  | reg (pane code idx byte : Nat)
  | tile (core t byte : Nat)
  | side (core t byte : Nat)
  | acc (core a elem : Nat)
  | pq (core part : Nat)
  | limb (cas slot j : Nat)
  | scratch (cas line : Nat)
  | lane (pane pos line : Nat)
  | line (pa : Nat)
  | l1 (core line : Nat)
deriving DecidableEq, Repr

/-- A unit that a corrected error came from (R241). -/
inductive HwUnit where
  | core (c : Nat)
  | sillWay (g : Nat)
  | hbmRow (s : Nat)
  | station (k : Nat)
deriving DecidableEq, Repr

/-- What another node's collective engine sent (R375): its contributions, element by element, as codes or image words. -/
structure Partial where
  tag : Nat
  node : Nat
  /-- The command fields that every node must give alike (R168): OP, group, ROOT, C, N, RM, ALL, PARAM. -/
  head : List Nat
  words : List Nat
deriving DecidableEq, Repr

/-- The instructions and events, one constructor per row of spec/opcode_table.json. -/
inductive Instr where
  | iadd (w : IWidth) (d a b : Opnd)
  | isub (w : IWidth) (d a b : Opnd)
  | imul (w : IWidth) (d a b : Opnd)
  | imulh (w : IWidth) (d a b : Opnd)
  | imin (w : IWidth) (d a b : Opnd)
  | imax (w : IWidth) (d a b : Opnd)
  | iminu (w : IWidth) (d a b : Opnd)
  | imaxu (w : IWidth) (d a b : Opnd)
  | iand (w : IWidth) (d a b : Opnd)
  | ior (w : IWidth) (d a b : Opnd)
  | ixor (w : IWidth) (d a b : Opnd)
  | iandn (w : IWidth) (d a b : Opnd)
  | ishl (w : IWidth) (d a b : Opnd)
  | ishr (w : IWidth) (d a b : Opnd)
  | isar (w : IWidth) (d a b : Opnd)
  | irot (w : IWidth) (d a b : Opnd)
  | iabs (w : IWidth) (d a : Opnd)
  | iclz (w : IWidth) (d a : Opnd)
  | ipopc (w : IWidth) (d a : Opnd)
  | ibrev (w : IWidth) (d a : Opnd)
  | iadds (w : IWidth) (d a b : Opnd)
  | isubs (w : IWidth) (d a b : Opnd)
  | imad (w : IWidth) (d a b : Opnd)
  | imulhu (w : IWidth) (d a b : Opnd)
  | icmp (c : ICond) (w : IWidth) (p : Nat) (a b : Opnd)
  | ibfx (d a b : Opnd)
  | ibfxS (d a b : Opnd)
  | ibfi (d a b : Opnd)
  | sel (p : Nat) (d a : Opnd) (b : Fin 64)
  | mov (d a : Opnd)
  | fadd (t : FType) (d a b : Opnd)
  | fsub (t : FType) (d a b : Opnd)
  | fmul (t : FType) (d a b : Opnd)
  | ffma (t : FType) (d a b : Opnd)
  | ffms (t : FType) (d a b : Opnd)
  | fnma (t : FType) (d a b : Opnd)
  | fmin (t : FType) (d a b : Opnd)
  | fmax (t : FType) (d a b : Opnd)
  | fabs (t : FType) (d a : Opnd)
  | fneg (t : FType) (d a : Opnd)
  | fscl (t : FType) (d a b : Opnd)
  | frnd (t : FType) (d a : Opnd)
  | fclass (t : FType) (d a : Opnd)
  | fcpys (t : FType) (d a b : Opnd)
  | fcmp (c : FCond) (t : FType) (p : Nat) (a b : Opnd)
  | fcvt (c : CvtCode) (d a : Opnd)
  | sfq (t : FType) (f : SfFn) (d a : Opnd) (k : Nat)
  | sfw (a : Opnd)
  | mbc (d a b : Opnd)
  | mshf (d a b : Opnd)
  | mredAdd (t : RType) (d a : Opnd)
  | mredMin (t : RType) (d a : Opnd)
  | mredMax (t : RType) (d a : Opnd)
  | msort (t : RType) (d a : Opnd)
  | mrank (t : RType) (d a b : Opnd)
  | mspr (t : RType) (d a : Opnd)
  | lshf (d a b : Opnd)
  | lbc (d a b : Opnd)
  | lredAdd (t : RType) (d a : Opnd)
  | lredMin (t : RType) (d a : Opnd)
  | lredMax (t : RType) (d a : Opnd)
  | lscan (t : RType) (d a : Opnd)
  | pand (k a b : Nat)
  | por (k a b : Nat)
  | pxor (k a b : Nat)
  | pandn (k a b : Nat)
  | pset (k : Nat)
  | pclr (k : Nat)
  | xmld (k : Nat)
  | xmst (k : Nat)
  | xmand (k : Nat)
  | pcnt (d : Opnd) (k : Nat)
  | pbits (d : Opnd) (k : Nat) (a : Opnd)
  | bany (p off : Nat)
  | ball (p off : Nat)
  | jmp (off : Nat)
  | call (off : Nat)
  | bdiv (p off : Nat)
  | bmw (n : Nat) (pairs : List BmwPair)
  | rcv (off : Nat)
  | bsaFull (k off : Nat)
  | bsaRoom (k off : Nat)
  | jmpi (a : Opnd)
  | calli (a : Opnd)
  | trap (k : Nat)
  | sys (k : Nat)
  | ld (c : MCount) (sx : Bool) (mw : MWidth) (d x : Opnd) (n : Nat) (p : CPol)
  | st (c : MCount) (mw : MWidth) (d x : Opnd) (n : Nat) (p : CPol)
  | lds (two sx : Bool) (mw : MWidth) (d x : Opnd)
  | sts (two : Bool) (mw : MWidth) (d x : Opnd)
  | ldl (two sx : Bool) (mw : MWidth) (d x : Opnd)
  | stl (two : Bool) (mw : MWidth) (d x : Opnd)
  | atom (o : AtomOp) (t : AType) (d x : Opnd) (n : Nat) (p : CPol)
  | atom2 (o : Atom2Op) (d x : Opnd) (n : Nat) (p : CPol)
  | bset (n : Nat) (x : Opnd) (m : Nat)
  | bsetS (n k : Nat)
  | bget (d : Opnd) (n i : Nat)
  | wadr (d x : Opnd) (n : Nat)
  | ctwt (t x : Opnd) (n : Nat)
  | ctinc (a x : Opnd) (n : Nat)
  | cpy (sz : Nat) (d x : Opnd) (n : Nat) (p : CPol)
  | cpyIn (sz : Nat) (d x : Opnd) (n : Nat) (p : CPol)
  | cpyOut (sz : Nat) (d x : Opnd) (n : Nat) (p : CPol)
  | cwait (k : Nat)
  | qw (q : Nat) (a : Opnd)
  | qr (b : Opnd) (q : Nat)
  | sard (b a : Opnd) (k : Nat)
  | sawt (a : Opnd) (k : Nat)
  | mld (ms : Bool) (t : TileTy) (d : Nat) (x : Opnd) (n : Nat) (p : CPol)
  | mldSb (ms : Bool) (d : Nat) (x : Opnd) (n : Nat) (p : CPol)
  | mst (ms : Bool) (t : TileTy) (d : Nat) (x : Opnd) (n : Nat) (p : CPol)
  | mstSb (ms : Bool) (d : Nat) (x : Opnd) (n : Nat) (p : CPol)
  | mmd (ad ma mb : Nat) (f : MFlags)
  | mms (ad ma mb sh : Nat) (f : MFlags)
  | mmh (t : HalfTy) (ad ma mb sh : Nat) (f : MFlags)
  | mmf (t : F8Ty) (ad ma mb sh : Nat) (f : MFlags)
  | mmi (t : I8Ty) (ad ma mb : Nat) (f : MFlags)
  | mmq (ma mb : Nat) (ta tb ms : Bool)
  | mscl (ad ma mb : Nat) (cf : Bool)
  | manc (ad ma mb : Nat)
  | macz (ad : Nat)
  | maczF32 (ad : Nat)
  | mdrn (t : FType) (ad v4 md : Nat)
  | mtlIn (t v4 : Nat)
  | mtlOut (t v4 : Nat)
  | mtlSb (t v4 : Nat)
  | mflg (ad t : Nat)
  | mpass (px : Nat)
  | rqt (t : Q4Ty) (x : Opnd) (n : Nat) (p : CPol)
  | smv (t : WtTy) (x : Opnd) (n : Nat)
  | smvw (t : WtTy) (x : Opnd) (n : Nat)
  | lclr (z : Opnd)
  | laddF64 (z s : Opnd)
  | laddF32 (z s : Opnd)
  | laddBf16 (z s : Opnd)
  | lmacF64 (z s u : Opnd)
  | lmacF32 (z s u : Opnd)
  | lmrg (z y : Opnd)
  | lnrm (z : Opnd)
  | lrnd (f32 : Bool) (rm : RMode) (d z : Opnd)
  | lrdl (d z j : Opnd)
  | lwrl (z s j : Opnd)
  | lst (d z : Opnd)
  | lsv (z x : Opnd) (n : Nat) (p : CPol)
  | lld (z x : Opnd) (n : Nat) (p : CPol)
  | pvsel (f32 : Bool) (d a b : Opnd)
  | pvreg (f32 : Bool) (d a b : Opnd)
  | fxmac (sh : Nat) (d a b : Opnd)
  | rngck (p : Nat) (a b : Opnd)
  | glaunch (x : Opnd) (n : Nat)
  | glaunchNb (x : Opnd) (n : Nat)
  | tlaunch (x : Opnd) (n : Nat)
  | rerun (x : Opnd) (n : Nat)
  | dtst (d x : Opnd) (n : Nat)
  | trec (x : Opnd) (n : Nat)
  | vgrow (n : Opnd)
  | vshr (n : Opnd)
  | srd (d : Opnd) (i : Nat)
  | swr (i : Nat) (a : Opnd)
  | logm (a : Opnd) (k : Nat)
  | psavePane (x : Opnd) (n : Nat)
  | psaveMx (x : Opnd) (n : Nat)
  | psaveLx (x : Opnd) (n : Nat)
  | prestPane (x : Opnd) (n : Nat)
  | prestMx (x : Opnd) (n : Nat)
  | prestLx (x : Opnd) (n : Nat)
  -- events
  | ptrootWrite (v : Word)
  | translationInvalidated (uid : Nat)
  | wpartWrite (g : Nat) (v : Word)
  | wpartConversionDone (g : Nat)
  | dmapEnable (v : Word)
  | dmapMapsClear (ctx : Nat)
  | dmapDisable (v : Word)
  | dirtyMapCleared (ctx : Nat)
  | sfqResult (id : Nat)
  | loadReply (id : Nat)
  | storeRegistrationAck (id : Nat)
  | registryRecall (pa : Nat)
  | sequenceCounterIncrement (id : Nat)
  | engineOpComplete (core : Nat)
  | batonGrant (core : Nat)
  | copyBatchComplete (id : Nat)
  | haloCommandComplete (id : Nat)
  | collectiveCommandComplete (id : Nat)
  | stackJobComplete (id : Nat)
  | remoteReply (id k status data stamp : Nat)
  | remoteTimeout (id : Nat)
  | inboundRemoteRequest (r : Inbound)
  | faultMergeWindow (die : Nat)
  | pageFaultReply (ctx : Nat)
  | barrierWatchdog (cas : Nat)
  | progressWatchdog (cas : Nat)
  | sliceExpiry (core ctx : Nat)
  | vgrowDeadlock (core : Nat)
  | vgrowGrant (core : Nat)
  | resumption (cas : Nat)
  | swapOut (pane : Nat)
  | swapIn (pane : Nat)
  | pendingMove (cas : Nat)
  | launchCheck (ctx : Nat)
  | taskCheck (ctx : Nat)
  | taskReady (ctx task : Nat)
  | admission (core : Nat)
  | casementRetire (cas : Nat)
  | launchComplete (lid : Nat)
  | taskComplete (lid : Nat)
  | correctedError (u : HwUnit)
  | selfTestResult (u : HwUnit) (pass : Bool)
  | uncorrectableError (code : Nat) (site : Site) (ctx : Nat)
  | hostLaunch (ctx port off : Nat) (data : List Byte)
  | hostRdmaWrite (port key addr : Nat) (data : List Byte)
  | hostRdmaRead (port key addr len : Nat)
  | hostRdmaAtomic (port key addr : Nat) (cas : Bool) (v cmp : Word)
  | installRegion (src : ReqSrc) (w0 w1 w2 w3 : Word)
  | removeRegion (src : ReqSrc) (w0 w1 w2 w3 : Word)
  | bindPort (src : ReqSrc) (w0 w1 w2 w3 : Word)
  | unbindPort (src : ReqSrc) (w0 w1 w2 w3 : Word)
  | attest (src : ReqSrc) (n0 n1 n2 n3 : Word)
  | identityCertificates (src : ReqSrc)
  | powerReport (src : ReqSrc)
  | setPowerLimit (src : ReqSrc) (watts : Word)
  | stageFirmware (src : ReqSrc) (image : List Byte)
  | reset (q : ResetReq)
  | defineContext (src : ReqSrc) (ctx : Nat) (root phv psv fring : Word)
  | undefineContext (src : ReqSrc) (ctx : Nat)
  | setConfiguration (src : ReqSrc) (a b : Word × Word)
  | powerOnReset (bad : List Nat) (expanders : List (Nat × Nat))
  | blockPowerReport (watts : List Nat) (loss : Nat)
  | keyExchange (node : Nat) (ok : Bool)
  | keyExchangeTimeout (node : Nat)
  | keyRotation (node : Nat)
  | stationDown (k : Nat)
  | stationUp (l : LinkUp)
  | expanderRemoved (e : Nat)
  | reservedEncoding (w : W32) (reason : Nat)
  | writeAcknowledged (id : Nat)
  | collectivePartialState (p : Partial)
  | expanderAttached (e mib : Nat)
  | malformedPlatformRequest (src : ReqSrc) (op : Nat)
  | malformedManagementRequest (src : ReqSrc) (op : Nat)
  -- rows without operands stand last: the compiler numbers constructors that carry fields up to 244 only
  | join
  | ret
  | exit
  | nop
  | eret
  | brk
  | acq
  | rel
  | fence
  | bar
  | sbar
  | cseal
  | mtake
  | mpassFree
  | tyld
  | trecWide
  | bind
  | clauseHeader
deriving DecidableEq, Repr

end Sys2Proof
end

