-- ==== Sys2Proof/WellFormed.lean ====
section
/-! DEFINITION. What an instruction names, its execution class (R25), and the check of the operand rules
whose breach is ILLEGAL with reason 7, 5 or 4 in the order of R281. Reasons 1, 6, 2 and 3 are the decoder's. -/

namespace Sys2Proof

/-- Uniformity and execution classes (R24, R25). -/
inductive Cls where
  | vec | shr | sca
deriving DecidableEq, Repr

/-- Wider classes have the larger rank: vector > shared > scalar (R24). -/
def Cls.rank : Cls → Nat
  | .vec => 2 | .shr => 1 | .sca => 0

/-- The class of rank at least 2, 1 or 0. -/
def Cls.ofRank : Nat → Cls
  | 0 => .sca | 1 => .shr | _ => .vec

namespace Opnd

/-- The 7-bit code of an operand (R24, R38). -/
def code : Opnd → Nat
  | v n => n.val | w n => 64 + n.val | s n => 96 + n.val | zr => 126 | lit _ => 127

/-- The class rank of an operand; a neutral operand belongs to every class (R24). -/
def rank : Opnd → Nat
  | v _ => 2 | w _ => 1 | s _ => 0 | zr => 0 | lit _ => 0

def isV : Opnd → Bool | v _ => true | _ => false
def isW : Opnd → Bool | w _ => true | _ => false
def isS : Opnd → Bool | s _ => true | _ => false
def isZr : Opnd → Bool | zr => true | _ => false
def isLit : Opnd → Bool | lit _ => true | _ => false

/-- A register code, not `zr` or `lit`. -/
def isReg : Opnd → Bool | v _ => true | w _ => true | s _ => true | _ => false

/-- Of scalar class, or neutral. -/
def scalarish : Opnd → Bool | v _ => false | w _ => false | _ => true

/-- The last code of an operand's register file (v63, w31, s29). -/
def top : Opnd → Nat
  | v _ => 63 | w _ => 95 | s _ => 125 | zr => 126 | lit _ => 127

end Opnd

/-- The first broken rule of a list, in its order. -/
def firstBad : List (Bool × Nat) → Option Nat
  | [] => none
  | (true, r) :: _ => some r
  | (false, _) :: rest => firstBad rest

/-- How many of the operands are literals. -/
def litCount (os : List Opnd) : Nat := (os.filter Opnd.isLit).length

/-- The widest rank among operands. -/
def maxRank (os : List Opnd) : Nat := os.foldl (fun r o => max r o.rank) 0

/-- The execution class rank of an instruction with a register destination (R25). -/
def dstRank (d : Opnd) (src : List Opnd) : Nat := if d.isZr then maxRank src else d.rank

/-- Some source is wider than the class that the destination gives (R25). -/
def wider (d : Opnd) (src : List Opnd) : Bool := decide (dstRank d src < maxRank src)

/-- A group of c registers from an operand passes its file's last register, or is neutral with c > 1. -/
def pastTop (o : Opnd) (c : Nat) : Bool :=
  if o.isReg then decide (o.top < o.code + c - 1) else decide (1 < c)

/-- The number an element count stands for. -/
def MCount.val : MCount → Nat
  | .one => 1 | .two => 2 | .four => 4

/-- The bytes of an access width. -/
def MWidth.bytes : MWidth → Nat
  | .b => 1 | .h => 2 | .w => 4 | .d => 8

/-- The count of the scratch and lane-store forms. -/
def two1 (b : Bool) : Nat := if b then 2 else 1

/-- The operands an instruction names: register groups written, groups read, and buffer registers. -/
structure Named where
  dst : List (Opnd × Nat)
  src : List (Opnd × Nat)
  bufs : List Nat
deriving DecidableEq, Repr

namespace Named
def none : Named := ⟨[], [], []⟩
def ds (d : Opnd) (src : List Opnd) : Named := ⟨[(d, 1)], src.map fun o => (o, 1), []⟩
def only (src : List Opnd) : Named := ⟨[], src.map fun o => (o, 1), []⟩
def mem (dst src : List (Opnd × Nat)) (n : Nat) : Named := ⟨dst, src, [n]⟩
end Named

/-- What each instruction names (the Reads and Result columns of the instruction reference). -/
def Instr.named : Instr → Named
  | .iadd _ d a b | .isub _ d a b | .imul _ d a b | .imulh _ d a b | .imin _ d a b | .imax _ d a b
  | .iminu _ d a b | .imaxu _ d a b | .iand _ d a b | .ior _ d a b | .ixor _ d a b | .iandn _ d a b
  | .ishl _ d a b | .ishr _ d a b | .isar _ d a b | .irot _ d a b | .iadds _ d a b | .isubs _ d a b
  | .imulhu _ d a b => Named.ds d [a, b]
  | .iabs _ d a | .iclz _ d a | .ipopc _ d a | .ibrev _ d a => Named.ds d [a]
  | .imad _ d a b => Named.ds d [a, b, d]
  | .icmp _ _ _ a b => Named.only [a, b]
  | .ibfx d a b | .ibfxS d a b => Named.ds d [a, b]
  | .ibfi d a b => Named.ds d [a, b, d]
  | .sel _ d a b => Named.ds d [a, .v b]
  | .mov d a => Named.ds d [a]
  | .fadd _ d a b | .fsub _ d a b | .fmul _ d a b | .fmin _ d a b | .fmax _ d a b
  | .fscl _ d a b | .fcpys _ d a b => Named.ds d [a, b]
  | .ffma _ d a b | .ffms _ d a b | .fnma _ d a b => Named.ds d [a, b, d]
  | .fabs _ d a | .fneg _ d a | .frnd _ d a | .fclass _ d a => Named.ds d [a]
  | .fcmp _ _ _ a b => Named.only [a, b]
  | .fcvt c d a => ⟨[(d, if c = .f32i8x8 && d.isReg then 2 else 1)], [(a, 1)], []⟩
  | .sfq _ _ d a _ => Named.ds d [a]
  | .sfw a => Named.only [a]
  | .mbc d a b | .mshf d a b | .mrank _ d a b | .lshf d a b | .lbc d a b => Named.ds d [a, b]
  | .mredAdd _ d a | .mredMin _ d a | .mredMax _ d a | .msort _ d a | .mspr _ d a
  | .lredAdd _ d a | .lredMin _ d a | .lredMax _ d a | .lscan _ d a => Named.ds d [a]
  | .pcnt d _ => Named.ds d []
  | .pbits d _ a => Named.ds d [a]
  | .jmpi a | .calli a => Named.only [a]
  | .ld c _ _ d x n _ => Named.mem [(d, c.val)] [(x, 1)] n
  | .st c _ d x n _ => Named.mem [] [(d, c.val), (x, 1)] n
  | .lds t _ _ d x | .ldl t _ _ d x => ⟨[(d, two1 t)], [(x, 1)], []⟩
  | .sts t _ d x | .stl t _ d x => ⟨[], [(d, two1 t), (x, 1)], []⟩
  | .atom o _ d x n _ => Named.mem [(d, 1)] [(d, if o = .cas then 2 else 1), (x, 1)] n
  | .atom2 _ d x n _ => Named.mem [(d, 1)] [(d, 1), (x, 1)] n
  | .bset n x m => ⟨[], [(x, 1)], if n = m then [m] else [m, n]⟩
  | .bsetS n k => ⟨[], [(if h : k - 96 < 30 then .s ⟨k - 96, h⟩ else .v 0, 4)], [n]⟩
  | .bget d n _ => ⟨[(d, 1)], [], [n]⟩
  | .wadr d x n => Named.mem [(d, 1)] [(d, 1), (x, 1)] n
  | .ctwt t x n | .ctinc t x n => Named.mem [] [(t, 1), (x, 1)] n
  | .cpy _ d x n _ => ⟨[], [(d, 1), (x, 1)], [n, n + 1]⟩
  | .cpyIn _ d x n _ | .cpyOut _ d x n _ => Named.mem [] [(d, 1), (x, 1)] n
  | .qw _ a => Named.only [a]
  | .qr b _ => Named.ds b []
  | .sard b a _ => Named.ds b [a]
  | .sawt a _ => Named.only [a]
  | .mld _ _ _ x n _ | .mldSb _ _ x n _ | .mst _ _ _ x n _ | .mstSb _ _ x n _ => Named.mem [] [(x, 1)] n
  | .rqt _ x n _ => ⟨[], [(x, 1)], [n, n + 1, n + 2, n + 3]⟩
  | .smv _ x n | .smvw _ x n => Named.mem [] [(x, 1)] n
  | .lclr z | .lnrm z => Named.only [z]
  | .laddF64 z s | .laddF32 z s | .laddBf16 z s | .lmrg z s => Named.only [z, s]
  | .lmacF64 z s u | .lmacF32 z s u | .lwrl z s u => Named.only [z, s, u]
  | .lrnd _ _ d z | .lst d z => Named.ds d [z]
  | .lrdl d z j => Named.ds d [z, j]
  | .lsv z x n _ | .lld z x n _ => Named.mem [] [(z, 1), (x, 1)] n
  | .pvsel _ d a b | .pvreg _ d a b => Named.ds d [a, b]
  | .fxmac _ d a b => Named.ds d [a, b, d]
  | .rngck _ a b => Named.only [a, b]
  | .glaunch x n | .glaunchNb x n | .tlaunch x n | .rerun x n => Named.mem [] [(x, 1)] n
  | .dtst d x n => Named.mem [(d, 1)] [(x, 1)] n
  | .trec x n => Named.mem [] [(x, 1)] n
  | .vgrow n | .vshr n => Named.only [n]
  | .srd d _ => Named.ds d []
  | .swr _ a => Named.only [a]
  | .logm a _ => Named.only [a]
  | .psavePane x n | .psaveMx x n | .psaveLx x n | .prestPane x n | .prestMx x n | .prestLx x n =>
    Named.mem [] [(x, 1)] n
  | _ => Named.none

/-- The instruction names a literal, so that a literal word must follow it (R38). -/
def Instr.namesLit (i : Instr) : Bool := (i.named.dst ++ i.named.src).any fun o => o.1.isLit

/-- `lit` as a destination, or a second `lit` operand (R38): reason 5. -/
def litMisuse (n : Named) : Bool :=
  n.dst.any (fun o => o.1.isLit) || decide (1 < litCount (n.src.map Prod.fst))

/-- The class rank at which an instruction executes (R25; the entries' own rules for lane and member forms). -/
def Instr.rank (i : Instr) : Nat :=
  let srcs := i.named.src.map Prod.fst
  match i with
  | .icmp .. | .fcmp .. | .rngck .. | .sel .. | .pvsel .. => 2
  | .mbc d .. | .mshf d .. | .mredAdd _ d _ | .mredMin _ d _ | .mredMax _ d _ | .msort _ d _
  | .mrank _ d _ _ | .mspr _ d _ | .lshf d .. | .lbc d .. | .lredAdd _ d _ | .lredMin _ d _
  | .lredMax _ d _ | .lscan _ d _ => if d.isZr then 2 else d.rank
  | .atom _ _ d x _ _ | .atom2 _ d x _ _ => dstRank d [x]
  | _ => match i.named.dst with
    | (d, _) :: _ => dstRank d srcs
    | [] => maxRank srcs

/-- The execution class of an instruction (R25). -/
def Instr.cls (i : Instr) : Cls := Cls.ofRank i.rank

/-- Reason 7: a field value outside the range the entry allows. -/
def Instr.badRange : Instr → Bool
  | .icmp _ _ p _ _ | .fcmp _ _ p _ _ | .rngck p _ _ => decide (47 < p)
  | .sel p _ _ _ => decide (47 < p)
  | .fcvt c d _ => decide (c = .f32i8x8) && d.isReg && pastTop d 2
  | .sfq _ _ _ _ k => decide (15 < k)
  | .pand k a b | .por k a b | .pxor k a b | .pandn k a b => decide (47 < k ∨ 47 < a ∨ 47 < b)
  | .pset k | .pclr k | .xmld k | .xmst k | .xmand k => decide (47 < k)
  | .pcnt _ k | .pbits _ k _ => decide (47 < k)
  | .bany p _ | .ball p _ | .bdiv p _ => decide (47 < p)
  | .bmw n ps => decide (n = 0 ∨ 4 < n) ||
      ps.zipIdx.any fun q => decide (47 < q.1.pred) && !(decide (q.1.pred = 63) && decide (q.2 + 1 = n))
  | .jmpi a | .calli a => !a.isReg
  | .ld c _ _ d _ _ _ => !d.isLit && pastTop d c.val
  | .st c _ d _ _ _ => pastTop d c.val
  | .lds t _ _ d _ | .ldl t _ _ d _ => !d.isLit && pastTop d (two1 t)
  | .sts t _ d _ | .stl t _ d _ => pastTop d (two1 t)
  | .atom o _ d _ _ _ => decide (o = .cas) && (d.isZr || (d.isReg && pastTop d 2))
  | .bset n _ m => decide (31 < n ∨ 31 < m)
  | .bsetS n k => decide (31 < n) || decide (k < 96 ∨ 122 < k)
  | .bget _ n i => decide (31 < n) || decide (3 < i)
  | .cpy _ _ _ n _ => decide (n = 31)
  | .cwait k => decide (15 < k)
  | .qw q _ | .qr _ q => decide (3 < q)
  | .sard _ _ k => decide (2 < k)
  | .sawt _ k => decide (15 < k)
  | .mld _ _ d _ _ _ | .mldSb _ d _ _ _ | .mst _ _ d _ _ _ | .mstSb _ d _ _ _ => decide (15 < d)
  | .mms ad _ _ sh _ | .mmh _ ad _ _ sh _ | .mmf _ ad _ _ sh _ => decide (7 < ad) || decide (4 < sh)
  | .mmd ad .. | .mmi _ ad .. | .mscl ad .. | .manc ad .. | .macz ad | .maczF32 ad | .mflg ad _ => decide (7 < ad)
  | .mdrn _ ad _ md => decide (7 < ad) || decide (4 < md)
  | .rqt _ _ n _ => decide (28 < n)
  | .smv t _ _ | .smvw t _ _ => decide (t = .rsvd)
  | .glaunch _ n | .glaunchNb _ n | .tlaunch _ n | .rerun _ n | .dtst _ _ n | .trec _ n
  | .psavePane _ n | .psaveMx _ n | .psaveLx _ n | .prestPane _ n | .prestMx _ n | .prestLx _ n =>
    decide (31 < n)
  | _ => false

/-- Reason 5: `lit` where the entry forbids it. -/
def Instr.badLit (i : Instr) : Bool :=
  litMisuse i.named || (match i with
  | .lclr z | .laddF64 z _ | .laddF32 z _ | .laddBf16 z _ | .lmacF64 z _ _ | .lmacF32 z _ _ | .lmrg z _
  | .lnrm z | .lwrl z _ _ | .lsv z _ _ _ | .lld z _ _ _ => z.isLit
  | .pvsel _ _ _ b => b.isLit
  | _ => false)

/-- Reason 4: a class that the entry or R25 forbids. -/
def Instr.badClass (i : Instr) : Bool :=
  match i with
  | .icmp .. | .fcmp .. => false
  | .rngck _ _ b => !b.scalarish
  | .sel _ d _ _ => d.isW || d.isS
  | .sfw a => !a.scalarish
  | .mbc d _ b => d.isS || !b.scalarish
  | .mshf d _ _ => d.isS || d.isW
  | .mredAdd _ d _ | .mredMin _ d _ | .mredMax _ d _ | .mspr _ d _ => d.isS
  | .msort _ d _ => d.isS || d.isW
  | .mrank _ d _ _ => d.isS || d.isW
  | .lshf d a b => d.isS || (d.isW && (a.isV || b.isV))
  | .lbc d a b => d.isS || (d.isW && a.isV) || !b.scalarish
  | .lredAdd _ d a | .lredMin _ d a | .lredMax _ d a | .lscan _ d a => d.isS || (d.isW && a.isV)
  | .pcnt d _ => d.isV || d.isW
  | .pbits d _ a => d.isV || d.isW || !a.scalarish
  | .ldl _ _ _ d _ | .stl _ _ d _ => !d.isV
  | .atom _ _ d x _ _ | .atom2 _ d x _ _ | .wadr d x _ => wider d [x]
  | .bset _ x _ => !x.scalarish
  | .bget d _ _ => d.isV || d.isW
  | .ctwt t x _ | .ctinc t x _ => !t.scalarish || !x.scalarish
  | .qw _ a => !a.scalarish
  | .qr b _ => !b.isS && !b.isZr && !b.isLit
  | .sard _ a _ | .sawt a _ => !a.scalarish
  | .mld _ _ _ x _ _ | .mldSb _ _ x _ _ | .mst _ _ _ x _ _ | .mstSb _ _ x _ _ => !x.scalarish
  | .rqt _ x _ _ | .smv _ x _ | .smvw _ x _ => x.isV || x.isW
  | .pvsel _ d _ b => d.isW || d.isS || !b.scalarish
  | .glaunch x _ | .glaunchNb x _ | .tlaunch x _ | .rerun x _ => !x.scalarish
  | .vgrow n | .vshr n => !n.scalarish
  | .srd d ix => (decide (ix = 2 ∨ ix = 3 ∨ ix = 0x1B)) && !d.isV
  | .swr _ a | .logm a _ => !a.scalarish
  | .psavePane x _ | .psaveMx x _ | .psaveLx x _ | .prestPane x _ | .prestMx x _ | .prestLx x _ => !x.scalarish
  | _ => match i.named.dst with
    | (d, _) :: _ => wider d (i.named.src.map Prod.fst)
    | [] => false

/-- The reason of the ILLEGAL an instruction's operands raise, the first in the order of R281; none when well formed. -/
def Instr.illegal (i : Instr) : Option Nat :=
  firstBad [(i.badRange, 7), (i.badLit, 5), (i.badClass, 4)]

/-- Operation and type of an `atom` that the table gives a function value: no bit operation on a floating-point type (R287). -/
def atomListed (o : AtomOp) (t : AType) : Bool :=
  !(decide (o = .and ∨ o = .or ∨ o = .xor) && decide (t = .f32 ∨ t = .f64))

/-- Every number of an instruction fits its field of the encoding, and the table has a function value for its options (R281)
(DEDUCED, log entry 51). -/
def Instr.fits : Instr → Bool
  | .icmp _ _ p _ _ | .fcmp _ _ p _ _ | .rngck p _ _ => decide (p < 128)
  | .sel p _ a _ => decide (p < 64) && decide (a.code < 128)
  | .sfq _ _ _ _ k => decide (k < 64)
  | .pand k a b | .por k a b | .pxor k a b | .pandn k a b => decide (k < 64 ∧ a < 128 ∧ b < 128)
  | .pset k | .pclr k | .xmld k | .xmst k | .xmand k | .pcnt _ k | .pbits _ k _ => decide (k < 64)
  | .bany p o | .ball p o | .bdiv p o => decide (p < 64 ∧ o < 2 ^ 20)
  | .jmp o | .call o | .rcv o => decide (o < 2 ^ 20)
  | .bsaFull k o | .bsaRoom k o => decide (k < 16 ∧ o < 2 ^ 20)
  | .bmw n ps => decide (n < 64 ∧ ps.length = n) && ps.all fun q => decide (q.pred < 64 ∧ q.off < 2 ^ 26)
  | .trap k | .sys k | .cwait k | .logm _ k | .sawt _ k | .sard _ _ k => decide (k < 64)
  | .ld _ sx mw _ _ n _ => decide (n < 32) && !(sx && decide (mw = .d))
  | .lds _ sx mw _ _ | .ldl _ sx mw _ _ => !(sx && decide (mw = .d))
  | .atom o t _ _ n _ => decide (n < 32) && atomListed o t
  | .st _ _ _ _ n _ | .atom2 _ _ _ n _ => decide (n < 32)
  | .bset n _ m => decide (n < 64 ∧ m < 128)
  | .bsetS n k => decide (n < 64 ∧ k < 128)
  | .bget _ n i => decide (n < 64 ∧ i < 128)
  | .wadr _ _ n | .ctwt _ _ n | .ctinc _ _ n => decide (n < 32)
  | .cpy s _ _ n _ | .cpyIn s _ _ n _ | .cpyOut s _ _ n _ => decide (s < 7 ∧ n < 32)
  | .qw q _ | .qr _ q => decide (q < 64)
  | .mld _ _ d _ n _ | .mst _ _ d _ n _ | .mldSb _ d _ n _ | .mstSb _ d _ n _ => decide (d < 128 ∧ n < 32)
  | .mmd ad ma mb _ => decide (ad < 16 ∧ ma < 16 ∧ mb < 16)
  | .mms ad ma mb sh _ => decide (ad < 16 ∧ ma < 16 ∧ mb < 16 ∧ sh < 8)
  | .mmh _ ad ma mb sh _ | .mmf _ ad ma mb sh _ => decide (ad < 16 ∧ ma < 16 ∧ mb < 16 ∧ sh < 8)
  | .mmi _ ad ma mb _ => decide (ad < 16 ∧ ma < 16 ∧ mb < 16)
  | .mmq ma mb _ _ _ => decide (ma < 16 ∧ mb < 16)
  | .mscl ad ma mb _ | .manc ad ma mb => decide (ad < 16 ∧ ma < 16 ∧ mb < 16)
  | .macz ad | .maczF32 ad => decide (ad < 16)
  | .mdrn _ ad v4 md => decide (ad < 16 ∧ v4 < 16 ∧ md < 8)
  | .mtlIn t v | .mtlOut t v | .mtlSb t v => decide (t < 16 ∧ v < 16)
  | .mflg ad t => decide (ad < 16 ∧ t < 16)
  | .mpass px => decide (px < 16)
  | .rqt _ _ n _ | .smv _ _ n | .smvw _ _ n | .lsv _ _ n _ | .lld _ _ n _ => decide (n < 32)
  | .fxmac sh _ _ _ => decide (sh < 16)
  | .glaunch _ n | .glaunchNb _ n | .tlaunch _ n | .rerun _ n | .dtst _ _ n
  | .psavePane _ n | .psaveMx _ n | .psaveLx _ n | .prestPane _ n | .prestMx _ n | .prestLx _ n =>
    decide (n < 64)
  | .trec x n => decide (n < 64) && !(decide (n = 32) && x.isZr)
  | .srd _ ix | .swr ix _ => decide (ix < 128)
  | _ => true

/-- A constructor that has an instruction word. -/
def Instr.hasWord : Instr → Bool
  | .ptrootWrite _ | .translationInvalidated _ | .wpartWrite .. | .wpartConversionDone _ | .dmapEnable _
  | .dmapMapsClear _ | .dmapDisable _ | .dirtyMapCleared _ | .sfqResult _ | .loadReply _
  | .storeRegistrationAck _ | .registryRecall _ | .sequenceCounterIncrement _ | .engineOpComplete _
  | .batonGrant _ | .copyBatchComplete _ | .haloCommandComplete _ | .collectiveCommandComplete _
  | .stackJobComplete _ | .remoteReply .. | .remoteTimeout _ | .inboundRemoteRequest _
  | .faultMergeWindow _ | .pageFaultReply _ | .barrierWatchdog _ | .progressWatchdog _ | .sliceExpiry ..
  | .vgrowDeadlock _ | .vgrowGrant _ | .resumption _ | .swapOut _ | .swapIn _ | .pendingMove _
  | .launchCheck _ | .taskCheck _ | .taskReady .. | .bind | .admission _ | .casementRetire _
  | .launchComplete _ | .taskComplete _ | .correctedError _ | .selfTestResult .. | .uncorrectableError ..
  | .hostLaunch .. | .hostRdmaWrite .. | .hostRdmaRead .. | .hostRdmaAtomic .. | .installRegion ..
  | .removeRegion .. | .bindPort .. | .unbindPort .. | .attest .. | .identityCertificates _
  | .powerReport _ | .setPowerLimit .. | .stageFirmware .. | .reset .. | .defineContext ..
  | .undefineContext .. | .setConfiguration .. | .powerOnReset .. | .blockPowerReport .. | .keyExchange ..
  | .keyExchangeTimeout _ | .keyRotation _ | .stationDown _ | .stationUp .. | .expanderRemoved _
  | .clauseHeader | .reservedEncoding .. | .writeAcknowledged _ | .collectivePartialState _
  | .expanderAttached .. | .malformedPlatformRequest .. | .malformedManagementRequest .. => false
  | _ => true

/-- A well-formed instruction: every field fits its width and no operand rule is broken. -/
def Instr.wellFormed (i : Instr) : Bool := i.fits && i.illegal.isNone

end Sys2Proof
end

