-- ==== Sys2Proof/Decode.lean ====
section
/-! DEFINITION. The decoder (R267, R278 to R282), total on any words, and after it the encoder from the same
tables. A word outside the table is rejected by name; operand rules (reasons 7, 5, 4) are `Instr.illegal`'s. -/

namespace Sys2Proof

/-- Why a word is no instruction (R281). -/
inductive DecErr where
  /-- reason 1: a reserved major opcode. -/
  | reservedMajor
  /-- reason 2: a reserved function value. -/
  | reservedFunction
  /-- reason 3: a nonzero must-be-0 field. -/
  | mustBeZero
  /-- reason 7: a field value out of range that the table itself excludes (sh3 of `mmd`, `mmi`, `mmq`, and the like). -/
  | outOfRange
  /-- HEADER reason 9: the literal word or a pair word lies past the end of the clause. -/
  | pastEnd
deriving DecidableEq, Repr

/-- The efd reason of a rejected word (R235, R281). -/
def DecErr.reason : DecErr → Nat
  | .reservedMajor => 1 | .reservedFunction => 2 | .mustBeZero => 3 | .outOfRange => 7 | .pastEnd => 9

/-- The operand of a 7-bit code; code 127 takes the literal word (R24, R38). -/
def opndOf (c : Nat) (l : W32) : Opnd :=
  if h : c < 64 then .v ⟨c, h⟩
  else if h : c - 64 < 32 then .w ⟨c - 64, h⟩
  else if h : c - 96 < 30 then .s ⟨c - 96, h⟩
  else if c = 126 then .zr else .lit l

/-- The IWidth of a field value. -/
def IWidth.ofCode : Nat → IWidth
  | 0 => .i64
  | 1 => .i32
  | 2 => .i16
  | _ => .i8

/-- The field value of a IWidth. -/
def IWidth.toCode : IWidth → Nat
  | .i64 => 0
  | .i32 => 1
  | .i16 => 2
  | .i8 => 3

/-- The FType of a field value. -/
def FType.ofCode : Nat → FType
  | 0 => .f64
  | 1 => .f32
  | 2 => .bf16
  | _ => .f16

/-- The field value of a FType. -/
def FType.toCode : FType → Nat
  | .f64 => 0
  | .f32 => 1
  | .bf16 => 2
  | .f16 => 3

/-- The RType of a field value. -/
def RType.ofCode : Nat → RType
  | 0 => .f64
  | 1 => .f32
  | 2 => .i64
  | _ => .i32

/-- The field value of a RType. -/
def RType.toCode : RType → Nat
  | .f64 => 0
  | .f32 => 1
  | .i64 => 2
  | .i32 => 3

/-- The AType of a field value. -/
def AType.ofCode : Nat → AType
  | 0 => .i32
  | 1 => .i64
  | 2 => .f32
  | _ => .f64

/-- The field value of a AType. -/
def AType.toCode : AType → Nat
  | .i32 => 0
  | .i64 => 1
  | .f32 => 2
  | .f64 => 3

/-- The AtomOp of a field value. -/
def AtomOp.ofCode : Nat → AtomOp
  | 0 => .add
  | 1 => .min
  | 2 => .max
  | 3 => .and
  | 4 => .or
  | 5 => .xor
  | 6 => .xchg
  | _ => .cas

/-- The field value of a AtomOp. -/
def AtomOp.toCode : AtomOp → Nat
  | .add => 0
  | .min => 1
  | .max => 2
  | .and => 3
  | .or => 4
  | .xor => 5
  | .xchg => 6
  | .cas => 7

/-- The Atom2Op of a field value. -/
def Atom2Op.ofCode : Nat → Atom2Op
  | 0 => .addBf16
  | 1 => .addF16
  | 2 => .minBf16
  | _ => .maxBf16

/-- The field value of a Atom2Op. -/
def Atom2Op.toCode : Atom2Op → Nat
  | .addBf16 => 0
  | .addF16 => 1
  | .minBf16 => 2
  | .maxBf16 => 3

/-- The ICond of a field value. -/
def ICond.ofCode : Nat → ICond
  | 0 => .eq
  | 1 => .ne
  | 2 => .lt
  | 3 => .le
  | 4 => .ltu
  | 5 => .leu
  | 6 => .tst
  | _ => .ntst

/-- The field value of a ICond. -/
def ICond.toCode : ICond → Nat
  | .eq => 0
  | .ne => 1
  | .lt => 2
  | .le => 3
  | .ltu => 4
  | .leu => 5
  | .tst => 6
  | .ntst => 7

/-- The FCond of a field value. -/
def FCond.ofCode : Nat → FCond
  | 0 => .eq
  | 1 => .ne
  | 2 => .lt
  | 3 => .le
  | 4 => .gt
  | 5 => .ge
  | 6 => .un
  | _ => .ord

/-- The field value of a FCond. -/
def FCond.toCode : FCond → Nat
  | .eq => 0
  | .ne => 1
  | .lt => 2
  | .le => 3
  | .gt => 4
  | .ge => 5
  | .un => 6
  | .ord => 7

/-- The CvtCode of a field value. -/
def CvtCode.ofCode : Nat → CvtCode
  | 0 => .f32f64
  | 1 => .f64f32
  | 2 => .bf16f32
  | 3 => .f32bf16
  | 4 => .f16f32
  | 5 => .f32f16
  | 6 => .e4m3sat
  | 7 => .e4m3nan
  | 8 => .f32e4m3
  | 9 => .e5m2f32
  | 10 => .f32e5m2
  | 11 => .i64f64
  | 12 => .f64i64
  | 13 => .ui64f64
  | 14 => .f64ui64
  | 15 => .i32f32
  | 16 => .f32i32
  | 17 => .i32f64
  | 18 => .f32i8x8
  | _ => .q4f32

/-- The field value of a CvtCode. -/
def CvtCode.toCode : CvtCode → Nat
  | .f32f64 => 0
  | .f64f32 => 1
  | .bf16f32 => 2
  | .f32bf16 => 3
  | .f16f32 => 4
  | .f32f16 => 5
  | .e4m3sat => 6
  | .e4m3nan => 7
  | .f32e4m3 => 8
  | .e5m2f32 => 9
  | .f32e5m2 => 10
  | .i64f64 => 11
  | .f64i64 => 12
  | .ui64f64 => 13
  | .f64ui64 => 14
  | .i32f32 => 15
  | .f32i32 => 16
  | .i32f64 => 17
  | .f32i8x8 => 18
  | .q4f32 => 19

/-- The SfFn of a field value. -/
def SfFn.ofCode : Nat → SfFn
  | 0 => .rcp
  | 1 => .rsqrt
  | 2 => .sqrt
  | 3 => .exp2
  | 4 => .log2
  | 5 => .sinpi
  | 6 => .cospi
  | 7 => .tanh
  | 8 => .sigm
  | 9 => .silu
  | 10 => .gelu
  | _ => .erf

/-- The field value of a SfFn. -/
def SfFn.toCode : SfFn → Nat
  | .rcp => 0
  | .rsqrt => 1
  | .sqrt => 2
  | .exp2 => 3
  | .log2 => 4
  | .sinpi => 5
  | .cospi => 6
  | .tanh => 7
  | .sigm => 8
  | .silu => 9
  | .gelu => 10
  | .erf => 11

/-- The RMode of a field value. -/
def RMode.ofCode : Nat → RMode
  | 0 => .rne
  | 1 => .rtz
  | 2 => .rup
  | _ => .rdn

/-- The field value of a RMode. -/
def RMode.toCode : RMode → Nat
  | .rne => 0
  | .rtz => 1
  | .rup => 2
  | .rdn => 3

/-- The CPol of a field value. -/
def CPol.ofCode : Nat → CPol
  | 0 => .dflt
  | 1 => .dev
  | 2 => .sys
  | _ => .str

/-- The field value of a CPol. -/
def CPol.toCode : CPol → Nat
  | .dflt => 0
  | .dev => 1
  | .sys => 2
  | .str => 3

/-- The MWidth of a field value. -/
def MWidth.ofCode : Nat → MWidth
  | 0 => .b
  | 1 => .h
  | 2 => .w
  | _ => .d

/-- The field value of a MWidth. -/
def MWidth.toCode : MWidth → Nat
  | .b => 0
  | .h => 1
  | .w => 2
  | .d => 3

/-- The MCount of a field value. -/
def MCount.ofCode : Nat → MCount
  | 0 => .one
  | 1 => .two
  | _ => .four

/-- The field value of a MCount. -/
def MCount.toCode : MCount → Nat
  | .one => 0
  | .two => 1
  | .four => 2

/-- The TileTy of a field value. -/
def TileTy.ofCode : Nat → TileTy
  | 0 => .f64
  | 1 => .f32
  | 2 => .bf16
  | 3 => .f16
  | 4 => .e4m3
  | 5 => .e5m2
  | 6 => .i8
  | _ => .q4

/-- The field value of a TileTy. -/
def TileTy.toCode : TileTy → Nat
  | .f64 => 0
  | .f32 => 1
  | .bf16 => 2
  | .f16 => 3
  | .e4m3 => 4
  | .e5m2 => 5
  | .i8 => 6
  | .q4 => 7

/-- The HalfTy of a field value. -/
def HalfTy.ofCode : Nat → HalfTy
  | 0 => .bf16
  | _ => .f16

/-- The field value of a HalfTy. -/
def HalfTy.toCode : HalfTy → Nat
  | .bf16 => 0
  | .f16 => 1

/-- The F8Ty of a field value. -/
def F8Ty.ofCode : Nat → F8Ty
  | 0 => .e4m3
  | 1 => .e5m2
  | 2 => .e4m3e5m2
  | _ => .e5m2e4m3

/-- The field value of a F8Ty. -/
def F8Ty.toCode : F8Ty → Nat
  | .e4m3 => 0
  | .e5m2 => 1
  | .e4m3e5m2 => 2
  | .e5m2e4m3 => 3

/-- The I8Ty of a field value. -/
def I8Ty.ofCode : Nat → I8Ty
  | 0 => .i8
  | 1 => .ui8i8
  | 2 => .i8ui8
  | _ => .ui8

/-- The field value of a I8Ty. -/
def I8Ty.toCode : I8Ty → Nat
  | .i8 => 0
  | .ui8i8 => 1
  | .i8ui8 => 2
  | .ui8 => 3

/-- The Q4Ty of a field value. -/
def Q4Ty.ofCode : Nat → Q4Ty
  | 0 => .uni
  | 1 => .e2m1
  | 2 => .pow2
  | _ => .hyb

/-- The field value of a Q4Ty. -/
def Q4Ty.toCode : Q4Ty → Nat
  | .uni => 0
  | .e2m1 => 1
  | .pow2 => 2
  | .hyb => 3

/-- The WtTy of a field value. -/
def WtTy.ofCode : Nat → WtTy
  | 0 => .bf16w
  | 1 => .e4m3w
  | 2 => .q4w
  | _ => .rsvd

/-- The field value of a WtTy. -/
def WtTy.toCode : WtTy → Nat
  | .bf16w => 0
  | .e4m3w => 1
  | .q4w => 2
  | .rsvd => 3

/-- A bit of a word as a Bool. -/
abbrev flag (w n : Nat) : Bool := bits w n 1 == 1

/-- The flags of fl6[3:0] (R106). -/
def MFlags.ofCode (w : Nat) : MFlags := ⟨flag w 0, flag w 1, flag w 2, flag w 3⟩

/-- A flag as its bit. -/
def bit1 (b : Bool) : Nat := if b then 1 else 0

/-- The fl6[3:0] value of the flags. -/
def MFlags.toCode (f : MFlags) : Nat := bit1 f.ta + 2 * bit1 f.tb + 4 * bit1 f.ms + 8 * bit1 f.cf

/-- A word's instruction before the checks of must-be-0 fields and table ranges: `mbz` says that every must-be-0
field is 0, `rng` that every field the table itself bounds is in range. -/
structure Raw where
  i : Instr
  mbz : Bool := true
  rng : Bool := true
deriving DecidableEq, Repr

/-- A word with no must-be-0 field. -/
def ok (i : Instr) : Except DecErr Raw := .ok ⟨i, true, true⟩
/-- A word with must-be-0 fields. -/
def okZ (i : Instr) (z : Bool) : Except DecErr Raw := .ok ⟨i, z, true⟩
/-- A word with must-be-0 fields and table ranges. -/
def okR (i : Instr) (z r : Bool) : Except DecErr Raw := .ok ⟨i, z, r⟩
/-- A reserved function value. -/
def rsvFn : Except DecErr Raw := .error .reservedFunction

/-- Major 1 (R319). -/
def decodeInt1 (w : Nat) (l : W32) : Except DecErr Raw :=
  let t := IWidth.ofCode (bits w 21 2)
  let d := opndOf (bits w 14 7) l
  let a := opndOf (bits w 7 7) l
  let b := opndOf (bits w 0 7) l
  match bits w 23 3 with
  | 0 => ok (.iadd t d a b)
  | 1 => ok (.isub t d a b)
  | 2 => ok (.imul t d a b)
  | 3 => ok (.imulh t d a b)
  | 4 => ok (.imin t d a b)
  | 5 => ok (.imax t d a b)
  | 6 => ok (.iminu t d a b)
  | _ => ok (.imaxu t d a b)

/-- Major 2 (R319). -/
def decodeInt2 (w : Nat) (l : W32) : Except DecErr Raw :=
  let t := IWidth.ofCode (bits w 21 2)
  let d := opndOf (bits w 14 7) l
  let a := opndOf (bits w 7 7) l
  let b := opndOf (bits w 0 7) l
  match bits w 23 3 with
  | 0 => ok (.iand t d a b)
  | 1 => ok (.ior t d a b)
  | 2 => ok (.ixor t d a b)
  | 3 => ok (.iandn t d a b)
  | 4 => ok (.ishl t d a b)
  | 5 => ok (.ishr t d a b)
  | 6 => ok (.isar t d a b)
  | _ => ok (.irot t d a b)

/-- Major 3 (R319). -/
def decodeInt3 (w : Nat) (l : W32) : Except DecErr Raw :=
  let t := IWidth.ofCode (bits w 21 2)
  let d := opndOf (bits w 14 7) l
  let a := opndOf (bits w 7 7) l
  let b := opndOf (bits w 0 7) l
  let z := bits w 0 7 == 0
  match bits w 23 3 with
  | 0 => okZ (.iabs t d a) z
  | 1 => okZ (.iclz t d a) z
  | 2 => okZ (.ipopc t d a) z
  | 3 => okZ (.ibrev t d a) z
  | 4 => ok (.iadds t d a b)
  | 5 => ok (.isubs t d a b)
  | 6 => ok (.imad t d a b)
  | _ => ok (.imulhu t d a b)

/-- Majors 4 to 11: compares, bit fields, select, move, floating point (R312 to R315, R320, R321, R342, R360). -/
def decodeAlu (M w : Nat) (l : W32) : Except DecErr Raw :=
  let ft := FType.ofCode (bits w 21 2)
  let d := opndOf (bits w 14 7) l
  let a := opndOf (bits w 7 7) l
  let b := opndOf (bits w 0 7) l
  let z := bits w 0 7 == 0
  match M with
  | 4 => ok (.icmp (.ofCode (bits w 23 3)) (.ofCode (bits w 21 2)) (bits w 14 7) a b)
  | 5 => match bits w 21 5 with
    | 0 => ok (.ibfx d a b)
    | 1 => ok (.ibfxS d a b)
    | 2 => ok (.ibfi d a b)
    | _ => rsvFn
  | 6 => ok (.sel (bits w 20 6) (opndOf (bits w 13 7) l) (opndOf (bits w 6 7) l) ⟨bits w 0 6, Nat.mod_lt _ (by decide)⟩)
  | 7 => if bits w 21 5 = 0 then okZ (.mov d a) z else rsvFn
  | 8 => match bits w 23 3 with
    | 0 => ok (.fadd ft d a b)
    | 1 => ok (.fsub ft d a b)
    | 2 => ok (.fmul ft d a b)
    | 3 => ok (.ffma ft d a b)
    | 4 => ok (.ffms ft d a b)
    | 5 => ok (.fnma ft d a b)
    | 6 => ok (.fmin ft d a b)
    | _ => ok (.fmax ft d a b)
  | 9 => match bits w 23 3 with
    | 0 => okZ (.fabs ft d a) z
    | 1 => okZ (.fneg ft d a) z
    | 2 => ok (.fscl ft d a b)
    | 3 => okZ (.frnd ft d a) z
    | 4 => okZ (.fclass ft d a) z
    | 5 => ok (.fcpys ft d a b)
    | _ => rsvFn
  | 10 => ok (.fcmp (.ofCode (bits w 23 3)) ft (bits w 14 7) a b)
  | _ => if bits w 21 5 < 20 then okZ (.fcvt (.ofCode (bits w 21 5)) d a) z else rsvFn

/-- Majors 12 to 16: special functions, member and lane operations, predicates (R335, R343, R348, R361, R362). -/
def decodeSpec (M w : Nat) (l : W32) : Except DecErr Raw :=
  let rt := RType.ofCode (bits w 21 2)
  let d := opndOf (bits w 14 7) l
  let a := opndOf (bits w 7 7) l
  let b := opndOf (bits w 0 7) l
  let z := bits w 0 7 == 0
  let t0 := bits w 21 2 == 0
  match M with
  | 12 => if bits w 20 4 < 12 then
      ok (.sfq (.ofCode (bits w 24 2)) (.ofCode (bits w 20 4)) (opndOf (bits w 6 7) l) (opndOf (bits w 13 7) l) (bits w 0 6))
    else rsvFn
  | 13 => if bits w 20 6 = 0 then okZ (.sfw (opndOf (bits w 13 7) l)) (bits w 0 13 == 0) else rsvFn
  | 14 => match bits w 23 3 with
    | 0 => okZ (.mbc d a b) t0
    | 1 => okZ (.mshf d a b) t0
    | 2 => okZ (.mredAdd rt d a) z
    | 3 => okZ (.mredMin rt d a) z
    | 4 => okZ (.mredMax rt d a) z
    | 5 => okZ (.msort rt d a) z
    | 6 => ok (.mrank rt d a b)
    | _ => okZ (.mspr rt d a) z
  | 15 => match bits w 23 3 with
    | 0 => okZ (.lshf d a b) t0
    | 1 => okZ (.lbc d a b) t0
    | 2 => okZ (.lredAdd rt d a) z
    | 3 => okZ (.lredMin rt d a) z
    | 4 => okZ (.lredMax rt d a) z
    | 5 => okZ (.lscan rt d a) z
    | _ => rsvFn
  | _ =>
    let k := bits w 0 6
    let pb := bits w 6 7
    let pa := bits w 13 7
    let ab0 := bits w 6 14 == 0
    match bits w 20 6 with
    | 0 => ok (.pand k pa pb)
    | 1 => ok (.por k pa pb)
    | 2 => ok (.pxor k pa pb)
    | 3 => ok (.pandn k pa pb)
    | 4 => okZ (.pset k) ab0
    | 5 => okZ (.pclr k) ab0
    | 6 => okZ (.xmld k) ab0
    | 7 => okZ (.xmst k) ab0
    | 8 => okZ (.xmand k) ab0
    | 9 => okZ (.pcnt (opndOf pb l) k) (pa == 0)
    | 10 => ok (.pbits (opndOf pb l) k (opndOf pa l))
    | _ => rsvFn

/-- The pair word of a 32-bit word (R50). -/
def BmwPair.ofWord (w : W32) : BmwPair := ⟨bits w.toNat 26 6, bits w.toNat 0 26⟩

/-- Majors 17 to 24: control transfers and traps (R50, R236, R291 to R299). -/
def decodeCtl (M w : Nat) (l : W32) (next : List W32) : Except DecErr Raw :=
  let c := bits w 20 6
  let o := bits w 0 20
  let a := opndOf (bits w 13 7) l
  let z := bits w 0 20 == 0
  let bk0 := bits w 0 13 == 0
  match M with
  | 17 => ok (.bany c o)
  | 18 => ok (.ball c o)
  | 19 => match c with
    | 0 => ok (.jmp o)
    | 1 => ok (.call o)
    | _ => rsvFn
  | 20 => ok (.bdiv c o)
  | 21 => okZ (.bmw c ((next.take c).map BmwPair.ofWord)) (o == 0)
  | 22 => okR (.rcv o) true (c == 0)
  | 23 => okZ (if bits w 24 1 = 0 then .bsaFull (bits w 20 4) o else .bsaRoom (bits w 20 4) o) (bits w 25 1 == 0)
  | _ => match c with
    | 0 => okZ .join z
    | 1 => okZ .ret z
    | 2 => okZ (.jmpi a) bk0
    | 3 => okZ (.calli a) bk0
    | 4 => okZ .exit z
    | 5 => okZ .nop z
    | 6 => okZ (.trap (bits w 0 6)) (bits w 6 14 == 0)
    | 7 => okZ (.sys (bits w 0 6)) (bits w 6 14 == 0)
    | 8 => okZ .eret z
    | 9 => okZ .brk z
    | _ => rsvFn

/-- Majors 25 to 37: memory, ordering, copies, queues, allowance (R278). -/
def decodeMem (M w : Nat) (l : W32) : Except DecErr Raw :=
  let d := opndOf (bits w 14 7) l
  let x := opndOf (bits w 7 7) l
  let n := bits w 2 5
  let p := CPol.ofCode (bits w 0 2)
  let mw := MWidth.ofCode (bits w 21 2)
  let sx := flag w 23
  let nb := bits w 0 7 == 0
  let a := opndOf (bits w 13 7) l
  let b := opndOf (bits w 6 7) l
  let k := bits w 0 6
  let z := bits w 0 20 == 0
  match M with
  | 25 => if bits w 24 2 = 3 ∨ (sx = true ∧ bits w 21 2 = 3) then rsvFn
    else ok (.ld (.ofCode (bits w 24 2)) sx mw d x n p)
  | 26 => if bits w 24 2 = 3 then rsvFn else okZ (.st (.ofCode (bits w 24 2)) mw d x n p) (!sx)
  | 27 => if sx = true ∧ bits w 21 2 = 3 then rsvFn
    else if bits w 25 1 = 0 then okZ (.lds (flag w 24) sx mw d x) nb
    else okZ (.sts (flag w 24) mw d x) (nb && !sx)
  | 28 => if sx = true ∧ bits w 21 2 = 3 then rsvFn
    else if bits w 25 1 = 0 then okZ (.ldl (flag w 24) sx mw d x) nb
    else okZ (.stl (flag w 24) mw d x) (nb && !sx)
  | 29 => if 2 < bits w 23 3 ∧ bits w 23 3 < 6 ∧ 1 < bits w 21 2 then rsvFn
    else ok (.atom (.ofCode (bits w 23 3)) (.ofCode (bits w 21 2)) d x n p)
  | 30 => if bits w 21 5 < 4 then ok (.atom2 (.ofCode (bits w 21 5)) d x n p) else rsvFn
  | 31 => match bits w 20 6 with
    | 0 => ok (.bset k a (bits w 6 7))
    | 1 => okZ (.bsetS k (bits w 13 7)) (bits w 6 7 == 0)
    | 2 => ok (.bget b k (bits w 13 7))
    | _ => rsvFn
  | 32 => match bits w 20 6 with
    | 0 => okZ .acq z
    | 1 => okZ .rel z
    | 2 => okZ .fence z
    | 3 => okZ .bar z
    | 4 => okZ .sbar z
    | _ => rsvFn
  | 33 => match bits w 21 5 with
    | 0 => okZ (.wadr d x n) (bits w 0 2 == 0)
    | 1 => okZ (.ctwt d x n) (bits w 0 2 == 0)
    | 2 => okZ (.ctinc d x n) (bits w 0 2 == 0)
    | _ => rsvFn
  | 34 => if bits w 21 3 = 7 then rsvFn
    else match bits w 24 2 with
      | 0 => ok (.cpy (bits w 21 3) d x n p)
      | 1 => ok (.cpyIn (bits w 21 3) d x n p)
      | 2 => okZ (.cpy (bits w 21 3) d x n p) false
      | _ => ok (.cpyOut (bits w 21 3) d x n p)
  | 35 => match bits w 20 6 with
    | 0 => okZ .cseal z
    | 1 => okZ (.cwait k) (bits w 6 14 == 0)
    | _ => rsvFn
  | 36 => match bits w 20 6 with
    | 0 => okZ (.qw k a) (bits w 6 7 == 0)
    | 1 => okZ (.qr b k) (bits w 13 7 == 0)
    | _ => rsvFn
  | _ => match bits w 20 6 with
    | 0 => ok (.sard b a k)
    | 1 => okZ (.sawt a k) (bits w 6 7 == 126)
    | _ => rsvFn

/-- Majors 38 to 43: the matrix engine and the stack-side units (R106, R110, R116, R119, R120). -/
def decodeMx (M w : Nat) (l : W32) : Except DecErr Raw :=
  let d7 := bits w 14 7
  let x := opndOf (bits w 7 7) l
  let dx := opndOf d7 l
  let n := bits w 2 5
  let p := CPol.ofCode (bits w 0 2)
  let ms := flag w 24
  let sb := flag w 25
  let q4 := bits w 21 3 == 7
  let ad := bits w 17 4
  let ma := bits w 13 4
  let mb := bits w 9 4
  let sh := bits w 6 3
  let f := MFlags.ofCode w
  let f0 := bits w 4 2 == 0
  let fl0 := bits w 0 6 == 0
  match M with
  | 38 => if sb = true then if q4 = true then ok (.mldSb ms d7 x n p) else rsvFn
    else ok (.mld ms (.ofCode (bits w 21 3)) d7 x n p)
  | 39 => if sb = true then if q4 = true then ok (.mstSb ms d7 x n p) else rsvFn
    else ok (.mst ms (.ofCode (bits w 21 3)) d7 x n p)
  | 40 => match bits w 21 5 with
    | 0 => okR (.mmd ad ma mb f) f0 (sh == 0)
    | 1 => okZ (.mms ad ma mb sh f) f0
    | 2 => okZ (.mmh .bf16 ad ma mb sh f) f0
    | 3 => okZ (.mmh .f16 ad ma mb sh f) f0
    | 4 => okZ (.mmf .e4m3 ad ma mb sh f) f0
    | 5 => okZ (.mmf .e5m2 ad ma mb sh f) f0
    | 6 => okZ (.mmf .e4m3e5m2 ad ma mb sh f) f0
    | 7 => okZ (.mmf .e5m2e4m3 ad ma mb sh f) f0
    | 8 => okR (.mmi .i8 ad ma mb f) f0 (sh == 0)
    | 9 => okR (.mmi .ui8i8 ad ma mb f) f0 (sh == 0)
    | 10 => okR (.mmi .i8ui8 ad ma mb f) f0 (sh == 0)
    | 11 => okR (.mmi .ui8 ad ma mb f) f0 (sh == 0)
    | 12 => okR (.mmq ma mb f.ta f.tb f.ms) (f0 && ad == 0 && !f.cf) (sh == 0)
    | _ => rsvFn
  | 41 => match bits w 21 5 with
    | 0 => okZ (.mscl ad ma mb f.cf) (sh == 0 && (fl0 || bits w 0 6 == 8))
    | 1 => okZ (.manc ad ma mb) (sh == 0 && fl0)
    | 2 => okZ (.macz ad) (bits w 0 17 == 0)
    | 3 => okZ (.maczF32 ad) (bits w 0 17 == 0)
    | 4 => okZ (.mdrn .f64 ad ma sh) (mb == 0 && fl0)
    | 5 => okZ (.mdrn .f32 ad ma sh) (mb == 0 && fl0)
    | 6 => okZ (.mdrn .bf16 ad ma sh) (mb == 0 && fl0)
    | 7 => okZ (.mdrn .f16 ad ma sh) (mb == 0 && fl0)
    | 8 => okZ (.mtlIn ma mb) (ad == 0 && bits w 0 9 == 0)
    | 9 => okZ (.mtlOut ma mb) (ad == 0 && bits w 0 9 == 0)
    | 10 => okZ (.mtlSb ma mb) (ad == 0 && bits w 0 9 == 0)
    | 11 => okZ (.mflg ad ma) (bits w 0 13 == 0)
    | 12 => okZ .mtake (bits w 0 21 == 0)
    | 13 => if bits w 0 1 = 1 then okZ .mpassFree (bits w 0 21 == 1)
      else okZ (.mpass ma) (ad == 0 && bits w 0 13 == 0)
    | _ => rsvFn
  | 42 => okZ (.rqt (.ofCode (bits w 21 2)) dx n p) (bits w 23 3 == 0 && bits w 7 7 == 126)
  | _ => if bits w 21 2 = 3 then rsvFn
    else okZ (if flag w 25 then .smvw (.ofCode (bits w 21 2)) dx n else .smv (.ofCode (bits w 21 2)) dx n)
      (bits w 23 2 == 0 && bits w 0 2 == 0 && bits w 7 7 == 126)

/-- Majors 44 to 50: long accumulators, pivots, fixed point, launch, trace, system (R278). -/
def decodeSys (M w : Nat) (l : W32) : Except DecErr Raw :=
  let d := opndOf (bits w 14 7) l
  let a := opndOf (bits w 7 7) l
  let b := opndOf (bits w 0 7) l
  let b0 := bits w 0 7 == 0
  let ab0 := bits w 0 14 == 0
  let n := bits w 2 5
  let p := CPol.ofCode (bits w 0 2)
  let x := opndOf (bits w 13 7) l
  let y := opndOf (bits w 6 7) l
  let k := bits w 0 6
  let b126 := bits w 6 7 == 126
  match M with
  | 44 => match bits w 21 5 with
    | 0 => okZ (.lclr d) ab0
    | 1 => okZ (.laddF64 d a) b0
    | 2 => okZ (.laddF32 d a) b0
    | 3 => okZ (.laddBf16 d a) b0
    | 4 => ok (.lmacF64 d a b)
    | 5 => ok (.lmacF32 d a b)
    | 6 => okZ (.lmrg d a) b0
    | 7 => okZ (.lnrm d) ab0
    | 16 => ok (.lrdl d a b)
    | 17 => ok (.lwrl d a b)
    | 18 => okZ (.lst d a) b0
    | _ => if bits w 24 2 = 1 then okZ (.lrnd (flag w 23) (.ofCode (bits w 21 2)) d a) b0 else rsvFn
  | 45 => match bits w 21 5 with
    | 0 => ok (.lsv d a n p)
    | 1 => ok (.lld d a n p)
    | _ => rsvFn
  | 46 => match bits w 21 5 with
    | 0 => ok (.pvsel false d a b)
    | 1 => ok (.pvsel true d a b)
    | 2 => ok (.pvreg false d a b)
    | 3 => ok (.pvreg true d a b)
    | _ => rsvFn
  | 47 => if bits w 25 1 = 0 then ok (.fxmac (bits w 21 4) d a b)
    else if bits w 21 5 = 16 then ok (.rngck (bits w 14 7) a b) else rsvFn
  | 48 => match bits w 20 6 with
    | 0 => okZ (.glaunch x k) b126
    | 1 => okZ (.glaunchNb x k) b126
    | 2 => okZ (.tlaunch x k) b126
    | 3 => okZ (.rerun x k) b126
    | 4 => okZ .tyld (bits w 0 20 == 0)
    | 5 => ok (.dtst y x k)
    | 6 => if bits w 13 7 = 126 ∧ k = 32 then okZ .trecWide b126 else okZ (.trec x k) b126
    | _ => rsvFn
  | 49 => match bits w 20 6 with
    | 0 => okZ (.vgrow x) (bits w 0 13 == 0)
    | 1 => okZ (.vshr x) (bits w 0 13 == 0)
    | _ => rsvFn
  | _ => match bits w 20 6 with
    | 0 => okZ (.srd y (bits w 13 7)) (k == 0)
    | 1 => okZ (.swr (bits w 6 7) x) (k == 0)
    | 2 => okZ (.logm x k) b126
    | 3 => match bits w 6 7 with
      | 0 => ok (.psavePane x k)
      | 1 => ok (.psaveMx x k)
      | 2 => ok (.psaveLx x k)
      | _ => okR (.psavePane x k) true false
    | 4 => match bits w 6 7 with
      | 0 => ok (.prestPane x k)
      | 1 => ok (.prestMx x k)
      | 2 => ok (.prestLx x k)
      | _ => okR (.prestPane x k) true false
    | _ => rsvFn

/-- The instruction of a word by its major opcode, before its remaining checks (R278). -/
def decodeRaw (w : Nat) (l : W32) (next : List W32) : Except DecErr Raw :=
  let M := bits w 26 6
  if M = 1 then decodeInt1 w l
  else if M = 2 then decodeInt2 w l
  else if M = 3 then decodeInt3 w l
  else if 4 ≤ M ∧ M ≤ 11 then decodeAlu M w l
  else if 12 ≤ M ∧ M ≤ 16 then decodeSpec M w l
  else if 17 ≤ M ∧ M ≤ 24 then decodeCtl M w l next
  else if 25 ≤ M ∧ M ≤ 37 then decodeMem M w l
  else if 38 ≤ M ∧ M ≤ 43 then decodeMx M w l
  else if 44 ≤ M ∧ M ≤ 50 then decodeSys M w l
  else .error .reservedMajor

/-- The major opcode of a word (R267). -/
def majorOf (w : W32) : Nat := bits w.toNat 26 6

/-- The format number of a major (R235: 0 A, 1 P, 2 M, 3 C, 4 X, 5 S; 7 for a reserved major, R282). -/
def formatOf (M : Nat) : Nat :=
  if M = 6 then 1
  else if (1 ≤ M ∧ M ≤ 0x0B) ∨ M = 0x0E ∨ M = 0x0F ∨ M = 0x2C ∨ M = 0x2E ∨ M = 0x2F then 0
  else if (0x19 ≤ M ∧ M ≤ 0x1E) ∨ M = 0x21 ∨ M = 0x22 ∨ M = 0x26 ∨ M = 0x27 ∨ M = 0x2A ∨ M = 0x2B ∨ M = 0x2D then 2
  else if 0x11 ≤ M ∧ M ≤ 0x17 then 3
  else if M = 0x28 ∨ M = 0x29 then 4
  else if M = 0x0C ∨ M = 0x0D ∨ M = 0x10 ∨ M = 0x18 ∨ M = 0x1F ∨ M = 0x20 ∨ (0x23 ≤ M ∧ M ≤ 0x25) ∨
    (0x30 ≤ M ∧ M ≤ 0x32) then 5
  else 7

/-- The words an instruction takes after its first: its literal (R38) or its pair words (R50). -/
def Instr.extraWords (i : Instr) : Nat :=
  match i with
  | .bmw n _ => n
  | _ => if i.namesLit then 1 else 0

/-- An operand field of a word's format holds `lit` (R38, R267): what a reserved function value leaves of an instruction (DEDUCED,
log entry 15). -/
def litByFormat (w : Nat) : Bool :=
  match formatOf (bits w 26 6) with
  | 0 => bits w 14 7 == 127 || bits w 7 7 == 127 || bits w 0 7 == 127
  | 2 => bits w 14 7 == 127 || bits w 7 7 == 127
  | 5 => bits w 13 7 == 127 || bits w 6 7 == 127
  | _ => false

/-- A word names `lit`, so that a literal word follows it (R38, R235, R283). -/
def wordNamesLit (w : Nat) : Bool :=
  match decodeRaw w 0 [] with
  | .ok r => r.i.namesLit
  | .error .reservedFunction => litByFormat w
  | .error _ => false

/-- The words that follow a word as its own (R38, R50). -/
def wordExtra (w : Nat) (next : List W32) : Nat :=
  match decodeRaw w (next.headD 0) next with
  | .ok r => r.i.extraWords
  | .error _ => if wordNamesLit w then 1 else 0

/-- The decoder: the instruction that a word and the clause words after it give, or the first reason it is none
(R281; a literal or pair word past the end comes before every other reason) (DEDUCED, log entries 15, 51). -/
def decode (w : W32) (next : List W32) : Except DecErr Instr :=
  match decodeRaw w.toNat (next.headD 0) next with
  | .error e => if next.length < wordExtra w.toNat next then .error .pastEnd else .error e
  | .ok r =>
    if next.length < r.i.extraWords then .error .pastEnd
    else if !r.mbz then .error .mustBeZero
    else if !r.rng then .error .outOfRange
    else .ok r.i

/-- The words of a byte string, little-endian (R2). -/
def wordsOf : List Byte → List W32
  | a :: b :: c :: d :: r => BitVec.ofNat 32 (ofBytes [a, b, c, d]) :: wordsOf r
  | _ => []

/-- The decoder on bytes: the instruction that a byte string starts with. -/
def decodeBytes (bs : List Byte) : Except DecErr Instr :=
  match wordsOf bs with
  | [] => .error .pastEnd
  | w :: next => decode w next

/-- The instruction read from bits numbered as the opcode table numbers them: the first word is the low 32 bits; the
words above `nbits`, up to the longest instruction (one word and four pair words), are 0. -/
def decodeTableWord (nbits w : Nat) : Option Instr :=
  match decodeBytes (toBytes 20 (w % 2 ^ nbits)) with
  | .ok i => some i
  | .error _ => none

/-- A format A or M word from its major, fn5 and three 7-bit fields. -/
def encA (M fn d a b : Nat) : Nat := M * 2 ^ 26 + fn * 2 ^ 21 + d * 2 ^ 14 + a * 2 ^ 7 + b
/-- A format M word. -/
def encM (M fn d x n p : Nat) : Nat := encA M fn d x (n * 4 + p)
/-- A format S word. -/
def encS (M fn a b k : Nat) : Nat := M * 2 ^ 26 + fn * 2 ^ 20 + a * 2 ^ 13 + b * 2 ^ 6 + k
/-- A format C word. -/
def encC (M c o : Nat) : Nat := M * 2 ^ 26 + c * 2 ^ 20 + o
/-- A format X word. -/
def encX (M fn ad ma mb sh fl : Nat) : Nat :=
  M * 2 ^ 26 + fn * 2 ^ 21 + ad * 2 ^ 17 + ma * 2 ^ 13 + mb * 2 ^ 9 + sh * 2 ^ 6 + fl

/-- The first word of an instruction; 0 for an event, which has none. -/
def Instr.word0 : Instr → Nat
  | .iadd t d a b => encA 1 (4 * 0 + t.toCode) d.code a.code b.code
  | .isub t d a b => encA 1 (4 * 1 + t.toCode) d.code a.code b.code
  | .imul t d a b => encA 1 (4 * 2 + t.toCode) d.code a.code b.code
  | .imulh t d a b => encA 1 (4 * 3 + t.toCode) d.code a.code b.code
  | .imin t d a b => encA 1 (4 * 4 + t.toCode) d.code a.code b.code
  | .imax t d a b => encA 1 (4 * 5 + t.toCode) d.code a.code b.code
  | .iminu t d a b => encA 1 (4 * 6 + t.toCode) d.code a.code b.code
  | .imaxu t d a b => encA 1 (4 * 7 + t.toCode) d.code a.code b.code
  | .iand t d a b => encA 2 (4 * 0 + t.toCode) d.code a.code b.code
  | .ior t d a b => encA 2 (4 * 1 + t.toCode) d.code a.code b.code
  | .ixor t d a b => encA 2 (4 * 2 + t.toCode) d.code a.code b.code
  | .iandn t d a b => encA 2 (4 * 3 + t.toCode) d.code a.code b.code
  | .ishl t d a b => encA 2 (4 * 4 + t.toCode) d.code a.code b.code
  | .ishr t d a b => encA 2 (4 * 5 + t.toCode) d.code a.code b.code
  | .isar t d a b => encA 2 (4 * 6 + t.toCode) d.code a.code b.code
  | .irot t d a b => encA 2 (4 * 7 + t.toCode) d.code a.code b.code
  | .iabs t d a => encA 3 (4 * 0 + t.toCode) d.code a.code 0
  | .iclz t d a => encA 3 (4 * 1 + t.toCode) d.code a.code 0
  | .ipopc t d a => encA 3 (4 * 2 + t.toCode) d.code a.code 0
  | .ibrev t d a => encA 3 (4 * 3 + t.toCode) d.code a.code 0
  | .iadds t d a b => encA 3 (4 * 4 + t.toCode) d.code a.code b.code
  | .isubs t d a b => encA 3 (4 * 5 + t.toCode) d.code a.code b.code
  | .imad t d a b => encA 3 (4 * 6 + t.toCode) d.code a.code b.code
  | .imulhu t d a b => encA 3 (4 * 7 + t.toCode) d.code a.code b.code
  | .fadd t d a b => encA 8 (4 * 0 + t.toCode) d.code a.code b.code
  | .fsub t d a b => encA 8 (4 * 1 + t.toCode) d.code a.code b.code
  | .fmul t d a b => encA 8 (4 * 2 + t.toCode) d.code a.code b.code
  | .ffma t d a b => encA 8 (4 * 3 + t.toCode) d.code a.code b.code
  | .ffms t d a b => encA 8 (4 * 4 + t.toCode) d.code a.code b.code
  | .fnma t d a b => encA 8 (4 * 5 + t.toCode) d.code a.code b.code
  | .fmin t d a b => encA 8 (4 * 6 + t.toCode) d.code a.code b.code
  | .fmax t d a b => encA 8 (4 * 7 + t.toCode) d.code a.code b.code
  | .fabs t d a => encA 9 (4 * 0 + t.toCode) d.code a.code 0
  | .fneg t d a => encA 9 (4 * 1 + t.toCode) d.code a.code 0
  | .fscl t d a b => encA 9 (4 * 2 + t.toCode) d.code a.code b.code
  | .frnd t d a => encA 9 (4 * 3 + t.toCode) d.code a.code 0
  | .fclass t d a => encA 9 (4 * 4 + t.toCode) d.code a.code 0
  | .fcpys t d a b => encA 9 (4 * 5 + t.toCode) d.code a.code b.code
  | .icmp c t p a b => encA 4 (4 * c.toCode + t.toCode) p a.code b.code
  | .ibfx d a b => encA 5 0 d.code a.code b.code
  | .ibfxS d a b => encA 5 1 d.code a.code b.code
  | .ibfi d a b => encA 5 2 d.code a.code b.code
  | .sel p d a b => 6 * 2 ^ 26 + p * 2 ^ 20 + d.code * 2 ^ 13 + a.code * 2 ^ 6 + b.val
  | .mov d a => encA 7 0 d.code a.code 0
  | .fcmp c t p a b => encA 10 (4 * c.toCode + t.toCode) p a.code b.code
  | .fcvt c d a => encA 11 c.toCode d.code a.code 0
  | .sfq t f d a k => encS 12 (16 * t.toCode + f.toCode) a.code d.code k
  | .sfw a => encS 13 0 a.code 0 0
  | .mbc d a b => encA 14 0 d.code a.code b.code
  | .mshf d a b => encA 14 4 d.code a.code b.code
  | .mredAdd t d a => encA 14 (8 + t.toCode) d.code a.code 0
  | .mredMin t d a => encA 14 (12 + t.toCode) d.code a.code 0
  | .mredMax t d a => encA 14 (16 + t.toCode) d.code a.code 0
  | .msort t d a => encA 14 (20 + t.toCode) d.code a.code 0
  | .mrank t d a b => encA 14 (24 + t.toCode) d.code a.code b.code
  | .mspr t d a => encA 14 (28 + t.toCode) d.code a.code 0
  | .lshf d a b => encA 15 0 d.code a.code b.code
  | .lbc d a b => encA 15 4 d.code a.code b.code
  | .lredAdd t d a => encA 15 (8 + t.toCode) d.code a.code 0
  | .lredMin t d a => encA 15 (12 + t.toCode) d.code a.code 0
  | .lredMax t d a => encA 15 (16 + t.toCode) d.code a.code 0
  | .lscan t d a => encA 15 (20 + t.toCode) d.code a.code 0
  | .pand k a b => encS 16 0 a b k
  | .por k a b => encS 16 1 a b k
  | .pxor k a b => encS 16 2 a b k
  | .pandn k a b => encS 16 3 a b k
  | .pset k => encS 16 4 0 0 k
  | .pclr k => encS 16 5 0 0 k
  | .xmld k => encS 16 6 0 0 k
  | .xmst k => encS 16 7 0 0 k
  | .xmand k => encS 16 8 0 0 k
  | .pcnt d k => encS 16 9 0 d.code k
  | .pbits d k a => encS 16 10 a.code d.code k
  | .bany p o => encC 17 p o
  | .ball p o => encC 18 p o
  | .jmp o => encC 19 0 o
  | .call o => encC 19 1 o
  | .bdiv p o => encC 20 p o
  | .bmw n _ => encC 21 n 0
  | .rcv o => encC 22 0 o
  | .bsaFull k o => encC 23 k o
  | .bsaRoom k o => encC 23 (16 + k) o
  | .join => encS 24 0 0 0 0
  | .ret => encS 24 1 0 0 0
  | .jmpi a => encS 24 2 a.code 0 0
  | .calli a => encS 24 3 a.code 0 0
  | .exit => encS 24 4 0 0 0
  | .nop => encS 24 5 0 0 0
  | .trap k => encS 24 6 0 0 k
  | .sys k => encS 24 7 0 0 k
  | .eret => encS 24 8 0 0 0
  | .brk => encS 24 9 0 0 0
  | .ld c sx mw d x n p => encM 25 (8 * c.toCode + 4 * bit1 sx + mw.toCode) d.code x.code n p.toCode
  | .st c mw d x n p => encM 26 (8 * c.toCode + mw.toCode) d.code x.code n p.toCode
  | .lds t sx mw d x => encA 27 (8 * bit1 t + 4 * bit1 sx + mw.toCode) d.code x.code 0
  | .sts t mw d x => encA 27 (16 + 8 * bit1 t + mw.toCode) d.code x.code 0
  | .ldl t sx mw d x => encA 28 (8 * bit1 t + 4 * bit1 sx + mw.toCode) d.code x.code 0
  | .stl t mw d x => encA 28 (16 + 8 * bit1 t + mw.toCode) d.code x.code 0
  | .atom o t d x n p => encM 29 (4 * o.toCode + t.toCode) d.code x.code n p.toCode
  | .atom2 o d x n p => encM 30 o.toCode d.code x.code n p.toCode
  | .bset n x m => encS 31 0 x.code m n
  | .bsetS n k => encS 31 1 k 0 n
  | .bget d n i => encS 31 2 i d.code n
  | .acq => encS 32 0 0 0 0
  | .rel => encS 32 1 0 0 0
  | .fence => encS 32 2 0 0 0
  | .bar => encS 32 3 0 0 0
  | .sbar => encS 32 4 0 0 0
  | .wadr d x n => encM 33 0 d.code x.code n 0
  | .ctwt t x n => encM 33 1 t.code x.code n 0
  | .ctinc a x n => encM 33 2 a.code x.code n 0
  | .cpy s d x n p => encM 34 s d.code x.code n p.toCode
  | .cpyIn s d x n p => encM 34 (8 + s) d.code x.code n p.toCode
  | .cpyOut s d x n p => encM 34 (24 + s) d.code x.code n p.toCode
  | .cseal => encS 35 0 0 0 0
  | .cwait k => encS 35 1 0 0 k
  | .qw q a => encS 36 0 a.code 0 q
  | .qr b q => encS 36 1 0 b.code q
  | .sard b a k => encS 37 0 a.code b.code k
  | .sawt a k => encS 37 1 a.code 126 k
  | .mld ms t d x n p => encM 38 (8 * bit1 ms + t.toCode) d x.code n p.toCode
  | .mldSb ms d x n p => encM 38 (16 + 8 * bit1 ms + 7) d x.code n p.toCode
  | .mst ms t d x n p => encM 39 (8 * bit1 ms + t.toCode) d x.code n p.toCode
  | .mstSb ms d x n p => encM 39 (16 + 8 * bit1 ms + 7) d x.code n p.toCode
  | .mmd ad ma mb f => encX 40 0 ad ma mb 0 f.toCode
  | .mms ad ma mb sh f => encX 40 1 ad ma mb sh f.toCode
  | .mmh t ad ma mb sh f => encX 40 (2 + t.toCode) ad ma mb sh f.toCode
  | .mmf t ad ma mb sh f => encX 40 (4 + t.toCode) ad ma mb sh f.toCode
  | .mmi t ad ma mb f => encX 40 (8 + t.toCode) ad ma mb 0 f.toCode
  | .mmq ma mb ta tb ms => encX 40 12 0 ma mb 0 (MFlags.toCode ⟨ta, tb, ms, false⟩)
  | .mscl ad ma mb cf => encX 41 0 ad ma mb 0 (8 * bit1 cf)
  | .manc ad ma mb => encX 41 1 ad ma mb 0 0
  | .macz ad => encX 41 2 ad 0 0 0 0
  | .maczF32 ad => encX 41 3 ad 0 0 0 0
  | .mdrn t ad v4 md => encX 41 (4 + t.toCode) ad v4 0 md 0
  | .mtlIn t v => encX 41 8 0 t v 0 0
  | .mtlOut t v => encX 41 9 0 t v 0 0
  | .mtlSb t v => encX 41 10 0 t v 0 0
  | .mflg ad t => encX 41 11 ad t 0 0 0
  | .mtake => encX 41 12 0 0 0 0 0
  | .mpass px => encX 41 13 0 px 0 0 0
  | .mpassFree => encX 41 13 0 0 0 0 1
  | .rqt t x n p => encM 42 t.toCode x.code 126 n p.toCode
  | .smv t x n => encM 43 t.toCode x.code 126 n 0
  | .smvw t x n => encM 43 (16 + t.toCode) x.code 126 n 0
  | .lclr z => encA 44 0 z.code 0 0
  | .laddF64 z s => encA 44 1 z.code s.code 0
  | .laddF32 z s => encA 44 2 z.code s.code 0
  | .laddBf16 z s => encA 44 3 z.code s.code 0
  | .lmacF64 z s u => encA 44 4 z.code s.code u.code
  | .lmacF32 z s u => encA 44 5 z.code s.code u.code
  | .lmrg z y => encA 44 6 z.code y.code 0
  | .lnrm z => encA 44 7 z.code 0 0
  | .lrnd f m d z => encA 44 (8 + 4 * bit1 f + m.toCode) d.code z.code 0
  | .lrdl d z j => encA 44 16 d.code z.code j.code
  | .lwrl z s j => encA 44 17 z.code s.code j.code
  | .lst d z => encA 44 18 d.code z.code 0
  | .lsv z x n p => encM 45 0 z.code x.code n p.toCode
  | .lld z x n p => encM 45 1 z.code x.code n p.toCode
  | .pvsel f d a b => encA 46 (bit1 f) d.code a.code b.code
  | .pvreg f d a b => encA 46 (2 + bit1 f) d.code a.code b.code
  | .fxmac sh d a b => encA 47 sh d.code a.code b.code
  | .rngck p a b => encA 47 16 p a.code b.code
  | .glaunch x n => encS 48 0 x.code 126 n
  | .glaunchNb x n => encS 48 1 x.code 126 n
  | .tlaunch x n => encS 48 2 x.code 126 n
  | .rerun x n => encS 48 3 x.code 126 n
  | .tyld => encS 48 4 0 0 0
  | .dtst d x n => encS 48 5 x.code d.code n
  | .trec x n => encS 48 6 x.code 126 n
  | .trecWide => encS 48 6 126 126 32
  | .vgrow n => encS 49 0 n.code 0 0
  | .vshr n => encS 49 1 n.code 0 0
  | .srd d i => encS 50 0 i d.code 0
  | .swr i a => encS 50 1 a.code i 0
  | .logm a k => encS 50 2 a.code 126 k
  | .psavePane x n => encS 50 3 x.code 0 n
  | .psaveMx x n => encS 50 3 x.code 1 n
  | .psaveLx x n => encS 50 3 x.code 2 n
  | .prestPane x n => encS 50 4 x.code 0 n
  | .prestMx x n => encS 50 4 x.code 1 n
  | .prestLx x n => encS 50 4 x.code 2 n
  | _ => 0

/-- The literal words an instruction's operands carry: at most one in a well-formed instruction (R38). -/
def Instr.litWord (i : Instr) : List W32 :=
  (((i.named.dst ++ i.named.src).filterMap fun o => match o.1 with
    | .lit x => some x
    | _ => none).take 1)

/-- The word of a pair (R50). -/
def BmwPair.word (q : BmwPair) : W32 := BitVec.ofNat 32 (q.pred * 2 ^ 26 + q.off)

/-- The encoder: the words of an instruction, its literal or pair words after its first. -/
def encode (i : Instr) : List W32 :=
  BitVec.ofNat 32 i.word0 :: (match i with
    | .bmw _ ps => ps.map BmwPair.word
    | _ => i.litWord)

/-- The engine class of a major (R260 Table 2); reserved majors have none. -/
def clsOfMajor (M : Nat) : Option Nat :=
  if (1 ≤ M ∧ M ≤ 0x0B) ∨ M = 0x0E ∨ M = 0x0F ∨ M = 0x10 ∨ M = 0x2C ∨ M = 0x2E ∨ M = 0x2F then some 0
  else if (0x19 ≤ M ∧ M ≤ 0x1F) ∨ M = 0x21 ∨ M = 0x2D then some 1
  else if 0x26 ≤ M ∧ M ≤ 0x2B then some 2
  else if M = 0x0C ∨ M = 0x0D then some 3
  else if 0x11 ≤ M ∧ M ≤ 0x18 then some 4
  else if 0x22 ≤ M ∧ M ≤ 0x25 then some 5
  else if M = 0x20 ∨ (0x30 ≤ M ∧ M ≤ 0x32) then some 6
  else none

/-- The function field that efd[45:40] presents (R282). -/
def functionOf (w : W32) : Nat :=
  let n := w.toNat
  match formatOf (majorOf w) with
  | 0 | 4 => bits n 21 5
  | 2 => if majorOf w = 0x22 then bits n 21 3 else if majorOf w = 0x2B then bits n 21 2 else bits n 21 5
  | 1 | 3 => bits n 20 6
  | 5 => if majorOf w = 0x0C then bits n 20 4 else bits n 20 6
  | _ => 0

end Sys2Proof
end

