-- ==== Sys2Proof/Config.lean ====
section
/-! DEFINITION. What one GX8 fixes and the free values. A free value is an `opaque` constant: nothing can be proved
of it but that it is one value. Log entries 7, 8, 9, 10, 11, 12. -/

namespace Sys2Proof.Config

/-- The model code of the GX8 (R12). -/
def model : Nat := 0x0C08
/-- Nominal arithmetic clock in kHz (R12). -/
def nominalClock : Nat := 1050000
/-- First address of the sill vault window (R133). -/
def vaultBase : Nat := 0x8000000000
/-- The device-information page (R138). -/
def infoPage : Nat := 0x8020000000
/-- First address of the launch ports and control windows (R138). -/
def controlBase : Nat := 0x8040000000
/-- First address of second-tier memory (R138). -/
def cxlBase : Nat := 0x100000000000
/-- First address of the host window (R138). -/
def hostBase : Nat := 0x400000000000
/-- First address of the peer windows (R138). -/
def peerBase : Nat := 0x8000000000000

/-- The silicon stepping (R12: part). DESIGN CHOICE, log entry 7. -/
def stepping : Nat := 0
/-- The enable mask as shipped (R11: at least 120 cores). DESIGN CHOICE all 128, log entry 7. -/
def coresShipped : Nat := 2 ^ 128 - 1
/-- The node identifier the fabric assigns (R12, R205). DESIGN CHOICE 0, log entry 7. -/
def node : Nat := 0

/-- The special functions' values within their bounds (R75): a fixed function of function code, type, input code and
the captured RM and SUB. Free value, log entry 10. -/
opaque specialFn : Nat → Nat → Nat → Nat → Nat → Nat

/-- The 48 bits of a draw of the security block's random generator (R195), by draw number. Free value, log entry 9. -/
opaque dgenDraw : Nat → BitVec 48

/-- The bytes 16 onward, and the digest, of the image a psave number writes (R238: not architectural). Free value,
log entry 11. -/
opaque imageByte : Nat → Nat → Byte
/-- The cause in the TYPE 0x05 record of a termination by a `prest` whose image does not match (R238 names none). Free value,
log entry 11. -/
opaque imageCause : BitVec 8
/-- The bytes that a swap-out numbered n writes to its save area (R187: layout not given). Free value, log entry 11. -/
opaque swapByte : Nat → Nat → Byte

/-- The stored identity certificates, byte by byte, and their length (R250). Free value, log entry 12. -/
opaque certificateByte : Nat → Byte
opaque certificateLength : Nat
/-- The signature bytes of an attestation report over bytes 0 to 103 (R254). Free value, log entry 12. -/
opaque attestSignature : List Byte → Nat → Byte
/-- The signature in the log's entry of a launch that sets neither DET nor TRACE, so has no kernel descriptor, by launch
(R93, R95, R243). Free value, log entry 12. -/
opaque plainSignature : Nat → BitVec 64
/-- The firmware image that the staging flash holds at manufacture; it is accepted (R251, R252). Free value, log entry 12. -/
opaque factoryImage : List Byte
/-- The low 63 bits of the failure status of a stack-side job whose W, X or Y meets a translation failure that R121's
statuses do not name. Free value, log entry 31. -/
opaque otherJobFailure : BitVec 63
/-- Whether both signatures of a firmware header verify (R251). Free value, log entry 12. -/
opaque signaturesVerify : List Byte → Bool

end Sys2Proof.Config
end

