-- ==== Sys2Proof/Machine/Store.lean ====
section
/-! DEFINITION. Finite maps as lists of (key, value) pairs in one canonical form: keys strictly rising.
Every table of the machine's state that is keyed by a number is one of these; memory is one of bytes. -/

namespace Sys2Proof.Machine

/-- A finite map: pairs with strictly rising keys. -/
abbrev Map (α : Type) := List (Nat × α)

/-- The value at a key, if listed. -/
def Map.find {α : Type} : Map α → Nat → Option α
  | [], _ => none
  | (k', v) :: r, k => if k' = k then some v else Map.find r k

/-- The map with one key listed with a value, in place of any value it had. -/
def Map.put {α : Type} : Map α → Nat → α → Map α
  | [], k, v => [(k, v)]
  | (k', v') :: r, k, v =>
    if k < k' then (k, v) :: (k', v') :: r
    else if k = k' then (k, v) :: r
    else (k', v') :: Map.put r k v

/-- The map without one key. -/
def Map.del {α : Type} : Map α → Nat → Map α
  | [], _ => []
  | (k', v') :: r, k => if k' = k then Map.del r k else (k', v') :: Map.del r k

/-- The value at a key, or a default where none is listed. -/
def Map.getD {α : Type} (m : Map α) (k : Nat) (d : α) : α := (m.find k).getD d

/-- The listed values, in key order. -/
abbrev Map.vals {α : Type} (m : Map α) : List α := m.map Prod.snd

/-- The keys rise strictly. -/
def Map.sorted {α : Type} : Map α → Bool
  | [] => true
  | [_] => true
  | (a, _) :: (b, y) :: r => decide (a < b) && Map.sorted ((b, y) :: r)

/-- A map that lists no entry equal to what an unlisted key reads as (`0`). -/
abbrev Sparse (n : Nat) := Map (BitVec n)

/-- What a key of a sparse map reads. -/
def Sparse.read {n : Nat} (m : Sparse n) (k : Nat) : BitVec n := Map.getD m k 0

/-- A write that keeps the canonical form: writing 0 removes the entry. -/
def Sparse.write {n : Nat} (m : Sparse n) (k : Nat) (v : BitVec n) : Sparse n :=
  if v = 0 then Map.del m k else Map.put m k v

/-- The canonical form: rising keys, and no entry that reads as an unlisted key. -/
def Sparse.wf {n : Nat} (m : Sparse n) : Bool := Map.sorted m && m.all fun c => c.2 != 0

/-- Memory at the coherence point: bytes by physical address (R138, R147) (DESIGN CHOICE, log entry 5). -/
abbrev Memory := List Host.Cell

/-- What a byte of memory that nothing has written reads as: 0 (log entry 5). -/
def Memory.readByte (m : Memory) (a : Nat) : Byte := Sparse.read (n := 8) m a

/-- One byte written, keeping the canonical form. -/
def Memory.writeByte (m : Memory) (a : Nat) (b : Byte) : Memory := Sparse.write (n := 8) m a b

/-- The canonical form of memory. -/
abbrev Memory.wf (m : Memory) : Bool := Sparse.wf (n := 8) m

/-- The n bytes from an address. -/
def Memory.readBytes (m : Memory) (a : Nat) : Nat → List Byte
  | 0 => []
  | n + 1 => m.readByte a :: Memory.readBytes m (a + 1) n

/-- Bytes written from an address up. -/
def Memory.writeBytes (m : Memory) : Nat → List Byte → Memory
  | _, [] => m
  | a, b :: bs => Memory.writeBytes (m.writeByte a b) (a + 1) bs

/-- The little-endian number of n bytes at an address (R2). -/
def Memory.readNat (m : Memory) (a n : Nat) : Nat := ofBytes (m.readBytes a n)

/-- A number written as n little-endian bytes (R2). -/
def Memory.writeNat (m : Memory) (a n v : Nat) : Memory := m.writeBytes a (toBytes n v)

/-- A sparse map of bytes read as a little-endian number. -/
def readSpan (m : Sparse 8) (a n : Nat) : Nat := Memory.readNat m a n

/-- A number written into a sparse map of bytes. -/
def writeSpan (m : Sparse 8) (a n v : Nat) : Sparse 8 := Memory.writeNat m a n v

end Sys2Proof.Machine
end

