-- ==== Sys2Proof/Machine/State.lean ====
section
/-! DEFINITION. The state of the machine as plain data: every piece of state the spec gives it (INVENTORY.md lists each
with its rule), the work in flight, and the state after reset. -/

namespace Sys2Proof.Machine

/-! ## Units -/

/-- An entry of a reconvergence stack (R48, R56); `id` names the entry that its group shares. -/
structure REntry where
  id : Nat
  join : Nat
  depth : Nat
deriving DecidableEq, Repr

/-- The handler level of a unit (R231, R232, R309). -/
inductive Level where
  | none | user | sup | nested | watchdog | save | resume
deriving DecidableEq, Repr

/-- Kinds of outstanding work (R261 Table 3); `token` is `sfq`, `other` enters no count. -/
inductive Kind where
  | load | store | matrix | token | other
deriving DecidableEq, Repr

/-- A variable-latency result not yet covered (R264): register code, positions, kind, issue ordinal of its kind,
clause address of the producer. Codes 128 + n are buffer registers. -/
structure Uncov where
  code : Nat
  mask : Mask
  kind : Kind
  ord : Nat
  clause : Nat
deriving DecidableEq, Repr

/-- A cause waiting for a unit's next instruction (R78, R164, R230). -/
structure Deferred where
  cause : Nat
  ecw : Nat
  efd : Nat
  eaddr : Nat
  emask : Mask
  erem : Nat
  /-- ac in which it arose. -/
  at_ : Nat
deriving DecidableEq, Repr

/-- A failed remote store that the next `rel`, `fence` or `exit` raises (R209). -/
structure StoreFail where
  mask : Mask
  erem : Nat
  eaddr : Nat
  ord : Nat
deriving DecidableEq, Repr

/-- What a structural wait waits for: the instruction issues afresh once it holds. -/
inductive Wait where
  /-- The wait fields of the clause header at entry (R261). -/
  | clause (wld wst wmx wcp : Nat)
  /-- The end of a clause with SW (R263). -/
  | drain
  /-- `rel`, `fence`, `exit`, barrier arrival: every earlier access performed (R148). -/
  | performed
  /-- An atomic: every earlier read and atomic bound (R147). -/
  | bound
  /-- `acq`, `fence`, `cwait`: every earlier read and atomic bound, nothing pending in the operand log (R148, R158). -/
  | acquire
  /-- A split or merge: every variable-latency register result written (R265). -/
  | results
  /-- The named special-function tokens free (R170). -/
  | tokens (m : Nat)
  /-- Room in the special-function unit (R171). -/
  | sfu
  /-- Room for one more sealed batch in each of these lanes (R163). -/
  | seal (lanes : List Nat)
  /-- At most k sealed batches in each lane of the mask (R163, R164). -/
  | copies (k : Nat)
  /-- Room in the engine queue (R117). -/
  | engine
  /-- The baton (R118). -/
  | baton
  /-- A pending-queue entry (R182, R183). -/
  | pendingQueue
  /-- The wait list of window k, with the charge that the instruction needs on each window (R213). -/
  | allowance (k : Nat) (needs : List (Nat × Nat))
  /-- The same list, for `sawt`: n units of window k (R214). -/
  | room (k n : Nat)
  /-- Room in the operand log (R226). -/
  | opLog
  /-- A fetch fault (R226), on a page for a reason. -/
  | fetch (page reason : Nat)
  /-- Room in a command queue of the core (R165). -/
  | command (q : Nat)
  /-- A count at its limit (R261). -/
  | count (k : Kind)
  /-- A long slot whose image is still to arrive (R82). -/
  | slot (z : Nat)
  /-- A vault offset being converted (R136). -/
  | vault (g : Nat)
  /-- An earlier write of the unit to the same words (R147). -/
  | ownStores
deriving DecidableEq, Repr

/-- Why a unit does not issue (R33). -/
inductive Park where
  | ready
  | wait (w : Wait)
  | join (entry : Nat)
  | bar
  | sbar
  | ctwt (id : Nat)
  | wadr (id : Nat)
  | vgrow (n : Nat)
  /-- Until work in flight `id` completes: a remote reply (R208), an invalidation (R225), a map clear (R195). -/
  | work (id : Nat)
  /-- Stopped by a watchdog (R61). -/
  | stopped
deriving DecidableEq, Repr

/-- A unit: a pane's stream or one of its fragments (R48). -/
structure UnitSt where
  pane : Nat
  seq : Nat
  domain : Mask
  xm : Mask
  /-- Address of the clause header. -/
  pc : Nat
  /-- Word of the clause that issues next; 0 before the first. -/
  idx : Nat
  /-- The fetched words after the header; the clause is entered when `entered`. -/
  words : List W32
  entered : Bool
  /-- The header word of the entered clause (R259). -/
  hdr : W32
  rstack : List REntry
  cstack : List Nat
  level : Level
  sup : Bool
  ecause : Word
  epc : Word
  ecw : Word
  efd : Word
  efa : Word
  efb : Word
  eaddr : Word
  erem : Word
  emask : Mask
  /-- Issue counters of the load, store and matrix kinds (R261). -/
  nLd : Nat
  nSt : Nat
  nMx : Nat
  uncov : List Uncov
  defer : List Deferred
  fails : List StoreFail
  park : Park
  parkedAt : Nat
  lastIssue : Nat
  /-- ac in which the unit was ready and not chosen, since its last issue (R34). -/
  passes : Nat
  /-- Holds one of the pane's seats (R58). -/
  seated : Bool
  /-- ac in which the unit entered the fragment queue. -/
  queuedAt : Nat
  /-- A `glaunch` that has made its release step (R322), or a `qw` or `cwait` past its own. -/
  released : Bool
  /-- A bind entry of the log held for this unit (R245). -/
  logHeld : Bool
  /-- Log entries that its instruction in progress has reserved (R245). -/
  resv : Nat
  /-- Ethernet ports that carried a host-window write of the unit since its last `fence` (R316). -/
  hostPorts : Nat
  /-- The program orders it continues (R143): a unit it was detached from, with the identity before which that unit's work comes
  before its own. -/
  past : List (Nat × Nat)
  /-- Has completed an acquire (R145). -/
  acquired : Bool
deriving DecidableEq, Repr

/-! ## Panes -/

/-- A busy special-function token (R170): destination code, positions, issuing unit, clause of the `sfq`. -/
structure Token where
  code : Nat
  mask : Mask
  uid : Nat
  clause : Nat
deriving DecidableEq, Repr

/-- One copy of a batch (R162): a side is a physical or remote address when global, a byte address when scratch. -/
structure CopyOp where
  mask : Mask
  size : Nat
  src : Nat
  dst : Nat
  srcScr : Bool
  dstScr : Bool
  srcRec : BitVec 256
  dstRec : BitVec 256
  pol : CPol
  /-- A page fault that was refused, or another cause: the copy moves nothing. -/
  dead : Bool
deriving DecidableEq, Repr

/-- A cause that a batch met (R164), raised at the covering wait; `batch` is the identity of the batch's work. -/
structure BatchFail where
  batch : Nat
  lane : Nat
  cause : Nat
  eaddr : Nat
  erem : Nat
  mask : Mask
deriving DecidableEq, Repr

/-- The hidden state of a pre-empted pane (step 2 of R237). -/
structure Hidden where
  units : List UnitSt
  preds : Sparse 256
  staging : Map (List Word)
  fmode : Word
  fstat : Word
  uhv : Word
  detst : Word
  detaddr : Word
  nextSeq : Nat
  openB : Map (List CopyOp)
deriving DecidableEq, Repr

/-- A pane (R19, R39, R41). -/
structure PaneSt where
  cas : Nat
  px : Nat
  slot : Nat
  /-- Register copies keyed code·256 + position, lane or 0 (R39). -/
  regs : Sparse 64
  preds : Sparse 256
  bufs : Sparse 256
  staging : Map (List Word)
  /-- Outstanding charge per allowance window (R212). -/
  charge : Map Nat
  fmode : Word
  fstat : Word
  uhv : Word
  detst : Word
  detaddr : Word
  vcnt : Nat
  nextSeq : Nat
  /-- Open copy batches per lane (R163). -/
  openB : Map (List CopyOp)
  batchFails : List BatchFail
  tokens : Map Token
  /-- Lane-store bytes keyed position·8192 + address (R131). -/
  lanes : Sparse 8
  exited : Bool
  lastExit : Nat
  /-- Swapped out in `ctwt` (R187), the ac in which it left, and where it was saved. -/
  out : Bool
  outAt : Nat
  outVa : Nat
  /-- ac in which a charge of it was last released (R213). -/
  relAt : Option Nat
  /-- Has executed the `eret` that ends its save routine (R237). -/
  saved : Bool
  hidden : Option Hidden
deriving DecidableEq, Repr

/-! ## Casements, sashes, launches -/

/-- A long accumulator (R80, R83): limbs keyed j, each an exact integer that may hold carries, and the status word. -/
structure LongSt where
  limbs : Map Int
  status : Nat
deriving DecidableEq, Repr

/-- A recorded ordered atomic (R98) with the key it is applied by. -/
structure OrdAtom where
  px : Nat
  ord : Nat
  pos : Nat
  pa : Nat
  size : Nat
  op : AtomOp
  half : Bool
  ty : AType
  f16 : Bool
  val : Nat
  mode : Nat
  trk : Bool
deriving DecidableEq, Repr

/-- An open run of the trace recorder (R194): first granule, length. -/
structure TRun where
  gran : Nat
  len : Nat
deriving DecidableEq, Repr

/-- The trace recorder of a casement (R194): open runs, least recently extended first; entries written; wide; `full` once an
entry found no room. -/
structure Recorder where
  runs : List TRun
  count : Nat
  wide : Bool
  full : Bool
deriving DecidableEq, Repr

/-- An entry of a pending queue (R183): the instruction that claimed it (0 to 3 by fn6), and its 16 words once they have arrived,
none before. -/
structure PendRec where
  id : Nat
  form : Nat
  words : List Nat
  /-- ac in which the words arrived. -/
  at_ : Nat
deriving DecidableEq, Repr

/-- Where a casement stands. -/
inductive CasPhase where
  /-- Resident; pre-emption requested and its units stopping; in the save routine; left residency; resuming; retired. -/
  | resident | stopping | saving | away | resuming | retired
deriving DecidableEq, Repr

/-- A casement (R19 to R22, R30). -/
structure CasementSt where
  lid : Nat
  linear : Nat
  gx : Nat
  gy : Nat
  gz : Nat
  gm : Nat
  cid : Nat
  sid : Nat
  core : Nat
  phase : CasPhase
  /-- Admission order over the whole device, and ac of admission. -/
  order : Nat
  admitAt : Nat
  /-- ac in which its footprint was freed. -/
  leftAt : Nat
  /-- Admissions so far (R180). -/
  admits : Nat
  /-- Resident time before this admission (R60). -/
  ran : Nat
  /-- ac in which the pre-emption under way was requested (R60, R237). -/
  preAt : Nat
  scratch : Sparse 8
  longs : Map LongSt
  run : Nat
  pendQ : List PendRec
  recd : Recorder
  ords : List OrdAtom
  /-- Barrier wait: count start and clause of the first arrival; the pane bits that arrived are computed (R59, R60). -/
  barStart : Option Nat
  barPc : Nat
  /-- `sbar` wait, held by the sash's cid 0. -/
  sbarStart : Option Nat
  sbarPc : Nat
  /-- A watchdog has fired on it (R61). -/
  fired : Bool
deriving DecidableEq, Repr

inductive LKind where
  | launch | relaunch | task
deriving DecidableEq, Repr

inductive LPhase where
  /-- In the queue or table, unchecked; accepted; waiting for its traced start; binding or running; stranded. -/
  | queued | accepted | running | stranded
deriving DecidableEq, Repr

/-- A launch or task (R175, R184), as its record gives it, and its progress. -/
structure LaunchSt where
  ctx : Nat
  kind : LKind
  words : List Nat
  /-- Launch-queue entry or task-table index (R178). -/
  entry : Nat
  phase : LPhase
  ready : Bool
  /-- Linear index of cid 0 of each sash still to bind, in binding order (R177, R96). -/
  todo : List Nat
  /-- Casements that an incremental relaunch skips (R199). -/
  skipped : List Nat
  /-- Casements retired, those that an incremental relaunch skips among them (R188, R199). -/
  retired : Nat
  size : Nat
  sig : Nat
  gen : Nat
  full : Bool
  reran : Nat
  /-- The kernel descriptor's SHAPES of a launch with DET or TRACE (R94). -/
  shapes : Nat
  wideCnt : Nat
  dropped : Bool
  started : Bool
  /-- A launch entry of the log is held (R245). -/
  logHeld : Bool
deriving DecidableEq, Repr

/-- A bind record (R178) with the launch, the casement to resume, and the cores of its casements in cid order. -/
structure BindRec where
  kind : Nat
  ctx : Nat
  pri : Nat
  entry : Nat
  linear : Nat
  map : Nat
  lid : Nat
  cas : List Nat
  cores : List Nat
deriving DecidableEq, Repr

/-! ## Cores -/

/-- One element of an a-register (R87, R105): window integer with its guard bits, anchor, count; or the FP32 code. -/
structure AccEl where
  sum : Int
  anchor : Int
  count : Nat
  c : Nat
deriving DecidableEq, Repr

/-- An a-register (R105): form, elements keyed 16i + j, row, column and overflow marks. -/
structure AccSt where
  fp32 : Bool
  elems : Map AccEl
  rowM : Nat
  colM : Nat
  ovf : Nat
deriving DecidableEq, Repr

/-- The matrix register set of a core (R39, R104, R105): tile bytes keyed 4352·t + byte, T then S. -/
structure MxSt where
  tiles : Sparse 8
  accs : Map AccSt
  pq : Map Int
deriving DecidableEq, Repr

/-- An engine operation in the queue (R117), performed when it completes. Its count stands in the piece of work with its
identity. -/
structure EngOp where
  id : Nat
  uid : Nat
  pane : Nat
  /-- The pane's fold. -/
  M : Nat
  i : Instr
  /-- fmode.RM as captured at issue (R113). -/
  rm : Nat
  /-- Register operands read at issue (`mtl`), bytes an `mld` has read, each with its place in the tile. -/
  data : List (Nat × Byte)
  /-- Places of the tile whose bytes in `data` are poisoned. -/
  bad : List Nat
  due : Nat
  /-- ac in which its pipe takes it. -/
  start : Nat
deriving DecidableEq, Repr

/-- A core (R13). -/
structure CoreSt where
  mx : MxSt
  baton : Option Nat
  /-- Context of the last holder (R40). -/
  batonCtx : Option Nat
  /-- The registers hold another context's values: the next operation clears them first (R40). -/
  stale : Bool
  /-- Release waiting for the holder's operations; ac of the last release (R118). -/
  releasing : Bool
  freedAt : Nat
  engQ : List EngOp
  table : List BindRec
  headPass : Nat
  /-- ac in which the table last admitted a record of its own (R179). -/
  admAt : Option Nat
  agelim : Nat
  evs : Nat
  lamport : Nat
  /-- L1 words valid but not owned, by word address (R146). -/
  l1 : Sparse 64
  l1valid : List Nat
  /-- The 64-byte lines that L1 holds, least recently used first (R13, R129). -/
  lru : List Nat
  /-- Identity that was next at the core's last acquire: a fill requested before it is not installed (R146). -/
  acqId : Nat
  /-- Start of each context's slice count (R181). -/
  slices : Map Nat
  /-- ac of the last issue. -/
  issuedAt : Option Nat
  /-- ac until which the vector datapath is occupied (R14). -/
  datapath : Nat
  /-- Occupancy end of each special-function unit (R171). -/
  sfuFree : Map Nat
  /-- ac until which the accumulator store and the scratch port are occupied (R330, R130). -/
  accFree : Nat
  scrFree : Nat
  /-- ac in which vector-file room was last freed, and the bytes freed in it (R46, R47). -/
  roomAt : Nat
  freed : Nat
deriving DecidableEq, Repr

/-! ## Contexts -/

/-- A page-fault record (R227 to R230) before and after it is written. -/
structure FaultRec where
  page : Nat
  reason : Nat
  acc : Nat
  die : Nat
  /-- ac at which the die's window closes; ring position once written. -/
  due : Nat
  ring : Option Nat
deriving DecidableEq, Repr

/-- A bind entry of the log held for want of room (R245): the core, the bind record's words, and the unit that raised LOGFULL. -/
structure HeldBind where
  core : Nat
  w0 : Nat
  w1 : Nat
  uid : Nat
deriving DecidableEq, Repr

/-- A context (R249) and its privileged registers (R41). -/
structure CtxSt where
  phv : Word
  psv : Word
  ctxcfg : Word
  wdb : Word
  wdp : Word
  logc : Word
  logbase : Word
  loglim : Word
  slice : Word
  fring : Word
  ptroot : Word
  detcfg : Word
  dmap : Word
  alc : Map Word
  /-- Registers written in this ac, by index, with the value that acts until the next (R60, R181, R195, R211). -/
  was : Map Word
  dgen : Nat
  /-- Which map is current; which is frozen (for a launch) and which is clearing (R195, R197). -/
  current : Nat
  frozen : Option Nat
  clearing : Bool
  /-- Dirty bits are in memory; the traced launch in progress. -/
  tracer : Option Nat
  accepted : Nat
  refused : Nat
  lastReason : Nat
  /-- Bytes of the launch ports keyed port·128 + byte (R173). -/
  ports : Sparse 8
  /-- Increments of REPLY not yet acted on (R230). -/
  replies : Nat
  faults : List FaultRec
  /-- Log entries reserved (R245). -/
  reserved : Nat
  /-- Bind entries of the log that are held for want of room (R245). -/
  heldBinds : List HeldBind
deriving DecidableEq, Repr

/-! ## Work in flight -/

/-- A leaf entry and the level it stands at (R222, R223). -/
structure Leaf where
  e : Nat
  lev : Nat
deriving DecidableEq, Repr

/-- A part of one access that lies in one 64-byte line, translated. -/
structure Piece where
  va : Nat
  n : Nat
  pa : Nat
  leaf : Leaf
deriving DecidableEq, Repr

/-- Bytes to write at one physical place, with the virtual address and the leaf's tracking bit. -/
structure Chunk where
  pa : Nat
  va : Nat
  size : Nat
  data : Nat
  trk : Bool
  /-- Carries poison to the lines it touches (R240). -/
  bad : Bool
deriving DecidableEq, Repr

/-- One element access of a memory instruction before translation: the positions it stands for, its address and size,
the data or operand it carries, and the register copies its result goes to. -/
structure Acc where
  mask : Mask
  ea : Nat
  size : Nat
  data : Nat
  cmp : Nat
  keys : List Nat
  bad : Bool
deriving DecidableEq, Repr

/-- What a memory instruction does with its accesses. -/
inductive MemOp where
  | load (sx : Bool) (width : Nat)
  | store
  | atom (o : AtomOp) (t : AType) (ret : Bool)
  | atom2 (o : Atom2Op) (ret : Bool)
  | wadr
  | ctwt
  | ctinc
  | lld
  | bset (n : Nat)
  | record (entry : Nat)
  | dtst
  | trec
  | tileIn
  | tileOut
  | rqt
  | job
  | save (part : Nat)
  | restore (part : Nat)
  | swap
  | fence
deriving DecidableEq, Repr

/-- A memory instruction with its operands read (R226: what the operand log holds). -/
structure MemReq where
  op : MemOp
  i : Instr
  word : Nat
  clause : Nat
  idx : Nat
  bufn : Nat
  node : Option Nat
  pol : CPol
  accs : List Acc
  /-- Copies written 0 because their index failed under zero or drop (R127). -/
  zeros : List Nat
  xm : Mask
  rm : Nat
deriving DecidableEq, Repr

/-- One outstanding remote or host request (R208): the line as the instruction names it, the target and its offset or host
address, the positions it serves. -/
structure RemReq where
  line : Nat
  addr : Nat
  mask : Mask
  node : Nat
  host : Bool
  kind : RKind
  window : Option Nat
  charge : Nat
  timeout : Nat
  /-- Answered: status (0 for success) and data; none while outstanding. -/
  answer : Option (Nat × Nat)
  /-- The station it left by (R207), and the key slot it was sealed under (R215). -/
  station : Option Nat := none
  slot : Option Nat := none
  /-- In flight on a link that went down: answered by timeout alone (R207). -/
  lost : Bool := false
  /-- Not sealed for want of a counter: held until the key rotates (R216). -/
  held : Bool := false
  /-- Of an engine's request to this node's own window (R205): whether it writes, from which byte of the line, how many bytes,
  which, and whether they carry poison. -/
  write : Bool := false
  skip : Nat := 0
  size : Nat := 64
  data : Nat := 0
  bad : Bool := false
deriving DecidableEq, Repr

/-- A halo or collective command as submitted (R167, R168): its queue and words; the records it names (source, destination,
completion word, observations) and the completion word's address; its pane's fold and gm, its positions. -/
structure Command where
  q : Nat
  words : List Nat
  recs : List (BitVec 256)
  M : Nat
  gm : Nat
  cw : Option Nat
  mask : Mask
deriving DecidableEq, Repr

/-- A watched copy of `wadr` (R373): place, none where the index failed; destination copy; expected and found value. -/
structure Watch where
  pa : Option Nat
  key : Nat
  expected : Nat
  found : Option Nat
deriving DecidableEq, Repr

/-- What a psave image holds (R238). -/
inductive ImgBody where
  | pane (h : Hidden)
  | mx (m : MxSt)
  | lx (ls : Map LongSt)
deriving DecidableEq, Repr

/-- What one piece of work in flight does when it completes. -/
inductive Work where
  /-- Register copies a reply writes; buffer registers it writes; copies whose low bytes it poisons (R240); fstat bits. -/
  | regs (ws : List (Nat × Word)) (bufs : List (Nat × BitVec 256)) (bad : List (Nat × Nat)) (flags : Nat)
  /-- Long slots of a casement that an image replaces when it arrives (R82), those of `bad` poisoned. -/
  | longs (cas : Nat) (xs : List (Nat × LongSt)) (bad : List Nat)
  /-- A read that its home has not served yet (R144), with its accesses as translated at issue. -/
  | reads (r : MemReq) (locs : List (Acc × List Piece))
  /-- A cached store awaiting its registration (R145). -/
  | store (cs : List Chunk)
  /-- A registration that its home has accepted: the acknowledgement is on its way (R145). -/
  | acking
  /-- A write performed at its place when acknowledged (.dev, .sys, .str). -/
  | write (cs : List Chunk)
  /-- Ordered atomics to be recorded (R98). -/
  | ordered (as : List OrdAtom)
  /-- A counter increment (R186). -/
  | count (c : Chunk)
  /-- Nothing left but the completion. -/
  | none
  /-- A special-function result (R171). -/
  | sfq (tok : Nat) (ws : List (Nat × Word)) (flags : Nat) (enabled : Nat) (trapped : Mask) (word : Nat)
  /-- An instruction pending in the operand log (R226). -/
  | logged (r : MemReq) (pages : List (Nat × Nat))
  /-- The place in the Load count of a store or atomic pending in the operand log (R261): the identity of that work. -/
  | inLog (id : Nat)
  /-- Remote or host requests of one instruction (R208). -/
  | remote (r : MemReq) (reqs : List RemReq)
  /-- A counter wait (R186): address, none where the index failed (R304), and threshold. -/
  | ctwt (pa : Option Nat) (thr : Nat)
  /-- Watched words (R373). -/
  | wadr (ws : List Watch)
  /-- A sealed copy batch of a lane: its copies, the pages it waits for, its requests, how far it is (0 to 2). -/
  | copy (lane : Nat) (ops : List CopyOp) (pages : List (Nat × Nat)) (reqs : List RemReq) (phase : Nat)
  | halo (c : Command) (pages : List (Nat × Nat)) (reqs : List RemReq) (phase : Nat)
  /-- A collective command with this node's contributions once read. -/
  | coll (c : Command) (own : List Nat) (pages : List (Nat × Nat)) (reqs : List RemReq) (phase : Nat)
  /-- A stack-side job: its descriptor's words and the pages it waits for (R120). -/
  | job (words : List Nat) (r : MemReq) (pages : List (Nat × Nat)) (since : Nat) (again : Bool)
  /-- The memory side of an engine operation (R148): its request, the pages it waits for, and whether its reads are bound. -/
  | tile (r : MemReq) (pages : List (Nat × Nat)) (bound : Bool)
  /-- The writes of `rqt`, under the cached policy and at their home, with the fstat bits they set (R119, R357). -/
  | rqt (cached others : List Chunk) (flags : Nat)
  /-- A launch record's bytes for a claimed entry of the pending queue (R182). -/
  | record (entry : Nat) (words : List Nat)
  | invalidate
  | mapsClear (ctx v : Nat)
  /-- The map that was frozen being cleared, at an address (R197). -/
  | frozenClear (ctx base : Nat)
  | convert (g a b : Nat)
  /-- A psave image read (R238): its content, none where header or digest does not match; whether a line was poisoned. -/
  | install (part : Nat) (body : Option ImgBody) (bad : Bool)
  /-- A recorder's or placement-map write that waits for a page (R180, R194): launch, address, bytes, value, page. -/
  | slotWrite (lid va size v page : Nat)
deriving DecidableEq, Repr

/-- One piece of work in flight: who issued it, its kind and ordinal (R261), and when it is due. -/
structure Pend where
  id : Nat
  uid : Nat
  pane : Nat
  ctx : Nat
  core : Nat
  /-- Clause address of the instruction (R235: efa of HAZARD). -/
  clause : Nat
  kind : Kind
  ord : Nat
  issued : Nat
  due : Nat
  /-- Waits for a page-fault reply or for its turn; never due by time alone. -/
  held : Bool
  /-- Log entries it has reserved (R245). -/
  resv : Nat
  work : Work
deriving DecidableEq, Repr

/-! ## The device -/

/-- A psave image written so far: its number, part, length and content. -/
structure Img where
  num : Nat
  part : Nat
  len : Nat
  body : ImgBody
deriving DecidableEq, Repr

/-- A host region (R218, R220). -/
structure Region where
  key : Nat
  ctx : Nat
  rights : Nat
  launch : Bool
  base : Nat
  len : Nat
deriving DecidableEq, Repr

/-- The key state of a node pair (R215 to R217): the send slot and the ac of its last switch, whether the other slot holds a key,
sealed-transaction counters by slot·16 + station, and whether a rotation has been asked for. -/
structure KeySt where
  slot : Nat
  since : Option Nat
  both : Bool
  counters : Map Nat
  asked : Bool
deriving DecidableEq, Repr

/-- A port binding (R220): HBASE, remote key, queue pair number. -/
structure Binding where
  hbase : Nat
  key : Nat
  qpn : Nat
deriving DecidableEq, Repr

/-- An answer the device sends (R218, R220, R248): queue pair or operation, and its words or bytes. -/
structure Answer where
  qp : Nat
  words : List Nat
deriving DecidableEq, Repr

/-- A store that its home has accepted and whose acknowledgement has not reached its core (R145): the other units of the core
read the word as it stood before. -/
structure Shadow where
  core : Nat
  word : Nat
  uid : Nat
  /-- Identity of the store's work. -/
  id : Nat
  old : Word
  /-- ac in which the acknowledgement arrives. -/
  until_ : Nat
deriving DecidableEq, Repr

/-- The device outside the cores (R11, R12, R205, R248 to R257). -/
structure DevSt where
  enabled : Nat
  spares : Nat
  fencedWays : List Nat
  step : Nat
  node : Nat
  attached : List (Nat × Nat)
  mapped : List (Nat × Nat)
  /-- Ports whose expander was removed since the last reset (R141): unpopulated, though the record of R12 stays. -/
  gone : List Nat
  stations : Nat
  keys : Map KeySt
  badTags : Nat
  regions : Map Region
  bindings : Map Binding
  cfgA : Nat
  cfgB : Nat
  staged : List Byte
  running : List Byte
  rollback : Nat
  resets : Nat
  recovery : Bool
  limit : Nat
  newLimit : Nat
  clock : Nat
  downSteps : Nat
  average : Nat
  watts : List Nat
  /-- 10 µs reports with the average below the limit by 100 W, since the last upward step (R256). -/
  calm : Nat
  testing : List HwUnit
  answers : List Answer
  /-- Partial states and results that other nodes have sent and no command has taken (R168). -/
  partials : List Partial
  /-- Round-robin of the binding: the die to try first and the context that was bound last (R177). -/
  die : Nat
  lastCtx : Nat
  /-- REFUSED of contexts that are not defined (R174). -/
  refusedUndef : Map Nat
  /-- Key exchanges under way or to be tried again: node to the ac in which it starts (R217). -/
  exchanges : Map Nat
  /-- The (station, node) pairs that the fabric connects (R205, R207, R217). -/
  peers : List (Nat × Nat)
  /-- Package figures of the last reports, newest first, at most 100 (R256). -/
  figures : List Nat
  /-- Contexts whose definition was answered in this ac (R249). -/
  defining : Map CtxSt
  /-- The configuration record that applies from the next ac (R253). -/
  newCfg : Option (Nat × Nat)
  /-- Draw number of context 0's DGEN at the last reset (R195, R255). -/
  dgenBase : Nat
  lamport : Nat
  homeLamport : Map Nat
deriving DecidableEq, Repr

/-- Sill way partition of one region (R134). -/
structure WpartSt where
  vw : Nat
  busy : Bool
  /-- VW before the change in progress. -/
  old : Nat
deriving DecidableEq, Repr

/-- The state of the machine (DESIGN CHOICE, log entry 1). -/
structure State where
  /-- ac elapsed since reset (R4, R41). -/
  now : Nat
  /-- The ac has just begun: a traced start is its first act (R197, R204). -/
  opening : Bool
  /-- The issue phase of the ac is under way: issues come first, then what falls in the ac (R33, R35, R37). -/
  issuing : Bool
  /-- The unit the issue port has chosen. -/
  cur : Option Nat
  /-- Inputs still to come, each with the ac it arrives in. -/
  inbox : List (Nat × Instr)
  nextId : Nat
  /-- Counter the free values are drawn with. -/
  free : Nat
  mem : Memory
  /-- Cached translations (R225), keyed context·2^41 + virtual 64 KiB page: leaf entry ·4 + level. -/
  tlb : Map Nat
  /-- Ownership registrations: word address to core (R145). -/
  owner : Map Nat
  /-- Stores accepted and not yet acknowledged (R145), oldest first. -/
  shadows : List Shadow
  /-- Conflict registrations (R99): word address to the casements that have stored to it. -/
  dets : Map (List Nat)
  units : Map UnitSt
  panes : Map PaneSt
  cas : Map CasementSt
  launches : Map LaunchSt
  cores : Map CoreSt
  ctxs : Map CtxSt
  pend : Map Pend
  wpart : Map WpartSt
  dev : DevSt
  poison : List Site
  images : List Img
deriving DecidableEq, Repr

/-- Why the machine stops. -/
inductive Fault where
  /-- Raised by every instruction when no unit is chosen: nothing issues it. Safe: the issue port never does this. -/
  | noUnit
deriving DecidableEq, Repr

/-- What the model gives no meaning to. -/
inductive Refusal where
  /-- An instruction whose meaning is not written; raised by the dispatcher alone. Safe. -/
  | notModelled (mnemonic : String)
  /-- An event raised by `exec` on a state in which it does not occur: nothing of that kind is pending. Safe. -/
  | notDue
deriving DecidableEq, Repr

/-- The outcome of one step of this machine. -/
abbrev Out := Host.Outcome State Fault Refusal

/-! ## Reset -/

/-- A unit's registers when it starts at an address with a mask (R39, R41, R231). -/
def UnitSt.start (pane seq pc now : Nat) (m : Mask) : UnitSt where
  pane := pane
  seq := seq
  domain := m
  xm := m
  pc := pc
  idx := 0
  words := []
  entered := false
  hdr := 0
  rstack := []
  cstack := []
  level := .none
  sup := false
  ecause := 0
  epc := 0
  ecw := 0
  efd := 0
  efa := 0
  efb := 0
  eaddr := 0
  erem := 0
  emask := 0
  nLd := 0
  nSt := 0
  nMx := 0
  uncov := []
  defer := []
  fails := []
  park := .ready
  parkedAt := now
  lastIssue := now
  passes := 0
  seated := true
  queuedAt := now
  released := false
  logHeld := false
  resv := 0
  hostPorts := 0
  past := []
  acquired := false

/-- A pane when its casement is admitted (R39). -/
def PaneSt.start (cas px slot vcnt : Nat) : PaneSt where
  cas := cas
  px := px
  slot := slot
  regs := []
  preds := []
  bufs := []
  staging := []
  charge := []
  fmode := 0
  fstat := 0
  uhv := 0
  detst := 0
  detaddr := 0
  vcnt := vcnt
  nextSeq := 1
  openB := []
  batchFails := []
  tokens := []
  lanes := []
  exited := false
  lastExit := 0
  out := false
  outAt := 0
  outVa := 0
  relAt := none
  saved := false
  hidden := none

/-- An a-register after reset: window form, anchors 0, nothing summed (R105). -/
def AccSt.clear : AccSt := ⟨false, [], 0, 0, 0⟩
/-- An element after reset (R87, R105). -/
def AccEl.clear : AccEl := ⟨0, 0, 0, 0⟩
/-- The matrix registers after reset (R39, R255). -/
def MxSt.clear : MxSt := ⟨[], [], []⟩

/-- A core after reset (R41, R255). -/
def CoreSt.start : CoreSt where
  mx := .clear
  baton := none
  batonCtx := none
  stale := false
  releasing := false
  freedAt := 0
  engQ := []
  table := []
  headPass := 0
  admAt := none
  agelim := 8
  evs := 0
  lamport := 0
  l1 := []
  l1valid := []
  lru := []
  acqId := 0
  slices := []
  issuedAt := none
  datapath := 0
  sfuFree := []
  accFree := 0
  scrFree := 0
  roomAt := 0
  freed := 0

/-- A context as its definition leaves it, before the four registers of the request (R249) (DESIGN CHOICE, log entry 6). -/
def CtxSt.start (dgen : Nat) : CtxSt where
  phv := 0
  psv := 0
  ctxcfg := 0
  wdb := 0
  wdp := 0
  logc := 0
  logbase := 0
  loglim := 0
  slice := 0
  fring := 0
  ptroot := 0
  detcfg := 0
  dmap := 0
  alc := []
  was := []
  dgen := dgen
  current := 0
  frozen := none
  clearing := false
  tracer := none
  accepted := 0
  refused := 0
  lastReason := 0
  ports := []
  replies := 0
  faults := []
  reserved := 0
  heldBinds := []

/-- The device after reset (R12, R253, R255); what no rule gives is log entry 7's. -/
def DevSt.start : DevSt where
  enabled := Config.coresShipped
  spares := 2 ^ 32 - 1
  fencedWays := []
  step := Config.stepping
  node := Config.node
  attached := []
  mapped := []
  gone := []
  stations := 0xFFFF
  keys := []
  badTags := 0
  regions := []
  bindings := []
  cfgA := 0
  cfgB := 0
  staged := []
  running := []
  rollback := 0
  resets := 1
  recovery := false
  limit := 3200
  newLimit := 3200
  clock := Config.nominalClock
  downSteps := 0
  average := 0
  watts := []
  calm := 0
  testing := []
  answers := []
  partials := []
  die := 0
  lastCtx := 63
  refusedUndef := []
  exchanges := []
  peers := []
  figures := []
  defining := []
  newCfg := none
  dgenBase := 0
  lamport := 0
  homeLamport := []

/-- The machine right after reset (R255): no context is defined, nothing is resident, the vaults read 0 (DESIGN CHOICE, log
entries 1, 5). -/
def State.reset : State where
  now := 0
  opening := false
  issuing := true
  cur := none
  inbox := []
  nextId := 1
  free := 64
  mem := []
  tlb := []
  owner := []
  shadows := []
  dets := []
  units := []
  panes := []
  cas := []
  launches := []
  cores := []
  ctxs := []
  pend := []
  wpart := []
  dev := .start
  poison := []
  images := []

/-! ## Plain updates: the one home of each part -/

def State.setNow (s : State) (v : Nat) : State := { s with now := v }
def State.setOpening (s : State) (v : Bool) : State := { s with opening := v }
def State.setIssuing (s : State) (v : Bool) : State := { s with issuing := v }
def State.setCur (s : State) (v : Option Nat) : State := { s with cur := v }
def State.setInbox (s : State) (v : List (Nat × Instr)) : State := { s with inbox := v }
def State.setFree (s : State) (v : Nat) : State := { s with free := v }
def State.setMem (s : State) (v : Memory) : State := { s with mem := v }
def State.setTlb (s : State) (v : Map Nat) : State := { s with tlb := v }
def State.setOwner (s : State) (v : Map Nat) : State := { s with owner := v }
def State.setShadows (s : State) (v : List Shadow) : State := { s with shadows := v }
def State.setDets (s : State) (v : Map (List Nat)) : State := { s with dets := v }
def State.setUnits (s : State) (v : Map UnitSt) : State := { s with units := v }
def State.setPanes (s : State) (v : Map PaneSt) : State := { s with panes := v }
def State.setCas (s : State) (v : Map CasementSt) : State := { s with cas := v }
def State.setLaunches (s : State) (v : Map LaunchSt) : State := { s with launches := v }
def State.setCores (s : State) (v : Map CoreSt) : State := { s with cores := v }
def State.setCtxs (s : State) (v : Map CtxSt) : State := { s with ctxs := v }
def State.setPend (s : State) (v : Map Pend) : State := { s with pend := v }
def State.setWpart (s : State) (v : Map WpartSt) : State := { s with wpart := v }
def State.setDev (s : State) (v : DevSt) : State := { s with dev := v }
def State.setPoison (s : State) (v : List Site) : State := { s with poison := v }
def State.setImages (s : State) (v : List Img) : State := { s with images := v }

end Sys2Proof.Machine
end

