-- ==== Sys2Proof/Machine/Float.lean ====
section
/-! DEFINITION. Floating-point formats and exact arithmetic with one rounding (R63 to R74): values are exact dyadic numbers,
and every result is formed by one rounding into its format. -/

namespace Sys2Proof.Machine

/-- A floating-point format (R63): exponent bits, fraction bits, bias; E4M3 has no infinity. -/
structure Fmt where
  eb : Nat
  fb : Nat
  bias : Nat
  noInf : Bool
deriving DecidableEq, Repr

namespace Fmt
def f64 : Fmt := ⟨11, 52, 1023, false⟩
def f32 : Fmt := ⟨8, 23, 127, false⟩
def f16 : Fmt := ⟨5, 10, 15, false⟩
def bf16 : Fmt := ⟨8, 7, 127, false⟩
def e4m3 : Fmt := ⟨4, 3, 7, true⟩
def e5m2 : Fmt := ⟨5, 2, 15, false⟩
def ofType : FType → Fmt
  | .f64 => f64 | .f32 => f32 | .bf16 => bf16 | .f16 => f16
/-- Bits of a code. -/
def width (f : Fmt) : Nat := 1 + f.eb + f.fb
/-- The canonical NaN (R64). -/
def canon (f : Fmt) : Nat := if f.noInf then 2 ^ (f.eb + f.fb) - 1 else (2 ^ f.eb - 1) * 2 ^ f.fb + 2 ^ (f.fb - 1)
/-- The code of an infinity. -/
def infCode (f : Fmt) (neg : Bool) : Nat := (2 ^ f.eb - 1) * 2 ^ f.fb + (if neg then 2 ^ (f.eb + f.fb) else 0)
/-- The code of the largest finite value. -/
def maxCode (f : Fmt) (neg : Bool) : Nat :=
  (if f.noInf then 2 ^ (f.eb + f.fb) - 2 else (2 ^ f.eb - 1) * 2 ^ f.fb - 1) + (if neg then 2 ^ (f.eb + f.fb) else 0)
/-- The code of a zero. -/
def zeroCode (f : Fmt) (neg : Bool) : Nat := if neg then 2 ^ (f.eb + f.fb) else 0
end Fmt

/-- The value of a code: a NaN with its code, an infinity, or (−1)^neg · m · 2^e (m = 0 is a zero). -/
inductive FV where
  | nan (code : Nat)
  | inf (neg : Bool)
  | fin (neg : Bool) (m : Nat) (e : Int)
deriving DecidableEq, Repr

/-- The sign bit of a code. -/
def Fmt.neg (f : Fmt) (c : Nat) : Bool := bits c (f.eb + f.fb) 1 == 1

/-- The value of a code (R63). -/
def Fmt.val (f : Fmt) (c : Nat) : FV :=
  let ex := bits c f.fb f.eb
  let fr := bits c 0 f.fb
  if f.noInf ∧ ex = 2 ^ f.eb - 1 ∧ fr = 2 ^ f.fb - 1 then .nan c
  else if ¬f.noInf ∧ ex = 2 ^ f.eb - 1 then (if fr = 0 then .inf (f.neg c) else .nan c)
  else if ex = 0 then .fin (f.neg c) fr (1 - (f.bias : Int) - f.fb)
  else .fin (f.neg c) (2 ^ f.fb + fr) ((ex : Int) - f.bias - f.fb)

/-- A signalling NaN (R64). -/
def Fmt.isSNaN (f : Fmt) (c : Nat) : Bool :=
  match f.val c with
  | .nan _ => !f.noInf && bits c (f.fb - 1) 1 == 0
  | _ => false

def Fmt.isNaN (f : Fmt) (c : Nat) : Bool :=
  match f.val c with
  | .nan _ => true
  | _ => false

/-- A subnormal code: exponent field 0, fraction nonzero (R63). -/
def Fmt.isSub (f : Fmt) (c : Nat) : Bool := bits c f.fb f.eb == 0 && bits c 0 f.fb != 0

/-- The number of bits of n, for n below 2^(64·fuel). -/
def blenAux : Nat → Nat → Nat
  | 0, _ => 0
  | f + 1, n => if n < 2 ^ 64 then small 64 n else 64 + blenAux f (n / 2 ^ 64)
where
  small : Nat → Nat → Nat
    | 0, _ => 0
    | k + 1, n => if n = 0 then 0 else 1 + small k (n / 2)

/-- The number of bits of n (n below 2^140000). -/
def blen (n : Nat) : Nat := blenAux 2200 n

/-- fstat bits 0 to 4 (R43). -/
def flINV : Nat := 1
def flDZ : Nat := 2
def flOVF : Nat := 4
def flUNF : Nat := 8
def flINX : Nat := 16

/-- fstat bits of Table 4 of R43 that no floating-point rule sets. -/
def flWLOSS : Nat := 2 ^ 5
def flWOVF : Nat := 2 ^ 6
def flSPEC : Nat := 2 ^ 7
def flPZ : Nat := 2 ^ 8
def flPT : Nat := 2 ^ 9
def flRV : Nat := 2 ^ 10
def flLOVF : Nat := 2 ^ 11

/-- n / 2^k rounded to an integer under a mode, and whether it was inexact (R69). -/
def roundShift (rm : RMode) (neg : Bool) (n k : Nat) : Nat × Bool :=
  let q := n / 2 ^ k
  let r := n % 2 ^ k
  if r = 0 then (q, false)
  else
    let up := match rm with
      | .rne => decide (2 ^ k < 2 * r) || (decide (2 * r = 2 ^ k) && q % 2 == 1)
      | .rtz => false
      | .rup => !neg
      | .rdn => neg
    (if up then q + 1 else q, true)

/-- A result in a format: its code, its flags, and whether it overflowed. -/
structure FRes where
  code : Nat
  flags : Nat
  ovf : Bool := false
deriving DecidableEq, Repr

/-- The infinity or the largest finite value that an overflow gives (R69 step 4). -/
def Fmt.overflow (f : Fmt) (rm : RMode) (neg : Bool) : Nat :=
  let toMax : Bool := match rm with
    | .rne => false | .rtz => true | .rup => neg | .rdn => !neg
  if toMax || f.noInf then f.maxCode neg else f.infCode neg

/-- ONE ROUNDING (R69, R70): the nonzero exact magnitude n · 2^e placed in a format. -/
def Fmt.round (f : Fmt) (rm : RMode) (flush : Bool) (neg : Bool) (n : Nat) (e : Int) : FRes :=
  if n = 0 then ⟨f.zeroCode neg, 0, false⟩ else
  let sgn := f.zeroCode neg
  let E : Int := e + blen n - 1
  let q : Int := E - f.fb
  -- step 2: the precision with an unbounded exponent
  let (m, inx) := if q ≤ e then (n * 2 ^ (e - q).toNat, false) else roundShift rm neg n (q - e).toNat
  let (m, E) := if m = 2 ^ (f.fb + 1) then (2 ^ f.fb, E + 1) else (m, E)
  let emin : Int := 1 - (f.bias : Int)
  if E < emin then
    if flush then ⟨sgn, flUNF + flINX, false⟩
    else
      let qs := emin - f.fb
      let (ms, inxs) := if qs ≤ e then (n * 2 ^ (e - qs).toNat, false) else roundShift rm neg n (qs - e).toNat
      ⟨sgn + ms, if inxs then flUNF + flINX else 0, false⟩
  else
    let ex : Nat := (E + f.bias).toNat
    let top := if f.noInf then decide (2 ^ f.eb - 1 < ex) || (decide (ex = 2 ^ f.eb - 1) && decide (m = 2 ^ (f.fb + 1) - 1))
      else decide (2 ^ f.eb - 1 ≤ ex)
    if top then ⟨f.overflow rm neg, flOVF + flINX, true⟩
    else ⟨sgn + ex * 2 ^ f.fb + (m - 2 ^ f.fb), if inx then flINX else 0, false⟩

/-- The floating-point mode captured at issue (R42). -/
structure FMode where
  rm : RMode
  sub : Nat
  nan : Bool
  te : Nat
deriving DecidableEq, Repr

/-- The mode that fmode holds. -/
def FMode.ofWord (w : Word) : FMode :=
  ⟨RMode.ofCode (bits w.toNat 0 2), bits w.toNat 2 2, bits w.toNat 4 1 == 1, bits w.toNat 8 5⟩

/-- RNE, subnormals kept, canonical NaN: what the paths that ignore fmode use. -/
def FMode.plain (rm : RMode) : FMode := ⟨rm, 0, false, 0⟩

def FMode.flushIn (m : FMode) : Bool := m.sub % 2 == 1
def FMode.flushOut (m : FMode) : Bool := decide (2 ≤ m.sub)

/-- An input as an operation reads it: a subnormal flushed under SUB 1 and 3 (R70). -/
def Fmt.input (f : Fmt) (m : FMode) (c : Nat) : Nat :=
  if m.flushIn && f.isSub c then f.zeroCode (f.neg c) else c

/-- A NaN of one format quieted and carried into another (R71). -/
def carryNaN (src dst : Fmt) (c : Nat) : Nat :=
  let neg := src.neg c
  if dst.noInf then (if neg then 2 ^ (dst.eb + dst.fb) else 0) + dst.canon
  else
    let fr := (if src.noInf then bits c 0 src.fb else bits c 0 src.fb ||| 2 ^ (src.fb - 1))
    let k := if src.fb ≤ dst.fb then fr * 2 ^ (dst.fb - src.fb) else fr / 2 ^ (src.fb - dst.fb)
    dst.infCode neg + (if k = 0 then 1 else k)

/-- The NaN result of an operation over its inputs in order (R71): NAN 0 canonical, NAN 1 the first NaN input. -/
def nanOf (dst : Fmt) (m : FMode) (ins : List (Fmt × Nat)) : Nat :=
  if m.nan then match ins.find? fun q => q.1.isNaN q.2 with
    | some (f, c) => carryNaN f dst c
    | none => dst.canon
  else dst.canon

/-- INV for a signalling NaN among the inputs (R71). -/
def snanFlag (ins : List (Fmt × Nat)) : Nat := if ins.any fun q => q.1.isSNaN q.2 then flINV else 0

/-- An exact signed dyadic rounded; a zero takes the given sign. -/
def Fmt.roundInt (f : Fmt) (rm : RMode) (flush zneg : Bool) (v : Int) (e : Int) : FRes :=
  if v = 0 then ⟨f.zeroCode zneg, 0, false⟩ else f.round rm flush (decide (v < 0)) v.natAbs e

/-- The exact sum of two signed dyadics, over the smaller exponent. -/
def dyAdd (a : Int) (ea : Int) (b : Int) (eb : Int) : Int × Int :=
  let e := min ea eb
  (a * 2 ^ (ea - e).toNat + b * 2 ^ (eb - e).toNat, e)

/-- The signed mantissa of a finite value. -/
def sgnM (neg : Bool) (m : Nat) : Int := if neg then -(m : Int) else m

/-- The sign of an exact zero sum of operands with the given signs, both zero or not (R72). -/
def zeroSign (rm : RMode) (bothZero : Bool) (na nb : Bool) : Bool :=
  if bothZero && na == nb then na else decide (rm = .rdn)

/-- a + b, with b's sign inverted when `negB`; a NaN takes its place as it stands (R71, R72). -/
def fpAdd (f : Fmt) (m : FMode) (negB : Bool) (a0 b0 : Nat) : FRes :=
  let a := f.input m a0
  let b := f.input m b0
  match f.val a, f.val b with
  | .inf na, .inf nb => if na == (nb != negB) then ⟨f.infCode na, 0, false⟩ else ⟨f.canon, flINV, false⟩
  | .inf na, .fin .. => ⟨f.infCode na, 0, false⟩
  | .fin .., .inf nb => ⟨f.infCode (nb != negB), 0, false⟩
  | .fin na ma ea, .fin nb mb eb =>
    let nb := nb != negB
    let (v, e) := dyAdd (sgnM na ma) ea (sgnM nb mb) eb
    f.roundInt m.rm m.flushOut (zeroSign m.rm (ma == 0 && mb == 0) na nb) v e
  | _, _ => ⟨nanOf f m [(f, a), (f, b)], snanFlag [(f, a), (f, b)], false⟩

/-- a × b (R72). -/
def fpMul (f : Fmt) (m : FMode) (a0 b0 : Nat) : FRes :=
  let a := f.input m a0
  let b := f.input m b0
  match f.val a, f.val b with
  | .inf na, .inf nb => ⟨f.infCode (na != nb), 0, false⟩
  | .inf na, .fin nb mb _ => if mb = 0 then ⟨f.canon, flINV, false⟩ else ⟨f.infCode (na != nb), 0, false⟩
  | .fin na ma _, .inf nb => if ma = 0 then ⟨f.canon, flINV, false⟩ else ⟨f.infCode (na != nb), 0, false⟩
  | .fin na ma ea, .fin nb mb eb => f.round m.rm m.flushOut (na != nb) (ma * mb) (ea + eb)
  | _, _ => ⟨nanOf f m [(f, a), (f, b)], snanFlag [(f, a), (f, b)], false⟩

/-- A product's value: invalid, infinite, or exact. -/
inductive Prod where
  | bad
  | inf (neg : Bool)
  | fin (neg : Bool) (m : Nat) (e : Int)
deriving DecidableEq, Repr

/-- The product of two values that are not NaN. -/
def mulV : FV → FV → Prod
  | .inf na, .inf nb => .inf (na != nb)
  | .inf na, .fin nb mb _ => if mb = 0 then .bad else .inf (na != nb)
  | .fin na ma _, .inf nb => if ma = 0 then .bad else .inf (na != nb)
  | .fin na ma ea, .fin nb mb eb => .fin (na != nb) (ma * mb) (ea + eb)
  | _, _ => .bad

/-- a × b + d with the product's and d's signs inverted as asked, one rounding (R72). -/
def fpFma (f : Fmt) (m : FMode) (negP negD : Bool) (a0 b0 d0 : Nat) : FRes :=
  let a := f.input m a0
  let b := f.input m b0
  let d := f.input m d0
  let ins := [(f, a), (f, b), (f, d)]
  if f.isNaN a ∨ f.isNaN b then ⟨nanOf f m ins, snanFlag ins, false⟩
  else match mulV (f.val a) (f.val b), f.val d with
    | .bad, _ => ⟨nanOf f m ins, flINV, false⟩
    | _, .nan _ => ⟨nanOf f m ins, snanFlag ins, false⟩
    | .inf np, .inf nd => if (np != negP) == (nd != negD) then ⟨f.infCode (np != negP), 0, false⟩ else ⟨f.canon, flINV, false⟩
    | .inf np, _ => ⟨f.infCode (np != negP), 0, false⟩
    | .fin .., .inf nd => ⟨f.infCode (nd != negD), 0, false⟩
    | .fin np mp ep, .fin nd md ed =>
      let np := np != negP
      let nd := nd != negD
      let (v, e) := dyAdd (sgnM np mp) ep (sgnM nd md) ed
      f.roundInt m.rm m.flushOut (zeroSign m.rm (mp == 0 && md == 0) np nd) v e

/-- a < b on values that are not NaN, with −0 = +0 unless `zeros` orders −0 below +0. -/
def ltV (zeros : Bool) : FV → FV → Bool
  | .inf na, .inf nb => na && !nb
  | .inf na, .fin .. => na
  | .fin .., .inf nb => !nb
  | .fin na ma ea, .fin nb mb eb =>
    if ma = 0 ∧ mb = 0 then zeros && na && !nb
    else
      let e := min ea eb
      decide (sgnM na ma * 2 ^ (ea - e).toNat < sgnM nb mb * 2 ^ (eb - e).toNat)
  | _, _ => false

/-- A tiny result, rounded or not, flushed under SUB 2 and 3 (R70). -/
def Fmt.flushSub (f : Fmt) (m : FMode) (c : Nat) : FRes :=
  if m.flushOut && f.isSub c then ⟨f.zeroCode (f.neg c), flUNF + flINX, false⟩ else ⟨c, 0, false⟩

/-- minimumNumber, or maximumNumber when `mx` (R72) (DEDUCED, log entry 20). -/
def fpMinMax (f : Fmt) (m : FMode) (mx : Bool) (a0 b0 : Nat) : FRes :=
  let a := f.input m a0
  let b := f.input m b0
  let fl := snanFlag [(f, a), (f, b)]
  let r := if f.isNaN a ∧ f.isNaN b then ⟨nanOf f m [(f, a), (f, b)], 0, false⟩
    else if f.isNaN a then f.flushSub m b
    else if f.isNaN b then f.flushSub m a
    else f.flushSub m (if ltV true (f.val b) (f.val a) != mx then b else a)
  { r with flags := r.flags ||| fl }

/-- a × 2^n, one rounding (R72). -/
def fpScl (f : Fmt) (m : FMode) (a0 : Nat) (n : Int) : FRes :=
  let a := f.input m a0
  let n : Int := max (-65536) (min 65536 n)
  match f.val a with
  | .nan _ => ⟨nanOf f m [(f, a)], snanFlag [(f, a)], false⟩
  | .inf _ => ⟨a, 0, false⟩
  | .fin ng mm e => if mm = 0 then ⟨a, 0, false⟩ else f.round m.rm m.flushOut ng mm (e + n)

/-- a rounded to an integral value (R72). -/
def fpRnd (f : Fmt) (m : FMode) (a0 : Nat) : FRes :=
  let a := f.input m a0
  match f.val a with
  | .nan _ => ⟨nanOf f m [(f, a)], snanFlag [(f, a)], false⟩
  | .inf _ => ⟨a, 0, false⟩
  | .fin ng mm e =>
    if mm = 0 ∨ 0 ≤ e then ⟨a, 0, false⟩
    else
      let (q, inx) := roundShift m.rm ng mm (-e).toNat
      { f.round .rtz false ng q 0 with flags := if inx then flINX else 0 }

/-- The class bits of a code (R72). -/
def fpClass (f : Fmt) (a : Nat) : Nat :=
  match f.val a with
  | .nan _ => if f.isSNaN a then 1 else 2
  | .inf true => 4
  | .inf false => 2 ^ 9
  | .fin ng mm _ =>
    if mm = 0 then (if ng then 2 ^ 5 else 2 ^ 6)
    else if f.isSub a then (if ng then 2 ^ 4 else 2 ^ 7)
    else (if ng then 2 ^ 3 else 2 ^ 8)

/-- The outcome of `fcmp` and its flags (R73). -/
def fpCmp (f : Fmt) (m : FMode) (c : FCond) (a0 b0 : Nat) : Bool × Nat :=
  let a := f.input m a0
  let b := f.input m b0
  let un := f.isNaN a || f.isNaN b
  let lt := !un && ltV false (f.val a) (f.val b)
  let gt := !un && ltV false (f.val b) (f.val a)
  let eq := !un && !lt && !gt
  let sn := snanFlag [(f, a), (f, b)]
  let anyNaN := if un then flINV else 0
  match c with
  | .eq => (eq, sn)
  | .ne => (!eq, sn)
  | .lt => (lt, anyNaN)
  | .le => (lt || eq, anyNaN)
  | .gt => (gt, anyNaN)
  | .ge => (gt || eq, anyNaN)
  | .un => (un, sn)
  | .ord => (!un, sn)

/-- A conversion between two formats (R69 to R71, R74). -/
def fpConv (src dst : Fmt) (m : FMode) (a0 : Nat) : FRes :=
  let a := src.input m a0
  match src.val a with
  | .nan _ => ⟨nanOf dst m [(src, a)], snanFlag [(src, a)], false⟩
  | .inf ng => ⟨dst.infCode ng, 0, false⟩
  | .fin ng mm e => dst.round m.rm m.flushOut ng mm e

/-- FP32 to E4M3 (R74 codes 6 and 7): overflow saturates, or gives NaN when `toNaN`. -/
def fpE4m3 (m : FMode) (toNaN : Bool) (a0 : Nat) : FRes :=
  let a := Fmt.f32.input m a0
  let sat := fun ng => if toNaN then (if ng then 0xFF else 0x7F) else Fmt.e4m3.maxCode ng
  match Fmt.f32.val a with
  | .nan _ => ⟨nanOf .e4m3 m [(.f32, a)], snanFlag [(.f32, a)], false⟩
  | .inf ng => ⟨sat ng, if toNaN then flINV else flINX, false⟩
  | .fin ng mm e =>
    let r := Fmt.e4m3.round m.rm m.flushOut ng mm e
    if r.ovf then ⟨sat ng, flOVF + flINX, true⟩ else r

/-- A floating-point value to an integer of n bits, signed or not (R74 codes 11, 13, 15, 17). -/
def fpToInt (src : Fmt) (m : FMode) (sgn : Bool) (n : Nat) (a0 : Nat) : FRes :=
  let a := src.input m a0
  let lo : Int := if sgn then -(2 ^ (n - 1) : Int) else 0
  let hi : Int := if sgn then (2 ^ (n - 1) : Int) - 1 else (2 ^ n : Int) - 1
  match src.val a with
  | .nan _ => ⟨0, flINV, false⟩
  | .inf ng => ⟨wrap n (if ng then lo else hi), flINV, false⟩
  | .fin ng mm e =>
    let (q, inx) := if 0 ≤ e then (mm * 2 ^ e.toNat, false) else roundShift m.rm ng mm (-e).toNat
    let v := sgnM ng q
    if v < lo then ⟨wrap n lo, flINV, false⟩
    else if hi < v then ⟨wrap n hi, flINV, false⟩
    else ⟨wrap n v, if inx then flINX else 0, false⟩

/-- An integer to a floating-point value (R74 codes 12, 14, 16, 18). -/
def fpOfInt (dst : Fmt) (m : FMode) (v : Int) : FRes := dst.roundInt m.rm false false v 0

/-- FP32 to a uniform Q4 code (R74 code 19). -/
def fpToQ4 (m : FMode) (a0 : Nat) : FRes :=
  let a := Fmt.f32.input m a0
  match Fmt.f32.val a with
  | .nan _ => ⟨0, flINV, false⟩
  | .inf ng => ⟨if ng then 8 else 7, flINV, false⟩
  | .fin ng mm e =>
    let (q, inx) := if 0 ≤ e then (mm * 2 ^ e.toNat, false) else roundShift m.rm ng mm (-e).toNat
    let v := sgnM ng q
    if v < -8 then ⟨8, flOVF + flINX, true⟩
    else if 7 < v then ⟨7, flOVF + flINX, true⟩
    else ⟨wrap 4 v, if inx then flINX else 0, false⟩

/-- An FP32 code widened to FP64 with a signalling NaN unchanged (R268). -/
def widen32 (c : Nat) : Nat :=
  match Fmt.f32.val c with
  | .nan _ => (if Fmt.f32.neg c then 2 ^ 63 else 0) + 0x7FF * 2 ^ 52 + bits c 0 23 * 2 ^ 29
  | .inf ng => Fmt.f64.infCode ng
  | .fin ng mm e => (Fmt.f64.round .rne false ng mm e).code

/-- The integer square root of n, bit by bit from bit k down. -/
def isqrtFrom (n : Nat) : Nat → Nat → Nat
  | 0, r => r
  | k + 1, r => let t := r + 2 ^ k; isqrtFrom n k (if t * t ≤ n then t else r)

/-- The correctly rounded square root of a positive finite value (R75). -/
def fpSqrtFin (f : Fmt) (m : FMode) (mm : Nat) (e : Int) : FRes :=
  -- an even exponent and at least 2·(fb + 3) bits of radicand; a remainder becomes a sticky bit
  let e' := if e % 2 = 0 then e else e - 1
  let n := if e % 2 = 0 then mm else 2 * mm
  let sh := 2 * (f.fb + 4)
  let r := isqrtFrom (n * 2 ^ sh) (f.fb + 4 + 64) 0
  let sticky := if r * r = n * 2 ^ sh then 0 else 1
  f.round m.rm m.flushOut false (2 * r + sticky) (e' / 2 - (f.fb + 4 : Nat) - 1)

/-- Round32 of R92: one rounding to FP32 under RNE, subnormals kept, an exact zero +0. -/
def round32 (v : Int) (e : Int) : Nat := (Fmt.f32.roundInt .rne false false v e).code

end Sys2Proof.Machine
end

