-- ==== Sys2Proof/Machine/Record.lean ====
section
/-! DEFINITION. Bit fields of the records the device reads: launch and task records (R175, R184), buffer records (R123,
R124), table entries (R223), and the physical address map (R138). -/

namespace Sys2Proof.Machine

/-- Word i of a record, 0 beyond its end. -/
def wordAt (ws : List Nat) (i : Nat) : Nat := ws.getD i 0

/-! ## Launch and task records -/

namespace LaunchSt
def isTask (l : LaunchSt) : Bool := l.kind = .task
/-- Launch word 4, task word 3 (R184). -/
def decl (l : LaunchSt) : Nat := wordAt l.words (if l.isTask then 3 else 4)
/-- Launch word 5, task word 4. -/
def decl2 (l : LaunchSt) : Nat := wordAt l.words (if l.isTask then 4 else 5)
def entryPc (l : LaunchSt) : Nat := bits (wordAt l.words 0) 0 57
def args (l : LaunchSt) : Nat := bits (wordAt l.words 1) 0 57
def X (l : LaunchSt) : Nat := if l.isTask then 1 else bits (wordAt l.words 2) 0 32
def Y (l : LaunchSt) : Nat := if l.isTask then 1 else bits (wordAt l.words 2) 32 16 + 1
def Z (l : LaunchSt) : Nat := if l.isTask then 1 else bits (wordAt l.words 2) 48 16 + 1
/-- The fold (R20). -/
def M (l : LaunchSt) : Nat := 2 ^ bits (wordAt l.words (if l.isTask then 2 else 3)) 60 2
def N (l : LaunchSt) : Nat := if l.isTask then l.M else bits (wordAt l.words 3) 48 12 + 1
def B (l : LaunchSt) : Nat := l.N / l.M
def P (l : LaunchSt) : Nat := (if l.isTask then bits (wordAt l.words 2) 56 4 else bits (wordAt l.words 3) 44 4) + 1
def SX (l : LaunchSt) : Nat := if l.isTask then 1 else bits (wordAt l.words 3) 40 4 + 1
def SY (l : LaunchSt) : Nat := if l.isTask then 1 else bits (wordAt l.words 3) 36 4 + 1
def pri (l : LaunchSt) : Nat := bits (wordAt l.words (if l.isTask then 2 else 3)) 6 2
def flagBit (l : LaunchSt) (n : Nat) : Bool := !l.isTask && bits (wordAt l.words 3) n 1 == 1
def det (l : LaunchSt) : Bool := l.flagBit 0
def trace (l : LaunchSt) : Bool := l.flagBit 1
def indep (l : LaunchSt) : Bool := l.flagBit 2
def swapT (l : LaunchSt) : Nat := let t := bits l.decl 56 8; if t = 0 then 16 else t
def L (l : LaunchSt) : Nat := bits l.decl 36 13
def W (l : LaunchSt) : Nat := bits l.decl 30 6
def S (l : LaunchSt) : Nat := bits l.decl 25 5
def vmax (l : LaunchSt) : Nat := bits l.decl 14 7
def V (l : LaunchSt) : Nat := bits l.decl 7 7
def lslots (l : LaunchSt) : Nat := bits l.decl2 32 15
def scr (l : LaunchSt) : Nat := bits l.decl2 0 21
def pmap (l : LaunchSt) : Nat := if l.isTask then 0 else bits (wordAt l.words 6) 0 57
def traceBuf (l : LaunchSt) : Nat := bits (wordAt l.words 7) 0 57
def cwAddr (l : LaunchSt) : Nat := if l.isTask then 0 else bits (wordAt l.words 8) 0 57
def cwVal (l : LaunchSt) : Nat := wordAt l.words 9
/-- PARENT, or COMP of a task (R188). -/
def parent (l : LaunchSt) : Nat := bits (wordAt l.words (if l.isTask then 13 else 10)) 0 57
def swapBase (l : LaunchSt) : Nat := bits (wordAt l.words (if l.isTask then 14 else 11)) 0 57
def tag (l : LaunchSt) : Nat := wordAt l.words 15
def traced (l : LaunchSt) : Bool := l.trace
/-- Shared slots of a casement on its core, rounded as R30 says. -/
def scrBytes (l : LaunchSt) : Nat := (l.scr + 4095) / 4096 * 4096
def slotRun (l : LaunchSt) : Nat := (l.lslots + 63) / 64 * 64
def SA (l : LaunchSt) : Nat := (l.X + l.SX - 1) / l.SX
def SB (l : LaunchSt) : Nat := (l.Y + l.SY - 1) / l.SY
/-- The number of casements in the sash that holds grid column gx and row gy (R22). -/
def sashSize (l : LaunchSt) (gx gy : Nat) : Nat :=
  min l.SX (l.X - l.SX * (gx / l.SX)) * min l.SY (l.Y - l.SY * (gy / l.SY))
end LaunchSt

/-! ## Buffer records -/

/-- Field [lo + n - 1 : lo] of word w of a record register (R123). -/
def recBits (r : BitVec 256) (w lo n : Nat) : Nat := bits r.toNat (64 * w + lo) n

namespace BufRec
def base (r : BitVec 256) : Nat := recBits r 0 0 57
def at_ (r : BitVec 256) : Bool := recBits r 1 50 1 == 1
def wr (r : BitVec 256) : Bool := recBits r 1 49 1 == 1
def rd (r : BitVec 256) : Bool := recBits r 1 48 1 == 1
def stride (r : BitVec 256) : Nat := recBits r 1 0 32
def swC (r : BitVec 256) : Nat := recBits r 2 52 6
def swT (r : BitVec 256) : Nat := recBits r 2 58 6
def swz (r : BitVec 256) : Nat := recBits r 2 48 4
def extent (r : BitVec 256) : Nat := recBits r 2 0 48
def mstride (r : BitVec 256) : Nat := recBits r 3 16 32
def oob (r : BitVec 256) : Nat := recBits r 3 13 3
def mmode (r : BitVec 256) : Nat := recBits r 3 11 2
def rem (r : BitVec 256) : Bool := recBits r 3 10 1 == 1
def node (r : BitVec 256) : Nat := recBits r 3 0 10

/-- A malformed record (R124): also one with NODE ≠ 0 and REM = 0, which Table 2 forbids (DESIGN CHOICE, log entry 62: R124's
list does not name it). -/
def malformed (r : BitVec 256) : Bool :=
  recBits r 0 57 7 != 0 || recBits r 1 51 13 != 0 || recBits r 1 32 16 != 0 || recBits r 3 48 16 != 0 ||
  (!rem r && node r != 0) || decide (3 < swz r) || decide (2 < oob r) || decide (1 < mmode r) ||
  (swz r == 0 && recBits r 2 52 12 != 0) || (swz r != 0 && decide (47 < swC r)) ||
  (decide (2 ≤ swz r) && (decide (16 < swT r) || decide (swC r < swT r)))

/-- The reset record's four words joined. -/
def ofWords (w0 w1 w2 w3 : Nat) : BitVec 256 :=
  BitVec.ofNat 256 (w0 % 2 ^ 64 + 2 ^ 64 * (w1 % 2 ^ 64) + 2 ^ 128 * (w2 % 2 ^ 64) + 2 ^ 192 * (w3 % 2 ^ 64))
end BufRec

/-- The loop of HilbertIndex (R96) from side length 2·s down. -/
def hilbertLoop (n : Nat) : Nat → Nat → Nat → Nat → Nat → Nat
  | 0, _, _, _, d => d
  | f + 1, s, x, y, d =>
    if s = 0 then d else
    let rx := if x / s % 2 = 1 then 1 else 0
    let ry := if y / s % 2 = 1 then 1 else 0
    let d := d + s * s * ((3 * rx) ^^^ ry)
    let x1 := if ry = 0 ∧ rx = 1 then n - 1 - x else x
    let y1 := if ry = 0 ∧ rx = 1 then n - 1 - y else y
    if ry = 0 then hilbertLoop n f (s / 2) y1 x1 d else hilbertLoop n f (s / 2) x1 y1 d

/-- HilbertIndex of R96, for n a power of two up to 2^33. -/
def hilbertIndex (n x y : Nat) : Nat := hilbertLoop n 40 (n / 2) x y 0

/-- The Morton order of R126: bit b of x at bit 2b, of y at bit 2b + 1, for b < t. -/
def morton : Nat → Nat → Nat → Nat
  | 0, _, _ => 0
  | t + 1, x, y => x % 2 + 2 * (y % 2) + 4 * morton t (x / 2) (y / 2)

/-- Swizzle (R126 Table 3). -/
def swizzle (r : BitVec 256) (X : Nat) : Nat :=
  let C := 2 ^ BufRec.swC r
  let col := X % C
  let row := X / C
  let t := BufRec.swT r
  let T := 2 ^ t
  match BufRec.swz r with
  | 0 => X
  | 1 => row * C + (col ^^^ (row * 2 ^ t % C))
  | 2 => (row / T * (C / T) + col / T) * (T * T) + morton t (col % T) (row % T)
  | _ => (row / T * (C / T) + col / T) * (T * T) + hilbertIndex T (col % T) (row % T)

/-! ## Physical addresses -/

/-- What lies at a physical address (R138). -/
inductive Frame where
  | hbm (stack : Nat)
  | vault (g off : Nat)
  | info (off : Nat)
  | control (off : Nat)
  | cxl (port : Nat)
  | host
  | peer (node off : Nat)
  | none
deriving DecidableEq, Repr

/-- The frame of a physical address on this part (R138, R141). -/
def frameOf (d : DevSt) (pa : Nat) : Frame :=
  if pa < 2 ^ 39 then
    if pa % 2 ^ 36 < 976562 * 65536 then .hbm (pa / 2 ^ 36) else .none
  else if Config.vaultBase ≤ pa ∧ pa < Config.vaultBase + 2 ^ 29 then
    .vault ((pa - Config.vaultBase) / 2 ^ 24) ((pa - Config.vaultBase) % 2 ^ 24)
  else if Config.infoPage ≤ pa ∧ pa < Config.infoPage + 65536 then .info (pa - Config.infoPage)
  else if Config.controlBase ≤ pa ∧ pa < Config.controlBase + 2 ^ 30 then .control (pa - Config.controlBase)
  else if Config.cxlBase ≤ pa ∧ pa < Config.cxlBase + 2 ^ 43 then
    let e := (pa - Config.cxlBase) / 2 ^ 40
    match d.mapped.find? fun q => q.1 = e with
    | some (_, mib) => if (pa - Config.cxlBase) % 2 ^ 40 < mib * 2 ^ 20 ∧ !d.gone.contains e then .cxl e else .none
    | none => .none
  else if Config.hostBase ≤ pa ∧ pa < 2 ^ 47 then .host
  else if Config.peerBase ≤ pa ∧ pa < 2 ^ 52 then .peer (pa / 2 ^ 41 % 1024) (pa % 2 ^ 41)
  else .none

/-- A frame of this device's own memory (R133, R190). -/
def Frame.local : Frame → Bool
  | .hbm _ | .vault _ _ | .cxl _ => true
  | _ => false

/-- The home region of a local line (R133). -/
def homeRegion (pa : Nat) : Nat :=
  if Config.vaultBase ≤ pa ∧ pa < Config.vaultBase + 2 ^ 29 then (pa - Config.vaultBase) / 2 ^ 24
  else (List.range 7).foldl (fun h k => h ^^^ (pa / 2 ^ (6 + 5 * k) % 32)) 0

/-- The enabled cores, ascending (R11). -/
def DevSt.cores (d : DevSt) : List Nat := (List.range 128).filter fun c => bits d.enabled c 1 == 1

/-- NCORE (R12). -/
def DevSt.ncore (d : DevSt) : Nat := d.cores.length

/-- Mapped capacity in MiB, and DMAPB: the bytes of one dirty map (R12, R195). -/
def DevSt.cxlMib (d : DevSt) : Nat := (d.mapped.map Prod.snd).foldl (· + ·) 0

def DevSt.dmapBytes (d : DevSt) : Nat :=
  (2 ^ 27 + 2 ^ 17 + d.cxlMib * 256 + 7) / 8 |> fun n => (n + 4095) / 4096 * 4096

/-- The device information record (R12). -/
def DevSt.info (d : DevSt) : List Nat :=
  [d.step % 65536 * 65536 + Config.model, d.enabled % 2 ^ 64, d.enabled / 2 ^ 64,
    16384 * 2 ^ 48 + d.node * 2 ^ 32 + d.mapped.length * 2 ^ 24 + 32 * 2 ^ 16 + 8 * 2 ^ 8 + d.ncore,
    512 * 2 ^ 32 + 1050000, d.cxlMib, 64 * 65536 + 64, d.dmapBytes]

/-- The little-endian bytes of 64-bit words. -/
def bytesOf (ws : List Nat) : List Byte := ws.flatMap fun w => toBytes 8 w

/-- The tracking index of a local granule (R195). -/
def trackIndex (d : DevSt) (pa : Nat) : Nat :=
  if pa < 2 ^ 39 then pa / 4096
  else if pa < Config.cxlBase then 2 ^ 27 + (pa - Config.vaultBase) / 4096
  else
    let e := (pa - Config.cxlBase) / 2 ^ 40
    2 ^ 27 + 2 ^ 17 + ((d.mapped.filter fun q => q.1 < e).map fun q => q.2 * 256).foldl (· + ·) 0 +
      (pa - Config.cxlBase) % 2 ^ 40 / 4096

/-! ## Table entries -/

namespace Leaf
def pol (l : Leaf) : Nat := bits l.e 8 2
def ord (l : Leaf) : Bool := bits l.e 6 1 == 1
def trk (l : Leaf) : Bool := bits l.e 5 1 == 1
def ap (l : Leaf) : Nat := bits l.e 3 2
def x (l : Leaf) : Bool := bits l.e 2 1 == 1
def w (l : Leaf) : Bool := bits l.e 1 1 == 1
/-- log2 of the page size: 64 KiB, 2 MiB, 1 GiB (R222). -/
def shift (l : Leaf) : Nat := if l.lev = 0 then 16 else if l.lev = 1 then 21 else 30
def pa (l : Leaf) (va : Nat) : Nat := bits l.e 16 36 * 65536 + va % 2 ^ l.shift
end Leaf

/-- Shift(lev) of R222. -/
def walkShift : Nat → Nat
  | 0 => 16 | 1 => 21 | 2 => 30 | 3 => 39 | _ => 48

/-- ReservedBitsSet of R223. -/
def reservedSet (e : Nat) : Bool :=
  let size := bits e 10 2
  if size = 3 then bits e 52 12 != 0 || bits e 1 9 != 0
  else bits e 52 12 != 0 || bits e 12 4 != 0 || bits e 7 1 != 0 ||
    (size == 1 && bits e 16 5 != 0) || (size == 2 && bits e 16 14 != 0)

/-- What a walk gives (R222). -/
inductive WalkRes where
  | leaf (l : Leaf)
  | pageFault
  | fatal
deriving DecidableEq, Repr

/-- Walk from a level down (R222); `n` levels remain below this one. A table lies in this device's own memory (DEDUCED, log
entry 22). -/
def walkFrom (d : DevSt) (m : Memory) (va : Nat) : Nat → Nat → WalkRes
  | n, table =>
    let idx := va / 2 ^ walkShift n % (if n = 0 then 32 else 512)
    if !(frameOf d (table + 8 * idx)).local then .fatal else
    let e := m.readNat (table + 8 * idx) 8
    if reservedSet e then .fatal
    else if e % 2 = 0 then .pageFault
    else if bits e 10 2 = 3 then
      match n with
      | 0 => .fatal
      | k + 1 => walkFrom d m va k (bits e 12 40 * 4096)
    else if n ≤ 2 ∧ bits e 10 2 = n then .leaf ⟨e, n⟩
    else .fatal

/-- The walk of a context's tables (R222) (DEDUCED, log entry 22). -/
def walk (d : DevSt) (m : Memory) (ptroot va : Nat) : WalkRes :=
  if ptroot % 2 = 0 then .fatal else walkFrom d m va 4 (bits ptroot 12 40 * 4096)

end Sys2Proof.Machine
end

