-- ==== Sys2Proof/Machine/Ops.lean ====
section
/-! DEFINITION. The named operations over the state: looking things up, memory at the home, translation, fault rings, the
replay log, taking a trap and returning from one, termination, and the frame every instruction issues in. -/

namespace Sys2Proof.Machine

/-! ## Looking up and storing -/

def State.putUnit (s : State) (k : Nat) (v : UnitSt) : State := s.setUnits (s.units.put k v)
def State.putPane (s : State) (k : Nat) (v : PaneSt) : State := s.setPanes (s.panes.put k v)
def State.putCasement (s : State) (k : Nat) (v : CasementSt) : State := s.setCas (s.cas.put k v)
def State.putLaunch (s : State) (k : Nat) (v : LaunchSt) : State := s.setLaunches (s.launches.put k v)
def State.putCore (s : State) (k : Nat) (v : CoreSt) : State := s.setCores (s.cores.put k v)
def State.putCtx (s : State) (k : Nat) (v : CtxSt) : State := s.setCtxs (s.ctxs.put k v)
def State.putPend (s : State) (v : Pend) : State := s.setPend (s.pend.put v.id v)
def State.dropPend (s : State) (id : Nat) : State := s.setPend (s.pend.del id)

/-- A core's state; one that nothing has touched is as reset leaves it. -/
def State.core (s : State) (c : Nat) : CoreSt := s.cores.getD c .start
/-- The DGEN that reset gives a context (R195, R255): 48 drawn bits over 16 of zeros. -/
def State.resetDgen (s : State) (c : Nat) : Nat := (Config.dgenDraw (s.dev.dgenBase + c)).toNat * 2 ^ 16
/-- A context's state; an undefined context's registers read as reset (R249, R255). -/
def State.ctx (s : State) (c : Nat) : CtxSt := s.ctxs.getD c (.start (s.resetDgen c))
def State.wp (s : State) (g : Nat) : WpartSt := s.wpart.getD g ⟨0, false, 0⟩

def State.updUnit (s : State) (k : Nat) (f : UnitSt → UnitSt) : State :=
  match s.units.find k with
  | some u => s.putUnit k (f u)
  | none => s
def State.updPane (s : State) (k : Nat) (f : PaneSt → PaneSt) : State :=
  match s.panes.find k with
  | some p => s.putPane k (f p)
  | none => s
def State.updCas (s : State) (k : Nat) (f : CasementSt → CasementSt) : State :=
  match s.cas.find k with
  | some c => s.putCasement k (f c)
  | none => s
def State.updLaunch (s : State) (k : Nat) (f : LaunchSt → LaunchSt) : State :=
  match s.launches.find k with
  | some l => s.putLaunch k (f l)
  | none => s
def State.updCore (s : State) (k : Nat) (f : CoreSt → CoreSt) : State := s.putCore k (f (s.core k))
def State.updCtx (s : State) (k : Nat) (f : CtxSt → CtxSt) : State :=
  match s.ctxs.find k with
  | some c => s.putCtx k (f c)
  | none => s
def State.updDev (s : State) (f : DevSt → DevSt) : State := s.setDev (f s.dev)

/-- The value by which a register of a context acts in this ac: a write takes effect in the next (R60, R181, R195, R211). -/
def CtxSt.acting (c : CtxSt) (ix : Nat) (v : Word) : Word := c.was.getD ix v
/-- A register's value kept until the next ac, where it has not been written in this one. -/
def CtxSt.keep (c : CtxSt) (ix : Nat) (v : Word) : CtxSt := { c with was := c.was.put ix (c.acting ix v) }

/-- The next identity, taken (DESIGN CHOICE, log entry 1). -/
def State.fresh (s : State) : State × Nat := ({ s with nextId := s.nextId + 1 }, s.nextId)

/-- The live units of a pane, by identity. -/
def State.unitsOf (s : State) (pid : Nat) : List (Nat × UnitSt) := s.units.filter fun q => q.2.pane = pid
/-- The panes of a casement. -/
def State.panesOf (s : State) (cid : Nat) : List (Nat × PaneSt) := s.panes.filter fun q => q.2.cas = cid
/-- The casement a pane belongs to. -/
def State.casOfPane (s : State) (pid : Nat) : Option CasementSt :=
  (s.panes.find pid).bind fun p => s.cas.find p.cas
/-- The context a casement belongs to. -/
def State.ctxOfCas (s : State) (c : CasementSt) : Nat := ((s.launches.find c.lid).map LaunchSt.ctx).getD 0
/-- The launch of a pane. -/
def State.launchOfPane (s : State) (pid : Nat) : Option LaunchSt :=
  (s.casOfPane pid).bind fun c => s.launches.find c.lid
/-- The casements of a sash (R22). -/
def State.sashOf (s : State) (c : CasementSt) : List (Nat × CasementSt) :=
  s.cas.filter fun q => q.2.lid = c.lid ∧ q.2.sid = c.sid ∧ q.2.phase ≠ .retired

/-- A Nat as a 64-bit register value. -/
abbrev w64 (n : Nat) : Word := BitVec.ofNat 64 n

/-! ## Register copies -/

/-- The key of a register copy: code, and position, lane or 0. -/
abbrev rkey (code idx : Nat) : Nat := code * 256 + idx

/-- The literal of `lit`, as an instruction's operand value (R268 extends it). -/
def litVal : Opnd → Nat
  | .lit x => x.toNat
  | _ => 0

/-- The copy of an operand that position q reads (R24), a literal through `ext`. -/
def PaneSt.readAt (p : PaneSt) (ext : Nat → Word) (o : Opnd) (q : Nat) : Word :=
  match o with
  | .v n => Sparse.read p.regs (rkey n.val q)
  | .w n => Sparse.read p.regs (rkey (64 + n.val) (q % 32))
  | .s n => Sparse.read p.regs (rkey (96 + n.val) 0)
  | .zr => 0
  | .lit x => ext x.toNat

/-- A literal zero-extended (R268, every other use). -/
abbrev zext (x : Nat) : Word := w64 x
/-- A literal sign-extended (R268). -/
def sext (x : Nat) : Word := w64 (wrap 64 (signed 32 x))

/-- The copy of register code c that index q of its file names. -/
def copyIdx (code q : Nat) : Nat := if code < 64 then q else if code < 96 then q % 32 else 0

/-- One register copy written; `zr` and `lit` codes are discarded (R38). -/
def PaneSt.writeKey (p : PaneSt) (k : Nat) (v : Word) : PaneSt :=
  if k < 126 * 256 then { p with regs := Sparse.write p.regs k v } else p

/-- Register copies written in order. -/
def PaneSt.writeKeys (p : PaneSt) (ws : List (Nat × Word)) : PaneSt :=
  ws.foldl (fun p w => p.writeKey w.1 w.2) p

/-- A predicate's bits (R39). -/
def PaneSt.pred (p : PaneSt) (k : Nat) : Mask := Sparse.read p.preds k

/-- A predicate written at the positions of a mask. -/
def PaneSt.setPred (p : PaneSt) (k : Nat) (m v : Mask) : PaneSt :=
  { p with preds := Sparse.write p.preds k ((p.pred k &&& ~~~m) ||| (v &&& m)) }

/-- A buffer register. -/
def PaneSt.buf (p : PaneSt) (n : Nat) : BitVec 256 := Sparse.read p.bufs n

/-- Bits ORed into fstat (R43). -/
def PaneSt.orFstat (p : PaneSt) (f : Nat) : PaneSt := { p with fstat := p.fstat ||| w64 (f % 4096) }

/-- The indices an execution class executes for under a mask (R25). -/
def slotsOf (c : Cls) (E : Mask) : List Nat :=
  match c with
  | .vec => positions E
  | .shr => (List.range 32).filter fun l => (List.range 8).any fun m => bitAt E (posOf l m)
  | .sca => if E = 0 then [] else [0]

/-- The active positions an index of an execution class stands for. -/
def slotMask (c : Cls) (E : Mask) (q : Nat) : Mask :=
  match c with
  | .vec => maskOf [q] &&& E
  | .shr => maskOf ((List.range 8).map fun m => posOf q m) &&& E
  | .sca => E

/-! ## Poison (R240) -/

/-- The poison marks of a register copy cleared: all its bytes were written. -/
def State.cleanKey (s : State) (pid k : Nat) : State :=
  if s.poison.isEmpty then s else s.setPoison (s.poison.filter fun x => match x with
    | .reg p c i _ => !(p == pid && rkey c i == k)
    | _ => true)

/-- A register copy has a poisoned byte among its low n. -/
def State.keyPoisoned (s : State) (pid k n : Nat) : Bool :=
  s.poison.any fun x => match x with
    | .reg p c i b => p == pid && rkey c i == k && decide (b < n)
    | _ => false

/-- The 64-byte line of a physical address is poisoned. -/
def State.linePoisoned (s : State) (pa : Nat) : Bool :=
  s.poison.any fun x => match x with
    | .line a => a == pa / 64
    | _ => false

/-- The marks of a core's L1 lines removed: written whole, or no longer held (R240). -/
def State.cleanL1 (s : State) (core : Nat) (hit : Nat → Bool) : State :=
  if s.poison.isEmpty then s else s.setPoison (s.poison.filter fun x => match x with
    | .l1 c a => !(c == core && hit a)
    | _ => true)

/-- Marks added. -/
def State.addPoison (s : State) (xs : List Site) : State := s.setPoison (s.poison ++ xs)

/-! ## Memory at the home -/

/-- The dirty-map bit of a granule set in a context's current map (R160, R195, R196). -/
def State.markGranule (s : State) (ctx pa : Nat) : State :=
  let c := s.ctx ctx
  let dm := (c.acting 0x4D c.dmap).toNat
  if dm % 2 = 1 ∧ (frameOf s.dev pa).local then
    let i := trackIndex s.dev pa
    let a := bits dm 12 40 * 4096 + c.current * s.dev.dmapBytes + i / 8
    s.setMem (s.mem.writeByte a (s.mem.readByte a ||| BitVec.ofNat 8 (2 ^ (i % 8))))
  else s

/-- The granules of a chunk marked when its leaf tracks (R196). -/
def State.mark (s : State) (ctx : Nat) (trk : Bool) (pa n : Nat) : State :=
  if trk then
    let s := s.markGranule ctx pa
    if (pa + n - 1) / 4096 = pa / 4096 then s else s.markGranule ctx (pa + n - 1)
  else s

/-- Words of a span. -/
def wordsOfSpan (pa n : Nat) : List Nat := (List.range ((pa + n - 1) / 8 - pa / 8 + 1)).map fun k => pa / 8 + k

/-- The Lamport stamps that a message between a core and a home, and its answer, carry (R244). -/
def State.exchangeStamps (s : State) (core g : Nat) : State :=
  let l := max (s.core core).lamport (s.dev.homeLamport.getD g 0)
  if l = 0 then s
  else (s.updCore core fun c => { c with lamport := l }).updDev fun d => { d with homeLamport := d.homeLamport.put g l }

/-- The cores that own words of a span. -/
def State.ownersOf (s : State) (pa n : Nat) : List Nat := ((wordsOfSpan pa n).filterMap fun w => s.owner.find w).eraseDups

/-- Ownership of a span's words given up (R145): a recall changes no value, and the last owner's units see what its home has; it
carries stamps (R244). -/
def State.recall (s : State) (pa n : Nat) : State :=
  if s.owner.isEmpty then s else
  let s := (s.ownersOf pa n).foldl (fun s c => s.exchangeStamps c (homeRegion pa)) s
  (s.setOwner ((wordsOfSpan pa n).foldl (fun m w => Map.del m w) s.owner)).setShadows
    (s.shadows.filter fun x => !(decide (pa / 8 ≤ x.word) && decide (x.word ≤ (pa + n - 1) / 8)))

/-- A line's poison mark cleared where a write covers all its 64 bytes (R240). -/
def State.cleanLine (s : State) (pa n : Nat) : State :=
  if s.poison.isEmpty then s
  else if pa % 64 = 0 ∧ 64 ≤ n then s.setPoison (s.poison.filter fun x => match x with
    | .line a => !(decide (pa / 64 ≤ a) && decide (a < (pa + n) / 64))
    | _ => true)
  else s

/-- The lines of a span poisoned where poison is carried into them (R240). -/
def State.taintLines (s : State) (bad : Bool) (pa n : Nat) : State :=
  if bad then s.addPoison (((List.range ((pa + n - 1) / 64 - pa / 64 + 1)).map fun k => Site.line (pa / 64 + k)).filter
    fun x => !s.poison.contains x)
  else s

/-- A watched copy tested against its word (R373) (DEDUCED, log entry 25). -/
def Watch.test (w : Watch) (v : Nat) : Watch :=
  match w.found with
  | some _ => w
  | none => if v = w.expected then w else { w with found := some v }

/-- Every wait on a watched word re-tested after a write to it; one whose copies all have a value is due (R373) (DEDUCED, log
entry 25). -/
def State.retest (s : State) (pa n : Nat) : State :=
  if s.pend.any fun q => match q.2.work with
    | .wadr ws => ws.any fun w => w.pa.any fun a => decide (a < pa + n) && decide (pa < a + 8)
    | _ => false
  then s.setPend (s.pend.map fun q => match q.2.work with
    | .wadr ws =>
      let ws' := ws.map fun w => match w.pa with
        | some a => if a < pa + n ∧ pa < a + 8 then w.test (s.mem.readNat a 8) else w
        | none => w
      (q.1, { q.2 with
        work := .wadr ws'
        held := !ws'.all fun w => w.found.isSome
        due := s.now + 42 })
    | _ => q)
  else s

/-- A write performed at the home (R144): bytes, dirty bit and ownership in one step (R160); watched words re-tested. -/
def State.homeWrite (s : State) (ctx : Nat) (c : Chunk) : State :=
  let s := (s.recall c.pa c.size).cleanLine c.pa c.size
  (((s.setMem (s.mem.writeNat c.pa c.size c.data)).taintLines c.bad c.pa c.size).mark ctx c.trk c.pa c.size).retest
    c.pa c.size

/-- Writes performed in order. -/
def State.homeWrites (s : State) (ctx : Nat) (cs : List Chunk) : State := cs.foldl (fun s c => s.homeWrite ctx c) s

/-- The bytes of the device-information page and the control windows, which no write reaches (R12, R173). -/
def infoByte (d : DevSt) (off : Nat) : Byte := (bytesOf d.info).getD off 0

/-- The value of n bytes at the home (R144): memory, or the information page. -/
def State.homeRead (s : State) (pa n : Nat) : Nat :=
  match frameOf s.dev pa with
  | .info off => ofBytes ((List.range n).map fun k => infoByte s.dev (off + k))
  | _ => s.mem.readNat pa n

/-! ## Translation (R222 to R225) -/

/-- The kind of an access to translate. -/
inductive AccKind where
  | read | write | atomic | fetch
deriving DecidableEq, Repr

/-- The outcome of translating one address. -/
inductive Xlate where
  | ok (pa : Nat) (l : Leaf)
  | pageFault (reason : Nat)
  | trap (cause : Nat)
deriving DecidableEq, Repr

def causePROT : Nat := 0x08
def causeFATAL : Nat := 0x1A
def causeVAULT : Nat := 0x19

/-- Table 3 of R224 for a leaf, before the placement of atomics, which their own rules refuse (DEDUCED, log entry 22). -/
def judge (d : DevSt) (l : Leaf) (k : AccKind) (va : Nat) : Xlate :=
  let pa := l.pa va
  match frameOf d pa with
  | .none => .trap causeFATAL
  | f =>
    if (k = .write ∨ k = .atomic) ∧ !l.w then .pageFault 1
    else if k = .fetch ∧ !l.x then .pageFault 2
    else if l.ap = 3 then .trap causePROT
    else match f with
      | .control _ => .trap causePROT
      | .info _ => if k = .write ∨ k = .atomic then .trap causePROT else .ok pa l
      | _ => .ok pa l

/-- The key of a cached translation. -/
def tlbKey (ctx va : Nat) : Nat := ctx * 2 ^ 41 + va / 65536

/-- One address translated under a context: a cached entry that allows the access is used; any other is walked afresh
(R225). -/
def State.xlate (s : State) (ctx : Nat) (k : AccKind) (va : Nat) : Xlate :=
  let fresh := match walk s.dev s.mem (s.ctx ctx).ptroot.toNat va with
    | .leaf l => judge s.dev l k va
    | .pageFault => .pageFault 0
    | .fatal => .trap causeFATAL
  if (s.ctx ctx).ptroot.toNat % 2 = 0 then .trap causeFATAL
  else match s.tlb.find (tlbKey ctx va) with
    | some e => match judge s.dev ⟨e / 4, e % 4⟩ k va with
      | .ok pa l => .ok pa l
      | _ => fresh
    | none => fresh

/-- A translation that succeeded enters the caches (R225). -/
def State.cache (s : State) (ctx va : Nat) (l : Leaf) : State :=
  s.setTlb (s.tlb.put (tlbKey ctx va) (l.e * 4 + l.lev))

/-- Every cached translation of a context dropped (R225). -/
def State.invalidate (s : State) (ctx : Nat) : State :=
  s.setTlb (s.tlb.filter fun q => decide (q.1 / 2 ^ 41 ≠ ctx))

/-- A vault offset against its region's VW (R136): beyond it VAULT, being converted a wait. -/
def State.vaultCheck (s : State) (g off : Nat) : Except Bool Unit :=
  let w := s.wp g
  if w.busy ∧ w.old * 2 ^ 20 ≤ off ∧ off < w.vw * 2 ^ 20 then .error true
  else if w.vw * 2 ^ 20 ≤ off then .error false
  else .ok ()

/-- A place is in a vault range being converted (R136). -/
def State.converting (s : State) (pa : Nat) : Bool :=
  match frameOf s.dev pa with
  | .vault g off => match s.vaultCheck g off with
    | .error true => true
    | _ => false
  | _ => false

/-- A place the context access unit reaches (R9, R136): this device's own memory within VW, or the information page. -/
def State.devReaches (s : State) (pa : Nat) : Bool :=
  match frameOf s.dev pa with
  | .vault g off => match s.vaultCheck g off with
    | .error false => false
    | _ => true
  | .info _ => true
  | f => f.local

/-- The device's own access to a context's memory (R9): a failure raises nothing, and no page fault is serviced. -/
def State.devXlate (s : State) (ctx : Nat) (k : AccKind) (va : Nat) : Option (Nat × Leaf) :=
  match s.xlate ctx k va with
  | .ok pa l => if s.devReaches pa then some (pa, l) else none
  | _ => none

/-- What the home gives the device: a range being converted reads 0, as it does once the wait is over (R136). -/
def State.devHome (s : State) (pa n : Nat) : Nat := if s.converting pa then 0 else s.homeRead pa n

/-- The owner of the words the device reads is recalled, as by any `.dev` read (R9, R145). -/
def State.devRecall (s : State) (ctx va n : Nat) : State :=
  match s.devXlate ctx .read va with
  | some (pa, _) => s.recall pa n
  | none => s

/-- A little-endian number at a virtual address of a context, byte by byte across pages. -/
def State.devRead (s : State) (ctx va : Nat) : Nat → Option Nat
  | 0 => some 0
  | n + 1 =>
    match s.devXlate ctx .read va with
    | none => none
    | some (pa, _) => (State.devRead s ctx (va + 1) n).map fun r => s.devHome pa 1 + 256 * r

/-- n bytes read eight at a time where the span does not cross a page. -/
def State.devReadWord (s : State) (ctx va : Nat) : Option Nat :=
  match s.devXlate ctx .read va with
  | none => none
  | some (pa, _) => some (s.devHome pa 8)

/-- The core number that stands for the context access unit in work in flight (R9). -/
def accessUnit : Nat := 128

/-- A device write that waits for a vault conversion put in flight (R136). -/
def State.devLater (s : State) (ctx : Nat) (c : Chunk) : State :=
  let (s, id) := s.fresh
  s.putPend ⟨id, 0, 0, ctx, accessUnit, 0, .other, 0, s.now, s.now, false, 0, .write [c]⟩

/-- A device write of n bytes that do not cross a page, as a `.dev` store; none where it does not translate. -/
def State.devWrite (s : State) (ctx va n v : Nat) (marks : Bool) : Option State :=
  match s.devXlate ctx .write va with
  | none => none
  | some (pa, l) =>
    let c : Chunk := ⟨pa, va, n, v, marks && l.trk, false⟩
    some (if s.converting pa then s.devLater ctx c else s.homeWrite ctx c)

/-! ## Fault rings (R228, R229) -/

/-- The descriptor's address, 0 for none (R228). -/
def CtxSt.desc (c : CtxSt) : Nat := bits c.fring.toNat 6 51 * 64

/-- Four words of a record at a ring position; none where descriptor or slot does not translate as writable. -/
def State.ringPut (s : State) (ctx : Nat) (ws : List Nat) : Option State :=
  let d := (s.ctx ctx).desc
  let s := s.devRecall ctx d 64
  if d = 0 then none
  else match s.devXlate ctx .write d, s.devReadWord ctx d, s.devReadWord ctx (d + 8), s.devReadWord ctx (d + 16) with
    | some _, some rb, some rl, some prod =>
      let a := bits rb 12 45 * 4096 + 32 * (prod % 2 ^ bits rl 0 5)
      match s.devWrite ctx a 32 (ofBytes (bytesOf ws)) true with
      | none => none
      | some s' => s'.devWrite ctx (d + 16) 8 ((prod + 1) % 2 ^ 64) true
    | _, _, _, _ => none

/-- The ring is full: PROD − CONS = 2^RLOG (R229) (DEDUCED, log entry 41). -/
def State.ringFull (s : State) (ctx : Nat) : Bool :=
  let d := (s.ctx ctx).desc
  match s.devReadWord ctx (d + 8), s.devReadWord ctx (d + 16), s.devReadWord ctx (d + 24) with
  | some rl, some prod, some cons => d != 0 && (prod + 2 ^ 64 - cons) % 2 ^ 64 == 2 ^ bits rl 0 5
  | _, _, _ => false

/-- A record of a type other than a page fault: written, dropped with DROPS incremented when the ring is full; none where
the context must terminate (R228, R229) (DEDUCED, log entry 41). -/
def State.ringRecord (s : State) (ctx : Nat) (ws : List Nat) : Option State :=
  if s.ringFull ctx then
    let s := s.devRecall ctx (s.ctx ctx).desc 64
    match s.devReadWord ctx ((s.ctx ctx).desc + 40) with
    | some dr => s.devWrite ctx ((s.ctx ctx).desc + 40) 8 ((dr + 1) % 2 ^ 64) true
    | none => none
  else s.ringPut ctx ws

/-! ## Termination (R61, R232) -/

/-- A piece of work belongs to a context. -/
def Pend.ofCtx (p : Pend) (ctx : Nat) : Bool :=
  p.ctx == ctx && (match p.work with
    | .convert .. => false
    | .frozenClear .. => false
    | _ => true)

/-- A casement that occupies its footprint. -/
def CasementSt.resident (c : CasementSt) : Bool :=
  c.phase = .resident || c.phase = .stopping || c.phase = .saving || c.phase = .resuming

/-- The vector-file bytes that panes of a list hold on a core (R46). -/
def State.vectorBytes (s : State) (pids : List Nat) (core : Nat) : Nat :=
  ((s.panes.filter fun q => pids.contains q.1 && !q.2.out).map fun q => match s.cas.find q.2.cas with
    | some c => if c.core = core ∧ c.resident then q.2.vcnt * 256 * ((s.launches.find c.lid).map LaunchSt.M).getD 1 else 0
    | none => 0).foldl (· + ·) 0

/-- A core with vector-file room freed in this ac (R46): it counts from the next. -/
def State.roomFreed (s : State) (core n : Nat) : CoreSt :=
  let c := s.core core
  if n = 0 then c else { c with roomAt := s.now, freed := (if c.roomAt = s.now then c.freed else 0) + n }

/-- Address of one of a context's two dirty maps (R195). -/
def State.mapBase (s : State) (ctx k : Nat) : Nat :=
  bits (s.ctx ctx).dmap.toNat 12 40 * 4096 + k * s.dev.dmapBytes

/-- Conflict registrations without those of some casements (R99). -/
def unregistered (cids : List Nat) (ds : Map (List Nat)) : Map (List Nat) :=
  (ds.map fun q => (q.1, q.2.filter fun c => !cids.contains c)).filter fun q => q.2 ≠ []

/-- Everything of a context that runs or waits discarded: residency, queued work, tasks, work in flight (R61). -/
def State.discard (s : State) (ctx : Nat) : State :=
  let lids := (s.launches.filter fun q => q.2.ctx = ctx).map Prod.fst
  let cids := (s.cas.filter fun q => lids.contains q.2.lid).map Prod.fst
  let pids := (s.panes.filter fun q => cids.contains q.2.cas).map Prod.fst
  let frozen := (s.ctx ctx).frozen.isSome
  let (s, id) := s.fresh
  { s with
    units := s.units.filter fun q => !pids.contains q.2.pane
    panes := s.panes.filter fun q => !pids.contains q.1
    cas := s.cas.filter fun q => !cids.contains q.1
    launches := s.launches.filter fun q => !lids.contains q.1
    dets := unregistered cids s.dets
    pend := (if frozen then Map.put (s.pend.filter fun q => !q.2.ofCtx ctx) id
        ⟨id, 0, 0, ctx, 0, 0, .other, 0, s.now, s.now + 1, false, 0, .frozenClear ctx (s.mapBase ctx (1 - (s.ctx ctx).current))⟩
      else s.pend.filter fun q => !q.2.ofCtx ctx)
    poison := s.poison.filter fun x => match x with
      | .reg p _ _ _ => !pids.contains p
      | .lane p _ _ => !pids.contains p
      | .scratch c _ => !cids.contains c
      | .limb c _ _ => !cids.contains c
      | _ => true
    cores := s.cores.map fun q => (q.1, { s.roomFreed q.1 (s.vectorBytes pids q.1) with
      engQ := q.2.engQ.filter fun o => !pids.contains o.pane
      table := q.2.table.filter fun b => b.ctx != ctx
      slices := q.2.slices.del ctx
      baton := if (q.2.baton.map pids.contains).getD false then none else q.2.baton
      freedAt := if (q.2.baton.map pids.contains).getD false then s.now else q.2.freedAt })
    ctxs := s.ctxs.map fun q => if q.1 = ctx then
      (q.1, { q.2 with
        faults := []
        replies := 0
        reserved := 0
        heldBinds := []
        tracer := none
        clearing := frozen || q.2.clearing
        frozen := none }) else q }

/-- A context terminated with a cause (R61, R232): its TYPE 0x05 record, where its ring takes one, then the discard (DEDUCED,
log entry 18). -/
def State.terminate (s : State) (ctx cause epc : Nat) : State :=
  ((s.ringRecord ctx [0x05 * 2 ^ 56 + cause % 256, epc, 0, 0]).getD s).discard ctx

/-- A record that must be written, or the context terminates without one (R228, R229). -/
def State.record (s : State) (ctx : Nat) (ws : List Nat) : State :=
  match s.ringRecord ctx ws with
  | some s' => s'
  | none => s.discard ctx

/-! ## The replay log (R243 to R245) -/

def CtxSt.logNext (c : CtxSt) : Nat := bits c.logc.toNat 32 32
def CtxSt.logOn (c : CtxSt) : Bool := c.logc.toNat % 2 == 1
def CtxSt.logFlag (c : CtxSt) (n : Nat) : Bool := c.logOn && bits c.logc.toNat n 1 == 1

/-- Room for n more entries beside those reserved (R245). -/
def CtxSt.logRoom (c : CtxSt) (n : Nat) : Bool :=
  decide (c.logNext + c.reserved + n ≤ bits c.loglim.toNat 0 32)

/-- One entry written by a core, or by the management core (255): its Lamport stamp, evs, and NEXT advanced (R243, R244). -/
def State.logEntry (s : State) (ctx core type w2 w3 : Nat) : State :=
  let c := s.ctx ctx
  if !c.logOn then s else
  let lam := (if core = 255 then s.dev.lamport else (s.core core).lamport) + 1
  let evs := if core = 255 then 0 else (s.core core).evs + 1
  let a := bits c.logbase.toNat 12 45 * 4096 + 32 * c.logNext
  let s1 := (s.devWrite ctx a 32 (ofBytes (bytesOf
    [type * 2 ^ 56 + core % 256 * 2 ^ 48 + evs % 2 ^ 48, lam, w2, w3])) false).getD s
  let s2 := if core = 255 then s1.updDev fun d => { d with lamport := lam }
    else s1.updCore core fun k => { k with lamport := lam, evs := evs }
  s2.updCtx ctx fun c => { c with logc := w64 (c.logc.toNat + 2 ^ 32) }

/-! ## Traps (R231 to R235) -/

/-- A raised cause with its fields; `deferred` names the word where it is not the issuing one. -/
structure Trap where
  cause : Nat
  mask : Mask
  efd : Nat := 0
  efa : Nat := 0
  efb : Nat := 0
  eaddr : Nat := 0
  erem : Nat := 0
  word : Option Nat := none
deriving DecidableEq, Repr

/-- The user causes of Table 17 (R247). -/
def userCause (c : Nat) : Bool := [1, 2, 4, 5, 6, 7, 9, 10, 11, 0x10, 0x11, 0x15, 0x16, 0x17, 0x18].contains c

/-- The rank of a cause (R234). -/
def rankOf (c : Nat) : Nat :=
  match c with
  | 0x02 => 1 | 0x01 => 2 | 0x03 => 3 | 0x18 => 4 | 0x16 => 4 | 0x06 => 5 | 0x17 => 6 | 0x05 => 7 | 0x04 => 8
  | 0x07 => 9 | 0x09 => 9 | 0x0E => 10 | 0x08 => 11 | 0x19 => 11 | 0x10 => 11 | 0x1A => 12 | 0x0F => 13
  | 0x0A => 14 | 0x0B => 14 | 0x15 => 16 | _ => 15

/-- epc as Table 9 lays it out (R233) (DEDUCED, log entry 18). -/
def epcOf (pc idx : Nat) : Nat := idx % 16 * 2 ^ 59 + pc % 2 ^ 57

/-- The unit inside a supervisor handler or the save routine (R232). -/
def Level.inSup : Level → Bool
  | .sup | .nested | .watchdog | .save | .resume => true
  | _ => false

/-- The e-registers of a delivery (R233): erem keeps its value but for REMOTE and RTIMEOUT. -/
def UnitSt.eregs (u : UnitSt) (t : Trap) (word epc : Nat) (nest : Bool) : UnitSt :=
  { u with
    ecause := w64 (t.cause + (if nest then 256 else 0))
    epc := w64 epc
    ecw := w64 word
    efd := w64 t.efd
    efa := w64 t.efa
    efb := w64 t.efb
    eaddr := w64 t.eaddr
    erem := if t.cause = 0x0A ∨ t.cause = 0x0B then w64 t.erem else u.erem
    emask := t.mask }

/-- A unit sent to an address: the clause there is entered afresh. -/
def UnitSt.goTo (u : UnitSt) (pc idx : Nat) : UnitSt :=
  { u with pc := pc % 2 ^ 57, idx := idx, words := [], entered := false, park := .ready, released := false }

/-- TAKING A TRAP: the one operation by which a raised cause reaches its handler (R231 to R233). The e-registers are
written, then the unit goes to uhv in user mode, or to phv in supervisor mode, or the context terminates (DEDUCED, log entry
54). -/
def State.deliver (s : State) (uid : Nat) (t : Trap) (word epc : Nat) : State :=
  match s.units.find uid with
  | none => s
  | some u =>
    match s.panes.find u.pane with
    | none => s
    | some p =>
      let ctx := ((s.launchOfPane u.pane).map LaunchSt.ctx).getD 0
      let c := s.ctx ctx
      let nest := userCause t.cause && decide (u.level = .user)
      let u' := u.eregs t word epc nest
      if u.level.inSup ∨ (t.cause = 0x0F ∧ bits c.ctxcfg.toNat 1 1 = 1) then s.terminate ctx t.cause epc
      else if userCause t.cause ∧ u.level = .none ∧ p.uhv ≠ 0 ∧ bits c.ctxcfg.toNat 0 1 = 0 then
        s.putUnit uid ({ u' with level := .user, sup := false }.goTo p.uhv.toNat 0)
      else if c.phv = 0 then s.terminate ctx t.cause epc
      else
        let lv : Level := if t.cause = 0x0C ∨ t.cause = 0x0D then .watchdog
          else if u.level = .user then .nested else .sup
        s.putUnit uid ({ u' with level := lv, sup := true }.goTo c.phv.toNat 0)

/-- A cause raised to a unit before its next instruction (R164, R230). -/
def State.deferTrap (s : State) (uid word : Nat) (t : Trap) : State :=
  s.updUnit uid fun u => { u with defer := u.defer ++ [⟨t.cause, word, t.efd, t.eaddr, t.mask, t.erem, s.now⟩] }

/-- The end of a clause (R263): with SW every result is covered and the unit parks until its counts are 0. -/
def UnitSt.endClause (u : UnitSt) (pc now : Nat) (idx : Nat := 0) : UnitSt :=
  let u' := u.goTo pc idx
  if bits u.hdr.toNat 24 1 = 1 then { u' with uncov := [], park := .wait .drain, parkedAt := now } else u'

/-- The level and mode that leaving a handler returns to (R309 Table 1). -/
def Level.back : Level → Level
  | .nested => .user
  | _ => .none

/-- RETURNING FROM A TRAP to epc (R233, R309): the innermost level left, user mode, and the clause at epc entered at
word IDX; as a taken transfer it ends its clause (R263). The levels that do not return so (none, watchdog, save, resume) are the
meaning of `eret`'s. -/
def State.leaveHandler (s : State) (uid : Nat) : State :=
  s.updUnit uid fun u =>
    { u with level := u.level.back, sup := false }.endClause (u.epc.toNat % 2 ^ 57) s.now (bits u.epc.toNat 59 4)

/-! ## The frame of an issuing instruction -/

/-- What an instruction sees: the chosen unit, its pane, casement and launch. -/
structure View where
  s : State
  uid : Nat
  u : UnitSt
  pid : Nat
  p : PaneSt
  cid : Nat
  ca : CasementSt
  l : LaunchSt
deriving DecidableEq, Repr

namespace View
/-- The effective mask E: the unit's xm (R25). -/
abbrev E (v : View) : Mask := v.u.xm
abbrev M (v : View) : Nat := v.l.M
abbrev ctx (v : View) : Nat := v.l.ctx
abbrev core (v : View) : Nat := v.ca.core
/-- The unit's mask is not the whole of its pane's positions (R49). -/
def notFull (v : View) : Bool := v.u.xm != fullMask v.l.M
end View

/-- The view of the unit the issue port has chosen. -/
def State.view (s : State) : Option View :=
  match s.cur with
  | none => none
  | some uid =>
    match s.units.find uid with
    | none => none
    | some u =>
      match s.panes.find u.pane with
      | none => none
      | some p =>
        match s.cas.find p.cas with
        | none => none
        | some ca =>
          match s.launches.find ca.lid with
          | none => none
          | some l => some ⟨s, uid, u, u.pane, p, p.cas, ca, l⟩

/-- What a meaning ends in. -/
inductive Act where
  /-- Done: the unit goes on past the instruction. -/
  | next (s : State)
  /-- A taken transfer to a clause address (R51). -/
  | jump (s : State) (pc : Nat)
  /-- The meaning has placed the unit itself. -/
  | placed (s : State)
  /-- A structural wait: the unit parks and the instruction issues afresh. -/
  | wait (s : State) (w : Wait)
  /-- A precise trap on the given state. -/
  | trap (s : State) (t : Trap)
deriving DecidableEq, Repr

/-- The operands named, in the order destinations, sources, each register of a group. -/
def namedCodes (i : Instr) : List Nat :=
  (i.named.dst ++ i.named.src).flatMap fun g =>
    if g.1.isReg then (List.range g.2).map fun k => g.1.code + k else []

/-- A register code outside the pane's declaration (R39). -/
def undeclared (p : PaneSt) (l : LaunchSt) (c : Nat) : Bool :=
  if c < 64 then decide (p.vcnt ≤ c) else if c < 96 then decide (64 + l.W ≤ c) else decide (96 + l.S ≤ c)

/-- Majors 0x26 to 0x29, `rqt`, `smv`, `smvw`, `qw`: PARTIAL under a mask that is not full (R49). -/
def needsFull : Instr → Bool
  | .mld .. | .mldSb .. | .mst .. | .mstSb .. | .mmd .. | .mms .. | .mmh .. | .mmf .. | .mmi .. | .mmq .. | .mscl ..
  | .manc .. | .macz .. | .maczF32 .. | .mdrn .. | .mtlIn .. | .mtlOut .. | .mtlSb .. | .mflg .. | .mtake | .mpass _
  | .mpassFree | .rqt .. | .smv .. | .smvw .. | .qw .. => true
  | _ => false

/-- A privileged index or instruction (R41, R238): the index PRIV presents. -/
def privIndex : Instr → Option Nat
  | .srd _ i => if 0x40 ≤ i then some i else none
  | .swr i _ => if 0x40 ≤ i then some i else none
  | .ptrootWrite _ => some 0x4B
  | .wpartWrite g _ => some (0x60 + g)
  | .dmapEnable _ | .dmapDisable _ => some 0x4D
  | .psavePane .. | .psaveMx .. | .psaveLx .. | .prestPane .. | .prestMx .. | .prestLx .. => some 0
  | _ => none

/-- Instructions that act on the unit whatever its mask (R51 to R57, R148, R163, R236, R45, R170, R214, R202). -/
def actsEmpty : Instr → Bool
  | .bany .. | .ball .. | .jmp _ | .call _ | .bdiv .. | .bmw .. | .rcv _ | .bsaFull .. | .bsaRoom .. | .join | .ret
  | .jmpi _ | .calli _ | .exit | .nop | .trap _ | .sys _ | .eret | .brk | .acq | .rel | .fence | .bar | .sbar
  | .xmld _ | .xmst _ | .xmand _ | .pset _ | .pclr _ | .pand .. | .por .. | .pxor .. | .pandn ..
  | .cseal | .cwait _ | .sfw _ | .sawt .. | .vgrow _ | .vshr _ | .tyld | .trecWide | .prestPane .. => true
  | _ => false

/-- efd of ILLEGAL and HEADER (R235, R282). -/
def decodedFields (w : W32) (reason idx : Nat) (hdr : W32) : Nat :=
  reason * 2 ^ 56 + bits w.toNat 26 6 * 2 ^ 50 + formatOf (majorOf w) * 2 ^ 47 + functionOf w * 2 ^ 40 +
    idx % 16 * 2 ^ 36 + hdr.toNat

/-- The word a unit is about to issue. -/
def UnitSt.word (u : UnitSt) : W32 := u.words.getD (u.idx - 1) 0

/-- The clause words after the one that issues. -/
def UnitSt.rest (u : UnitSt) : List W32 := u.words.drop u.idx

/-- The ILLEGAL trap of the unit's word with a reason (R235): efa carries the literal word. -/
def illegalTrap (v : View) (reason : Nat) (namesLit : Bool) : Trap :=
  { cause := 1
    mask := v.E
    efd := decodedFields v.u.word reason v.u.idx v.u.hdr
    efa := if namesLit then 2 ^ 32 + (v.u.rest.headD 0).toNat else 0
    efb := bits v.u.word.toNat 0 26 }

/-- ILLEGAL with a reason from an instruction's own meaning. -/
def View.illegal (v : View) (i : Instr) (reason : Nat) : Act := .trap v.s (illegalTrap v reason i.namesLit)

/-- A cause with no fields but its mask. -/
def View.raise (v : View) (cause : Nat) (mask : Mask) (efd eaddr : Nat) : Act :=
  .trap v.s { cause := cause, mask := mask, efd := efd, eaddr := eaddr }

/-- Kind number of HAZARD (R235). -/
def Kind.hazard : Kind → Nat
  | .load => 0 | .matrix => 1 | .token => 2 | _ => 3

/-- A memory instruction's results reach a register code, or a buffer register (code 128 + n). -/
def MemReq.reaches (r : MemReq) (c : Nat) : Bool :=
  (r.accs.any fun a => a.keys.any fun k => k / 256 == c) || (decide (128 ≤ c) && r.op == .bset (c - 128))

/-- A pending result of another unit of the pane on a shared or scalar register (R265), or on a buffer register (R297). -/
def otherPending (v : View) (c : Nat) : Option (Nat × Nat) :=
  if c < 64 then none else
  (v.s.pend.vals.find? fun q => q.pane == v.pid && q.uid != v.uid && (match q.work with
    | .regs ws bufs _ _ => (ws.any fun w => w.1 / 256 == c) || bufs.any fun b => 128 + b.1 == c
    | .logged r _ => r.reaches c
    | .reads r _ => r.reaches c
    | .remote r _ => r.reaches c
    | .wadr ws => ws.any fun w => w.key / 256 == c
    | _ => false)).map fun q => (q.kind.hazard, q.clause)

/-- The first hazard on a register code: an uncovered result of the unit, a busy token's destination, or another unit's
pending shared or scalar result (R264, R265, R170). -/
def hazardOn (v : View) (c : Nat) : Option (Nat × Nat × Nat) :=
  match v.u.uncov.find? fun q => q.code = c with
  | some q => some (c, q.kind.hazard, q.clause)
  | none =>
    match v.p.tokens.vals.find? fun t => t.code = c with
    | some t => some (c, 2, t.clause)
    | none => (otherPending v c).map fun q => (c, q.1, q.2)

/-- The codes whose results a hazard may hold: registers and buffer registers (R264, R297). -/
def hazardCodes (i : Instr) : List Nat := namedCodes i ++ i.named.bufs.map fun n => 128 + n

/-- The low bytes of a source copy that `fcvt` reads: min(64 / sw, 64 / dw) sub-elements of it (R315). -/
def cvtBytes : CvtCode → Nat
  | .f64f32 | .f32bf16 | .f32f16 | .f32i8x8 => 4
  | .f32e4m3 | .f32e5m2 => 2
  | _ => 8

/-- The low bytes of an operand's copies that an instruction uses, for poison (R240): sub-element [0] of comparisons and pivot
searches, the field selector of bit fields, the sources of widening conversions, an element of stored or atomic data. -/
def usedBytes (i : Instr) (o : Opnd) : Nat :=
  match i with
  | .icmp _ w _ _ _ => match w with | .i64 => 8 | .i32 => 4 | .i16 => 2 | .i8 => 1
  | .fcmp _ t _ _ _ => match t with | .f64 => 8 | .f32 => 4 | _ => 2
  | .ibfx _ a b | .ibfxS _ a b => if o = b ∧ o ≠ a then 2 else 8
  | .ibfi d a b => if o = b ∧ o ≠ a ∧ o ≠ d then 2 else 8
  | .fcvt c _ _ => cvtBytes c
  | .sfw _ => 2
  | .st _ mw d x _ _ | .sts _ mw d x | .stl _ mw d x => if o = d ∧ o ≠ x then mw.bytes else 8
  | .atom _ t d x _ _ => if o = d ∧ o ≠ x then (match t with | .i32 | .f32 => 4 | _ => 8) else 8
  | .atom2 _ d x _ _ => if o = d ∧ o ≠ x then 4 else 8
  | .pvsel f32 _ a b => if f32 ∧ o = a ∧ o ≠ b then 4 else 8
  | _ => 8

/-- The active positions whose source copies hold a poisoned byte, with the first code (R240). -/
def poisonedReads (v : View) (i : Instr) : List (Nat × Mask) :=
  if v.s.poison.isEmpty then [] else
  (i.named.src.flatMap fun g => if g.1.isReg then
    (List.range g.2).flatMap fun k =>
      let c := g.1.code + k
      (positions v.E).filterMap fun q =>
        if v.s.keyPoisoned v.pid (rkey c (copyIdx c q)) (usedBytes i g.1) then some (c, maskOf [q]) else none
    else [])

/-- The POISON trap of an instruction's register reads, if any (R235, R240). -/
def poisonTrap (v : View) (i : Instr) : Option Trap :=
  match poisonedReads v i with
  | [] => none
  | (c, m) :: r => some { cause := 0x0F, mask := r.foldl (fun a q => a ||| q.2) m, efd := c }

/-- What an instruction's own rules add to the causes that every instruction meets first: an ILLEGAL reason, a cause of rank 4,
further register codes that it names, further buffer registers that it reads (R264), and whether it needs the full mask (R94,
R327, R340, R350, R372). `undo` is what an ILLEGAL of these rules leaves beside its trap (R352). -/
structure Early where
  illegal : Option Nat := none
  undo : State → State := id
  rank4 : Option Trap := none
  codes : List Nat := []
  bufs : List Nat := []
  full : Bool := false

/-- The causes every instruction meets before its own meaning, in the order of R234 (DEDUCED, log entry 16). -/
def commonTrap (v : View) (i : Instr) (e : Early) : Option Trap :=
  match (match i.illegal with
    | some r => some r
    | none => e.illegal) with
  | some r => some (illegalTrap v r i.namesLit)
  | none =>
    if v.E = 0 ∧ !actsEmpty i ∧ !needsFull i ∧ !e.full then none
    else match (if v.u.sup then none else privIndex i) with
      | some ix => some { cause := 3, mask := v.E, efd := ix }
      | none =>
        match (namedCodes i ++ e.codes).find? (undeclared v.p v.l) with
        | some c => some { cause := 0x18, mask := v.E, efd := c }
        | none =>
          match e.rank4 with
          | some t => some t
          | none =>
            match (hazardCodes i ++ e.codes ++ e.bufs.map fun n => 128 + n).findSome? (hazardOn v) with
            | some (c, k, cl) => some { cause := 6, mask := v.E, efd := c % 128 + (if c < 128 then k else 3) * 256, efa := cl }
            | none => if (needsFull i || e.full) && v.notFull then some { cause := 5, mask := v.E } else none

/-- The cause waiting for the unit's next instruction that is delivered now (R78, R230, R310): of several, the lowest rank
first (R239). -/
def UnitSt.dueDeferred (u : UnitSt) : Option Deferred :=
  match u.defer.filter fun d => d.cause ≠ 0x15 ∨ u.level = .none with
  | [] => none
  | d :: r => some (r.foldl (fun b x => if rankOf x.cause < rankOf b.cause then x else b) d)

/-- The word address after a clause of N words (R258). -/
def UnitSt.fallThrough (u : UnitSt) : Nat := (u.pc + 4 * (u.words.length + 1)) % 2 ^ 57

/-- The unit past an instruction of n words. -/
def UnitSt.advance (u : UnitSt) (n now : Nat) : UnitSt :=
  if u.words.length < u.idx + n then { u.endClause u.fallThrough now with released := false }
  else { u with idx := u.idx + n, park := .ready, released := false }

/-- The unit parked on a structural wait; a unit that still waits for the same thing keeps its place. -/
def UnitSt.parkOn (u : UnitSt) (w : Wait) (now : Nat) : UnitSt :=
  if u.park = .wait w then u else { u with park := .wait w, parkedAt := now }

/-- The unit's bookkeeping at an issue (R34). -/
def UnitSt.issued (u : UnitSt) (now : Nat) : UnitSt := { u with lastIssue := now, passes := 0 }

/-- An instruction's end committed to the state. -/
def commit (v : View) (words : Nat) : Act → State
  | .next s => s.updUnit v.uid fun u => (u.advance words s.now).issued s.now
  | .jump s pc => s.updUnit v.uid fun u => (u.endClause pc s.now).issued s.now
  | .placed s => s
  | .wait s w => s.updUnit v.uid fun u => u.parkOn w s.now
  | .trap s t => s.deliver v.uid t (t.word.getD v.u.word.toNat) (epcOf v.u.pc v.u.idx)

/-- A unit at its next instruction: one parked at `sfw`, which has issued, is past it (R78, R171, R362). -/
def UnitSt.afterSfw (u : UnitSt) (now : Nat) : UnitSt :=
  match u.park with
  | .wait (.tokens _) => u.advance (1 + wordExtra u.word.toNat u.rest) now
  | _ => u

/-- A cause waiting for the unit's next instruction delivered in its place; epc names that next instruction. -/
def deliverDeferred (v : View) (d : Deferred) : State :=
  let n := v.u.afterSfw v.s.now
  (v.s.putUnit v.uid { n with defer := n.defer.filter fun x => x ≠ d }).deliver v.uid
    { cause := d.cause, mask := d.emask, efd := d.efd, eaddr := d.eaddr, erem := d.erem } d.ecw (epcOf n.pc n.idx)

/-- A register poison found after the meaning's own causes of lower rank (R234). -/
def withPoison (v : View) (i : Instr) (a : Act) : Act :=
  match poisonTrap v i with
  | none => a
  | some t => match a with
    | .trap _ t' => if rankOf t'.cause < 13 then a else .trap v.s t
    | _ => .trap v.s t

/-- What the instruction does on its view: the common causes, nothing under an empty mask, else its meaning. -/
def perform (i : Instr) (early : View → Early) (body : View → Act) (v : View) : Act :=
  match commonTrap v i (early v) with
  | some t => .trap (if t.cause = 1 then (early v).undo v.s else v.s) t
  | none => if v.E = 0 ∧ !actsEmpty i then .next v.s else withPoison v i (body v)

/-- EVERY INSTRUCTION ISSUES THROUGH THIS: with no chosen unit it stops; a deferred cause is delivered first; else the
instruction's act is committed. -/
def issueWith (i : Instr) (early : View → Early) (body : View → Act) (s : State) : Out :=
  match s.view with
  | none => .fault .noUnit
  | some v =>
    match v.u.dueDeferred with
    | some d => .next (deliverDeferred v d)
    | none => .next (commit v (1 + i.extraWords) (perform i early body v))

/-- An instruction with no causes of its own of rank 4 or less. -/
def issue (i : Instr) (body : View → Act) (s : State) : Out := issueWith i (fun _ => {}) body s

/-! ## Work in flight -/

/-- The count of a kind at a unit (R261): instructions from the oldest not complete onward. -/
def State.countOf (s : State) (uid : Nat) (k : Kind) (issued : Nat) : Nat :=
  let os := (s.pend.vals.filter fun q => q.uid = uid ∧ q.kind = k).map Pend.ord
  match os with
  | [] => 0
  | o :: r => issued - r.foldl min o + 1

/-- Issue counter of a kind. -/
def UnitSt.counter (u : UnitSt) : Kind → Nat
  | .load => u.nLd | .store => u.nSt | .matrix => u.nMx | _ => 0

def UnitSt.bump (u : UnitSt) : Kind → UnitSt
  | .load => { u with nLd := u.nLd + 1 }
  | .store => { u with nSt := u.nSt + 1 }
  | .matrix => { u with nMx := u.nMx + 1 }
  | _ => u

/-- A count would pass its limit (R261). -/
def View.countFull (v : View) (k : Kind) : Bool :=
  decide ((if k = .matrix then 16 else 64) ≤ v.s.countOf v.uid k (v.u.counter k))

/-- Work of a kind put in flight by the unit, due after `lat` ac; its register results become uncovered (R264). -/
def View.launchWork (v : View) (s : State) (k : Kind) (lat : Nat) (held : Bool) (codes : List Nat) (w : Work) : State :=
  let (s, id) := s.fresh
  let u := v.u.bump k
  let fresh := codes.map fun c => Uncov.mk c v.E k (u.counter k) v.u.pc
  let u' := { u with uncov := (u.uncov.filter fun q => !codes.contains q.code) ++ fresh }
  (s.putUnit v.uid u').putPend
    ⟨id, v.uid, v.pid, v.ctx, v.core, v.u.pc, k, u.counter k, s.now, s.now + lat, held, 0, w⟩

/-- Counted work put in flight, or a wait for room in its count (R261). -/
def View.submit (v : View) (s : State) (k : Kind) (lat : Nat) (codes : List Nat) (w : Work) : Act :=
  if v.countFull k then .wait v.s (.count k) else .next (v.launchWork s k lat false codes w)

/-- The register codes of keys, without repeats. -/
def codesOf (ks : List Nat) : List Nat := (ks.map fun k => k / 256).eraseDups

end Sys2Proof.Machine
end

