-- ==== Sys2Proof/Machine/Operands.lean ====
section
/-! DEFINITION. Operand forms: how a literal is extended (R268), how copies of each execution class are read and written
(R24, R25), and how an index becomes an element address with its checks (R125 to R127, R26, R130, R131). -/

namespace Sys2Proof.Machine

/-- Bits of an integer width. -/
def ibits : IWidth → Nat
  | .i64 => 64 | .i32 => 32 | .i16 => 16 | .i8 => 8
/-- Bits of a floating-point type. -/
def fbits : FType → Nat
  | .f64 => 64 | .f32 => 32 | _ => 16
/-- Bits of a reduction type. -/
def rbits : RType → Nat
  | .f64 | .i64 => 64 | _ => 32

/-- A literal's low bits in every sub-element of a width (R268). -/
def litEvery (w x : Nat) : Word := w64 (packSubs w (List.replicate (64 / w) x))
/-- A literal of a floating-point operation (R268). -/
def litF (t : FType) (x : Nat) : Word := if t = .f64 then w64 (widen32 x) else litEvery (fbits t) x
/-- A literal of a lane or member reduction (R268). -/
def litR : RType → Nat → Word
  | .f64 => fun x => w64 (widen32 x)
  | .f32 | .i32 => litEvery 32
  | .i64 => sext
/-- A literal of an integer operation that sign-extends at .i64 (R268). -/
def litS : IWidth → Nat → Word
  | .i64 => sext
  | w => litEvery (ibits w)
/-- A literal of an integer operation that zero-extends at .i64 (R268). -/
def litZ : IWidth → Nat → Word
  | .i64 => zext
  | w => litEvery (ibits w)

/-- The 64-bit value a literal reaches an instruction's operation with (R268 Table 5). -/
def litExt : Instr → Nat → Word
  | .iadd w .. | .isub w .. | .imul w .. | .imulh w .. | .imin w .. | .imax w .. | .iabs w .. | .iadds w ..
  | .isubs w .. | .imad w .. => litS w
  | .iminu w .. | .imaxu w .. | .iand w .. | .ior w .. | .ixor w .. | .iandn w .. | .ishl w .. | .ishr w ..
  | .isar w .. | .irot w .. | .iclz w .. | .ipopc w .. | .ibrev w .. | .imulhu w .. => litZ w
  | .icmp c w _ _ _ => match c with
    | .eq | .ne | .lt | .le => litS w
    | _ => litZ w
  | .mov .. | .fxmac .. => sext
  | .fadd t .. | .fsub t .. | .fmul t .. | .ffma t .. | .ffms t .. | .fnma t .. | .fmin t .. | .fmax t ..
  | .fabs t .. | .fneg t .. | .fscl t .. | .frnd t .. | .fclass t .. | .fcpys t .. | .fcmp _ t .. => litF t
  | .mredAdd t .. | .mredMin t .. | .mredMax t .. | .msort t .. | .mrank t .. | .mspr t .. | .lredAdd t ..
  | .lredMin t .. | .lredMax t .. | .lscan t .. => litR t
  | .pvsel f .. | .pvreg f .. => litF (if f then .f32 else .f64)
  | _ => zext

namespace View

/-- The copy of an operand that slot q of the instruction reads. -/
def rd (v : View) (i : Instr) (o : Opnd) (q : Nat) : Word := v.p.readAt (litExt i) o q

/-- The indices an instruction executes for (R25). -/
def slots (v : View) (i : Instr) : List Nat := slotsOf i.cls v.E

/-- The pane's value of a scalar operand. -/
def scalar (v : View) (o : Opnd) : Nat := (v.p.readAt zext o 0).toNat

/-- The state with the pane replaced. -/
def withPane (v : View) (p : PaneSt) : State := v.s.putPane v.pid p

/-- The poison of written copies cleared (R240). -/
def cleaned (v : View) (s : State) (ks : List Nat) : State :=
  if s.poison.isEmpty then s else ks.foldl (fun s k => s.cleanKey v.pid k) s

/-- THE REGISTER RESULT of a fixed-latency instruction: copy q of d receives f q, for every slot q (R25). -/
def writeD (v : View) (i : Instr) (d : Opnd) (f : Nat → Word) : State :=
  let ws := (v.slots i).map fun q => (rkey d.code q, f q)
  v.cleaned (v.withPane (v.p.writeKeys ws)) (ws.map Prod.fst)

end View

/-- A packed operation on one operand: each sub-element of width w by itself (R65, R66). -/
def packed1 (w : Nat) (f : Nat → Nat) (a : Word) : Word :=
  w64 (packSubs w ((List.range (64 / w)).map fun e => f (sub w e a)))
/-- A packed operation on two operands. -/
def packed2 (w : Nat) (f : Nat → Nat → Nat) (a b : Word) : Word :=
  w64 (packSubs w ((List.range (64 / w)).map fun e => f (sub w e a) (sub w e b)))
/-- A packed operation on three operands. -/
def packed3 (w : Nat) (f : Nat → Nat → Nat → Nat) (a b d : Word) : Word :=
  w64 (packSubs w ((List.range (64 / w)).map fun e => f (sub w e a) (sub w e b) (sub w e d)))

/-! ## Element addresses -/

/-- The permission an access needs (R124). -/
inductive Perm where
  | rd | wr | at_
deriving DecidableEq, Repr

def Perm.granted (k : Perm) (r : BitVec 256) : Bool :=
  match k with
  | .rd => BufRec.rd r | .wr => BufRec.wr r | .at_ => BufRec.at_ r

/-- One slot's element: the slot, the active positions it stands for, and its address; none where the index fails under
zero or drop (R127). -/
structure Elem where
  slot : Nat
  mask : Mask
  ea : Option Nat
deriving DecidableEq, Repr

/-- A record names a peer other than this node (R125). -/
def remoteNode (d : DevSt) (r : BitVec 256) : Option Nat :=
  if BufRec.rem r ∧ BufRec.node r ≠ d.node then some (BufRec.node r) else none

/-- The address of index X for absolute member n (R125); none where the index is out of bounds and not clamped. -/
def elemAddr (r : BitVec 256) (X n : Nat) : Option Nat :=
  let X' := if X < BufRec.extent r then some X
    else if BufRec.oob r = 2 ∧ 0 < BufRec.extent r then some (BufRec.extent r - 1) else none
  X'.map fun X => BufRec.base r + swizzle r X * BufRec.stride r +
    (if BufRec.mmode r = 1 then n * BufRec.mstride r * 65536 else 0)

/-- The address is beyond the range (R125, code 3). -/
def eaBad (d : DevSt) (r : BitVec 256) (ea : Nat) : Bool :=
  decide (2 ^ 57 ≤ ea) || ((remoteNode d r).isSome && decide (2 ^ 41 ≤ ea))

/-- BOUNDS with a code on a buffer register (R127 Table 4). -/
def boundsTrap (n code : Nat) (mask : Mask) (eaddr : Nat) : Trap :=
  { cause := 7, mask := mask, efd := n * 256 + code, eaddr := eaddr }

/-- The union of masks. -/
def unionMask (ms : List Mask) : Mask := ms.foldl (· ||| ·) 0

/-- The elements that fail a test on their address. -/
def failing (es : List Elem) (bad : Nat → Bool) : List (Nat × Mask) :=
  es.filterMap fun e => e.ea.bind fun a => if bad a then some (a, e.mask) else none

/-- The trap of failing elements, with the lowest failing address modulo 2^64. -/
def failTrap (fs : List (Nat × Mask)) (mk : Mask → Nat → Trap) : Option Trap :=
  match fs with
  | [] => none
  | (a, _) :: r => some (mk (unionMask (fs.map Prod.snd)) ((r.map Prod.fst).foldl min a % 2 ^ 64))

/-- THE CHECKS OF R127, in their order, on elements already formed for a record. -/
def checkElems (d : DevSt) (n : Nat) (r : BitVec 256) (k : Perm) (width : Nat) (all : Mask) (es : List Elem) : Option Trap :=
  if BufRec.malformed r then some (boundsTrap n 1 all 0)
  else if !k.granted r then some (boundsTrap n 2 all 0)
  else
    let missed := unionMask ((es.filter fun e => e.ea.isNone).map Elem.mask)
    if BufRec.oob r = 1 ∧ (es.any fun e => e.ea.isNone) then some (boundsTrap n 0 missed 0)
    else match failTrap (failing es (eaBad d r)) fun m a => boundsTrap n 3 m a with
      | some t => some t
      | none => failTrap (failing es fun a => a % width != 0) fun m a => { cause := 9, mask := m, eaddr := a }

/-- The elements of an instruction's slots through a record. -/
def View.elems (v : View) (cls : Cls) (r : BitVec 256) (idx : Nat → Nat) : List Elem :=
  (slotsOf cls v.E).map fun q =>
    ⟨q, slotMask cls v.E q, elemAddr r (idx q) (v.ca.gm * v.M + q / 32)⟩

/-- THE ELEMENT ADDRESSES of a memory instruction through a record: DISAGREE for a narrower class through a per-member
record (R26), then the checks of R127. -/
def View.resolveRec (v : View) (n : Nat) (r : BitVec 256) (k : Perm) (cls : Cls) (width : Nat) (idx : Nat → Nat) :
    Except Trap (List Elem) :=
  let es := v.elems cls r idx
  if cls ≠ .vec ∧ BufRec.mmode r = 1 then .error { cause := 4, mask := v.E }
  else match checkElems v.s.dev n r k width v.E es with
    | some t => .error t
    | none => .ok es

/-- The same through buffer register n with index operand x. -/
def View.resolve (v : View) (i : Instr) (n : Nat) (k : Perm) (width : Nat) (x : Opnd) : Except Trap (List Elem) :=
  v.resolveRec n (v.p.buf n) k i.cls width fun q => (v.rd i x q).toNat

/-- The addresses of a scratch or lane-store access (R130, R131): BOUNDS code 0, then ALIGN. -/
def View.resolveOwn (v : View) (i : Instr) (size width bytes : Nat) (x : Opnd) : Except Trap (List Elem) :=
  let es := (v.slots i).map fun q => (q, slotMask i.cls v.E q, (v.rd i x q).toNat)
  let out := es.filter fun e => decide (2 ^ 32 ≤ e.2.2) || decide (size < e.2.2 + bytes)
  let mis := es.filter fun e => e.2.2 % width != 0
  if out ≠ [] then .error (boundsTrap 0 0 (unionMask (out.map fun e => e.2.1)) 0)
  else match failTrap (mis.map fun e => (e.2.2, e.2.1)) fun m a => { cause := 9, mask := m, eaddr := a } with
    | some t => .error t
    | none => .ok (es.map fun e => ⟨e.1, e.2.1, some e.2.2⟩)

end Sys2Proof.Machine
end

