-- ==== Sys2Proof/Machine/Flags.lean ====
section
/-! DEFINITION. Flags: how an instruction's conditions become fstat bits (R43, R44, R76) or the FPX trap (R77). -/

namespace Sys2Proof.Machine

/-- One slot's floating-point result. -/
structure SlotRes where
  slot : Nat
  val : Word
  flags : Nat
deriving DecidableEq, Repr

/-- The union of the slots' flags. -/
def allFlags (rs : List SlotRes) : Nat := rs.foldl (fun a r => a ||| r.flags) 0

/-- The active positions of the slots that raise a condition enabled in te (R77). -/
def enabledMask (v : View) (cls : Cls) (te : Nat) (rs : List SlotRes) : Mask :=
  unionMask ((rs.filter fun r => r.flags &&& te != 0).map fun r => slotMask cls v.E r.slot)

/-- FPX of Tables 3 and 4 (R77): precise, with every detected condition's fstat bit set. -/
def fpxTrap (v : View) (cls : Cls) (te : Nat) (rs : List SlotRes) : Act :=
  .trap (v.withPane (v.p.orFstat (allFlags rs)))
    { cause := 0x15, mask := enabledMask v cls te rs, efd := allFlags rs &&& te }

/-- The pane with slot results in d and their flags in fstat. -/
def PaneSt.writeFp (p : PaneSt) (d : Opnd) (rs : List SlotRes) : PaneSt :=
  (p.writeKeys (rs.map fun r => (rkey d.code r.slot, r.val))).orFstat (allFlags rs)

/-- THE END OF A FLOATING-POINT INSTRUCTION: FPX where an enabled condition arose, else results and flags (R76, R77). -/
def View.finishFp (v : View) (i : Instr) (d : Opnd) (rs : List SlotRes) : Act :=
  let te := (FMode.ofWord v.p.fmode).te
  if allFlags rs &&& te ≠ 0 then fpxTrap v i.cls te rs
  else .next (v.cleaned (v.withPane (v.p.writeFp d rs)) (rs.map fun r => rkey d.code r.slot))

/-- Sub-element results of one copy joined: values packed at width w, flags united (R65). -/
def joinSubs (w : Nat) (rs : List FRes) : Nat × Nat :=
  (packSubs w (rs.map FRes.code), rs.foldl (fun a r => a ||| r.flags) 0)

/-- Bits set in fstat by a path that never raises FPX (R76). -/
def View.withFlags (v : View) (s : State) (f : Nat) : State :=
  if f = 0 then s else s.updPane v.pid fun p => p.orFstat f

end Sys2Proof.Machine
end

