-- ==== Sys2Proof/Machine/Clause.lean ====
section
/-! DEFINITION. Clauses: fetching one (R258), entering it through its wait fields (R259, R261, R264), and the words that are
no instruction (R281). Rows CLAUSE_HEADER and RESERVED_ENCODING. -/

namespace Sys2Proof.Machine

/-! ## Page faults (R226, R227) -/

/-- The 64 KiB virtual page of an address. -/
abbrev pageOf (va : Nat) : Nat := va % 2 ^ 57 / 65536

/-- Access kinds of a page-fault record's ACC, as bits (R229 Table 8). -/
def accRead : Nat := 1
def accWrite : Nat := 2
def accAtomic : Nat := 4
def accFetch : Nat := 8
def accEngine : Nat := 16

/-- The record that a die's fault on a page belongs to (R227): the die's own, else one of another die that already awaits its
reply. -/
def CtxSt.faultFor (c : CtxSt) (die page reason : Nat) : Option FaultRec :=
  let fs := c.faults.filter fun f => f.page = page ∧ f.reason = reason
  match fs.find? fun f => f.die = die with
  | some f => some f
  | none => fs.find? fun f => f.ring.isSome

/-- A fault noted at its die stage: it joins the record it belongs to, or opens one whose window closes after 256 ac (R227). -/
def State.noteFault (s : State) (ctx core page reason acc : Nat) : State :=
  s.updCtx ctx fun c =>
    match c.faultFor (core / 16) page reason with
    | some x => { c with faults := c.faults.map fun f => if f = x then { f with acc := f.acc ||| acc } else f }
    | none => { c with faults := c.faults ++ [⟨page, reason, acc, core / 16, s.now + 256, none⟩] }

/-! ## Fetching -/

/-- The outcome of fetching a clause. -/
inductive Fetched where
  | ok (hdr : W32) (ws : List W32) (s : State)
  | fault (page reason : Nat)
  | trap (cause va : Nat)
  /-- A place of vault region g that is being converted (R136). -/
  | busy (g : Nat)
deriving DecidableEq, Repr

/-- One word fetched through a leaf with X (R224, R269), within the size of its vault region (R136); the host and peer windows
hold no code. -/
def State.fetchWord (s : State) (ctx va : Nat) : Xlate :=
  match s.xlate ctx .fetch va with
  | .ok pa l => match frameOf s.dev pa with
    | .vault g off => match s.vaultCheck g off with
      | .error false => .trap causeVAULT
      | _ => .ok pa l
    | f => if f.local then .ok pa l else .trap causePROT
  | x => x

/-- A word that could not be fetched, at its address: PROT, FAULTFATAL or VAULT name the word's address, VAULT its line's. -/
def stopFetch (va : Nat) : Xlate → Fetched
  | .pageFault r => .fault (pageOf va) r
  | .trap c => .trap c (if c = causeVAULT then va / 64 * 64 else va)
  | .ok .. => .trap causeFATAL va

/-- n words from an address, in order; a place being converted is waited for (R136) (DEDUCED, log entry 22). -/
def State.fetchWords (s : State) (ctx : Nat) : Nat → Nat → Except Fetched (List W32 × State)
  | _, 0 => .ok ([], s)
  | va, n + 1 =>
    match s.fetchWord ctx (va % 2 ^ 57) with
    | .ok pa l =>
      if s.converting pa then .error (.busy (homeRegion pa))
      else match State.fetchWords (s.cache ctx (va % 2 ^ 57) l) ctx (va + 4) n with
      | .ok (ws, s') => .ok (BitVec.ofNat 32 (s.homeRead pa 4) :: ws, s')
      | .error e => .error e
    | x => .error (stopFetch (va % 2 ^ 57) x)

/-- The header at an address and the N words after it (R258). -/
def State.fetchClause (s : State) (ctx pc : Nat) : Fetched :=
  match s.fetchWords ctx pc 1 with
  | .error e => e
  | .ok (h, s1) =>
    let hdr := h.headD 0
    match s1.fetchWords ctx (pc + 4) (bits hdr.toNat 28 4) with
    | .ok (ws, s2) => .ok hdr ws s2
    | .error e => e

/-! ## Counts and waits -/

/-- Sealed batches of a pane's lane not completed (R163). -/
def State.sealedOf (s : State) (pid lane : Nat) : Nat :=
  (s.pend.vals.filter fun q => q.pane == pid && (match q.work with
    | .copy l _ _ _ _ => l == lane
    | _ => false)).length

/-- The lanes that hold a position of a mask. -/
def lanesOf (m : Mask) : List Nat := slotsOf .shr m

/-- Every lane with an active position has at most k sealed batches (R164, R259). -/
def State.copiesWithin (s : State) (pid : Nat) (m : Mask) (k : Nat) : Bool :=
  (lanesOf m).all fun l => decide (s.sealedOf pid l ≤ k)

/-- The wait fields of a header hold (R261); the largest value of a field is no wait. -/
def State.fieldsHold (s : State) (uid : Nat) (u : UnitSt) (wld wst wmx wcp : Nat) : Bool :=
  (wld == 31 || decide (s.countOf uid .load u.nLd ≤ wld)) &&
  (wst == 15 || decide (s.countOf uid .store u.nSt ≤ wst)) &&
  (wmx == 7 || decide (s.countOf uid .matrix u.nMx ≤ wmx)) &&
  (wcp == 15 || s.copiesWithin u.pane u.xm wcp)

/-- The load, store, matrix and every lane's copy counts are 0 (R263). -/
def State.drained (s : State) (uid : Nat) (u : UnitSt) : Bool :=
  s.fieldsHold uid u 0 0 0 15 && (List.range 32).all fun l => decide (s.sealedOf u.pane l = 0)

/-- The results that entering a clause covers (R264): those of a kind whose field n is a wait with c > n. -/
def UnitSt.cover (u : UnitSt) (wld wst wmx : Nat) : UnitSt :=
  { u with uncov := u.uncov.filter fun q =>
      let c := u.counter q.kind - q.ord + 1
      match q.kind with
      | .load => !(wld != 31 && decide (wld < c))
      | .store => !(wst != 15 && decide (wst < c))
      | .matrix => !(wmx != 7 && decide (wmx < c))
      | _ => true }

/-- An acquire of a unit completed (R145, R264: `acq`, `fence`, `cwait`, a barrier, a resumption): every Load-kind result is
covered. -/
def UnitSt.coverLoads (u : UnitSt) : UnitSt := { u with uncov := u.uncov.filter fun q => q.kind ≠ .load, acquired := true }

/-- A word index at which an instruction of the clause starts (R310 step 4). -/
def startsAt (idx : Nat) : Nat → Nat → List W32 → Bool
  | 0, _, _ => false
  | f + 1, k, ws =>
    if k = idx then decide (0 < ws.length)
    else match ws with
      | [] => false
      | w :: rest =>
        let n := wordExtra w.toNat rest
        startsAt idx f (k + 1 + n) (rest.drop n)

/-- The cause that a completed batch of the unit's active lanes met, raised at the wait that covers it (R164): the lowest rank
first (DEDUCED, log entry 26). -/
def State.batchTrap (s : State) (u : UnitSt) : Option (Trap × List BatchFail) :=
  match s.panes.find u.pane with
  | none => none
  | some p =>
    let fs := p.batchFails.filter fun f => (lanesOf u.xm).contains f.lane && (s.pend.find f.batch).isNone
    match fs with
    | [] => none
    | f :: r =>
      let best := r.foldl (fun b x => if rankOf x.cause < rankOf b.cause then x else b) f
      let same := fs.filter fun x => x.cause = best.cause
      some ({ cause := best.cause
              mask := unionMask (same.map BatchFail.mask)
              efd := if best.cause = 0x0A ∨ best.cause = 0x0B then 0 else 2 ^ 63
              eaddr := (same.map BatchFail.eaddr).foldl min best.eaddr
              erem := best.erem }, fs)

/-- Batch causes taken from their pane. -/
def State.dropBatchFails (s : State) (pid : Nat) (fs : List BatchFail) : State :=
  s.updPane pid fun p => { p with batchFails := p.batchFails.filter fun f => !fs.contains f }

/-! ## Row CLAUSE_HEADER -/

/-- A HEADER trap (R235, R282) on a word: the unit's header word (R259), or the one at which an `eret` resumed (R310). -/
def headerTrap (u : UnitSt) (reason : Nat) (hdr w : W32) : Trap :=
  { cause := 2, mask := u.xm, efd := decodedFields w reason u.idx hdr, efb := bits w.toNat 0 26, word := some w.toNat }

/-- The clause entered: every field holds, results are covered, and the first word issues next. -/
def UnitSt.enter (u : UnitSt) (hdr : W32) (ws : List W32) : UnitSt :=
  let h := hdr.toNat
  { u.cover (bits h 19 5) (bits h 15 4) (bits h 12 3) with
    hdr := hdr
    words := ws
    entered := true
    idx := max u.idx 1
    park := .ready }

/-- A unit at a clause: fetch, header checks, wait fields (R258, R259, R261). -/
def enterClause (v : View) : State :=
  let pc := v.u.pc
  match v.s.fetchClause v.ctx pc with
  | .busy g => v.s.updUnit v.uid fun u => u.parkOn (.vault g) v.s.now
  | .fault page r =>
    (v.s.updUnit v.uid fun u => u.parkOn (.fetch page r) v.s.now).noteFault v.ctx v.core page r accFetch
  | .trap c va => v.s.deliver v.uid { cause := c, mask := v.E, eaddr := va } 0 (epcOf pc v.u.idx)
  | .ok hdr ws s =>
    let h := hdr.toNat
    if bits h 28 4 = 0 then s.deliver v.uid (headerTrap v.u 8 hdr hdr) h (epcOf pc v.u.idx)
    else if bits h 0 8 ≠ 0 then s.deliver v.uid (headerTrap v.u 3 hdr hdr) h (epcOf pc v.u.idx)
    else if !s.fieldsHold v.uid v.u (bits h 19 5) (bits h 15 4) (bits h 12 3) (bits h 8 4) then
      s.updUnit v.uid fun u => u.parkOn (.clause (bits h 19 5) (bits h 15 4) (bits h 12 3) (bits h 8 4)) s.now
    else if 1 < v.u.idx ∧ !startsAt v.u.idx 16 1 ws then
      s.deliver v.uid (headerTrap v.u 9 hdr (ws.getD (v.u.idx - 1) 0)) (ws.getD (v.u.idx - 1) 0).toNat (epcOf pc v.u.idx)
    else match (if bits h 8 4 = 15 then none else s.batchTrap v.u) with
      | some (t, fs) => (s.dropBatchFails v.pid fs).deliver v.uid t h (epcOf pc v.u.idx)
      | none => s.updUnit v.uid fun u => u.enter hdr ws

/-- Row CLAUSE_HEADER: the chosen unit enters the clause at its pc. -/
def execClauseHeader (s : State) : Out :=
  match s.view with
  | none => .fault .noUnit
  | some v => .next (match v.u.dueDeferred with
    | some d => deliverDeferred v d
    | none => enterClause v)

/-- The cause of a rejected word: HEADER for a word past the end, else ILLEGAL (R281) (DEDUCED, log entry 15). -/
def execReservedEncoding (w : W32) (reason : Nat) (s : State) : Out :=
  match s.view with
  | none => .fault .noUnit
  | some v => .next (match v.u.dueDeferred with
    | some d => deliverDeferred v d
    | none =>
      let lit := wordNamesLit w.toNat
      s.deliver v.uid
        { cause := if reason = 9 then 2 else 1
          mask := v.E
          efd := decodedFields w reason v.u.idx v.u.hdr
          efa := if lit then 2 ^ 32 + (v.u.rest.headD 0).toNat else 0
          efb := bits w.toNat 0 26 } w.toNat (epcOf v.u.pc v.u.idx))

/-- What the word that a unit is about to issue is: an instruction, or a rejected word with its reason (R281). -/
def nextInstr (u : UnitSt) : Instr :=
  if !u.entered then .clauseHeader
  else
    let w := u.word
    let cls := bits u.hdr.toNat 25 3
    match decode w u.rest, clsOfMajor (majorOf w) with
    | _, none => .reservedEncoding w 1
    | .error .pastEnd, _ => .reservedEncoding w 9
    | r, some k =>
      if cls ≠ 7 ∧ cls ≠ k then .reservedEncoding w 6
      else match r with
        | .ok i => i
        | .error e => .reservedEncoding w e.reason

/-- A unit past the instruction it is parked in, with that instruction's literal words. -/
def UnitSt.pass (u : UnitSt) (now : Nat) : UnitSt := u.advance (1 + (nextInstr u).extraWords) now

end Sys2Proof.Machine
end

