-- ==== Sys2Proof/Machine/Sched.lean ====
section
/-! DEFINITION. What happens next: the issue port's choice (R33, R34), and what falls in an ac after the issues. -/

namespace Sys2Proof.Machine

/-! ## Parked units -/

/-- Work that comes before an identity in a unit's program order: its own, or that of a unit it was detached from (R143). -/
def State.earlier (s : State) (uid before : Nat) (q : Pend) : Bool :=
  (q.uid == uid && decide (q.id < before)) ||
    (match s.units.find uid with
      | some u => u.past.any fun a => q.uid == a.1 && decide (q.id < a.2)
      | none => false)

/-- Work that is not yet performed or, as a store, not yet acknowledged (R148). -/
def Work.unperformed : Work → Bool
  | .reads .. | .acking | .store _ | .write _ | .rqt .. | .ordered _ | .count _ | .logged .. | .remote .. => true
  | .tile _ _ bound => !bound
  | _ => false

/-- Every earlier access of a unit is performed (R148): its `mst` and `psave.mx` operations too. -/
def State.allPerformed (s : State) (uid : Nat) : Bool :=
  s.pend.vals.all fun q => !s.earlier uid s.nextId q || !q.work.unperformed

/-- Every earlier read and atomic of a unit is bound (R148). -/
def State.allBound (s : State) (uid : Nat) : Bool :=
  s.pend.vals.all fun q => !s.earlier uid s.nextId q || (match q.work with
    | .reads .. | .count _ | .ordered _ => false
    | .logged r _ => (match r.op with
      | .store | .tileOut | .save _ => true
      | _ => false)
    | .remote r _ => decide (r.op = .store)
    | .tile r _ bound => bound || (match r.op with
      | .tileOut | .save _ => true
      | _ => false)
    | _ => true)

/-- The acquire step of a unit may complete (R148, R158): every earlier read and atomic is bound, and none of its instructions
is pending in the operand log. -/
def State.mayAcquire (s : State) (uid : Nat) : Bool :=
  s.allBound uid && s.pend.vals.all fun q => !s.earlier uid s.nextId q || (match q.work with
    | .logged .. => false
    | _ => true)

/-- A memory instruction has a register result: register copies or a buffer register (R264, R297). -/
def MemReq.hasResult (r : MemReq) : Bool :=
  (r.accs.any fun a => !a.keys.isEmpty) || !r.zeros.isEmpty || (match r.op with
    | .bset _ => true
    | _ => false)

/-- Every variable-latency register result of a unit is written (R265), a buffer register's among them (R297). -/
def State.resultsWritten (s : State) (uid : Nat) : Bool :=
  (s.pend.vals.all fun q => q.uid != uid || (match q.work with
    | .regs .. | .wadr _ => false
    | .logged r _ => !r.hasResult
    | .reads r _ => !r.hasResult
    | .remote r _ => !r.hasResult
    | _ => true)) &&
  (s.cores.vals.all fun c => c.engQ.all fun o => o.uid != uid || (match o.i with
    | .mdrn .. | .mtlOut .. => false
    | _ => true))

/-- `sfq` instructions in the unit that serves a slot of a core (R171). -/
def State.sfuLoad (s : State) (core slot : Nat) : Nat :=
  (s.pend.vals.filter fun q => q.core == core && (match q.work with
    | .sfq .. => ((s.panes.find q.pane).map fun p => p.slot / 4) == some (slot / 4)
    | _ => false)).length

/-- Operand-log entries in use on a core (R226). -/
def State.logUse (s : State) (core : Nat) : Nat :=
  (s.pend.vals.filter fun q => q.core == core && (match q.work with
    | .logged .. => true
    | _ => false)).length

/-- Commands in the halo queue (q 0, 1) or the collective queue (q 2, 3) of a core (R165): one that is being performed counts
until its completion word is done (DESIGN CHOICE, log entry 60: R165 does not say when an entry frees). -/
def State.cmdUse (s : State) (core q : Nat) : Nat :=
  (s.pend.vals.filter fun p => p.core == core && (match p.work with
    | .halo c _ _ _ => c.q / 2 == q / 2
    | .coll c _ _ _ _ => c.q / 2 == q / 2
    | _ => false)).length

/-- alc_k as it acts in this ac (R211). -/
def CtxSt.window (c : CtxSt) (k : Nat) : Nat := (c.acting (0x50 + k) (Map.getD c.alc k 0)).toNat

/-- LIMIT of an allowance window (R211). -/
def CtxSt.limit (c : CtxSt) (k : Nat) : Nat := bits (c.window k) 0 24

/-- The allowance al_k of a pane (R212), for an enabled window. -/
def allowance (c : CtxSt) (p : PaneSt) (k : Nat) : Int := (c.limit k : Int) - (p.charge.getD k 0 : Nat)

/-- A charge of n on window k fits (R212): within the allowance, or the pane's count on the window is 0. -/
def CtxSt.fitsOn (c : CtxSt) (p : PaneSt) (q : Nat × Nat) : Bool :=
  decide ((q.2 : Int) ≤ allowance c p q.1) || p.charge.getD q.1 0 == 0

/-- The window whose wait list a unit stands on (R213). -/
def UnitSt.listOf (u : UnitSt) : Option Nat :=
  match u.park with
  | .wait (.allowance k _) => some k
  | .wait (.room k _) => some k
  | _ => none

/-- (parkedAt, slot, sequence) of a unit precedes another's. -/
def parkedBefore (s : State) (a b : UnitSt) : Bool :=
  let sl := fun (u : UnitSt) => ((s.panes.find u.pane).map PaneSt.slot).getD 0
  decide (a.parkedAt < b.parkedAt) || (decide (a.parkedAt = b.parkedAt) &&
    (decide (sl a < sl b) || (decide (sl a = sl b) && decide (a.seq < b.seq))))

/-- The head of a wait list may go (R213, R214): it fits every window, or `sawt`'s count is reached. -/
def UnitSt.listDone (c : CtxSt) (p : PaneSt) (u : UnitSt) : Bool :=
  match u.park with
  | .wait (.allowance _ needs) => needs.all (c.fitsOn p)
  | .wait (.room k n) => c.limit k == 0 || c.fitsOn p (k, min n (c.limit k))
  | _ => false

/-- The units of a pane on the wait list of window k, first in first. -/
def State.waitList (s : State) (pid k : Nat) : List (Nat × UnitSt) :=
  ((s.unitsOf pid).filter fun q => q.2.listOf == some k).foldl (fun r q =>
    r.takeWhile (fun x => !parkedBefore s q.2 x.2) ++ [q] ++ r.dropWhile (fun x => !parkedBefore s q.2 x.2)) []

/-- The wait lists of a pane tested in an ac in which a charge was released (R213): head after head, until one does not fit. -/
def State.releaseWaits (s : State) (pid : Nat) : State :=
  match s.panes.find pid with
  | none => s
  | some p =>
    if p.relAt = some s.now then
      let c := s.ctx (((s.launchOfPane pid).map LaunchSt.ctx).getD 0)
      (List.range 16).foldl (fun s k =>
        ((s.waitList pid k).takeWhile fun q => q.2.listDone c p).foldl (fun s q =>
          s.updUnit q.1 fun u => { u with park := .ready }) s) s
    else s

/-- A structural wait is over (R33); the wait lists of R213 are tested as charges are released: the instruction may issue afresh
(DEDUCED, log entry 14). -/
def State.waitOver (s : State) (uid : Nat) (u : UnitSt) (w : Wait) : Bool :=
  let core := ((s.casOfPane u.pane).map CasementSt.core).getD 0
  let cas := ((s.panes.find u.pane).map PaneSt.cas).getD 0
  let ctx := ((s.launchOfPane u.pane).map LaunchSt.ctx).getD 0
  match w with
  | .clause a b c d => s.fieldsHold uid u a b c d
  | .drain => s.drained uid u
  | .performed => s.allPerformed uid
  | .bound => s.allBound uid
  | .acquire => s.mayAcquire uid
  | .results => s.resultsWritten uid
  | .tokens m => match s.panes.find u.pane with
    | none => true
    | some p => p.tokens.all fun q => bits m q.1 1 == 0
  | .sfu => decide (s.sfuLoad core (((s.panes.find u.pane).map PaneSt.slot).getD 0) < 8)
  | .seal ls => ls.all fun l => decide (s.sealedOf u.pane l < 8)
  | .copies k => s.copiesWithin u.pane u.xm k
  | .engine => decide ((s.core core).engQ.length < 16)
  | .baton => decide ((s.core core).baton = some u.pane)
  | .pendingQueue =>
    ((s.cas.find cas).map fun c => decide (c.pendQ.length < 4)).getD true &&
    !(s.units.any fun q => q.1 != uid && decide (q.2.park = .wait .pendingQueue) &&
      ((s.panes.find q.2.pane).map PaneSt.cas) == some cas && parkedBefore s q.2 u)
  | .allowance .. | .room .. => false
  | .opLog => decide (s.logUse core < 512)
  | .fetch page reason => ((s.ctx ctx).faultFor (core / 16) page reason).isNone
  | .command q => decide (s.cmdUse core q < (if q < 2 then 32 else 16))
  | .count k => decide (s.countOf uid k (u.counter k) < (if k = .matrix then 16 else 64))
  | .slot z => !(s.pend.vals.any fun q => ((s.panes.find q.pane).map PaneSt.cas) == some cas && (match q.work with
    | .logged r _ => decide (r.op = .restore 2) || (decide (r.op = .lld) && r.accs.any fun a => a.data == z)
    | .reads r _ => decide (r.op = .restore 2) || (decide (r.op = .lld) && r.accs.any fun a => a.data == z)
    | .remote r _ => decide (r.op = .lld) && r.accs.any fun a => a.data == z
    | .longs _ xs _ => xs.any fun x => x.1 == z
    | .install part _ _ => part == 2
    | _ => false))
  | .vault g => !(s.wp g).busy
  | .ownStores => s.pend.vals.all fun q => !s.earlier uid s.nextId q || !q.work.unperformed

/-- A unit within an instruction that waits for its accesses: a pre-emption lets it complete before the unit is saved (R322)
(DEDUCED, log entry 38). -/
def UnitSt.completing (u : UnitSt) : Bool :=
  u.seated && (match u.park with
    | .wait .performed | .wait .acquire => true
    | .wait (.seal _) => u.word == 0x60400000
    | .ready => u.released
    | _ => false)

/-- A unit that may issue (R33): seated, its casement resident, not parked or its wait over; of a casement that stops, one that
completes its instruction (R322). -/
def State.unitReady (s : State) (uid : Nat) (u : UnitSt) : Bool :=
  u.seated &&
  (match s.panes.find u.pane with
    | none => false
    | some p => !p.out && (match s.cas.find p.cas with
      | none => false
      | some c => c.phase = .resident || c.phase = .saving || c.phase = .resuming || (c.phase = .stopping && u.completing))) &&
  (match u.park with
    | .ready => true
    | .wait w => s.waitOver uid u w
    | _ => false)

/-- The instruction occupies the vector datapath (R14). -/
def usesDatapath (u : UnitSt) : Bool :=
  u.entered && (let M := majorOf u.word
    clsOfMajor M == some 0 && M != 0x10 && M != 0x2C)

/-- The instruction is a form of the accumulator store (R14, R330). -/
def usesStore (u : UnitSt) : Bool := u.entered && majorOf u.word == 0x2C

/-- How long a contribution occupies the accumulator store at fold M (R330): 64, 32 or 16 positions per ac; a read-out occupies it
for none (DESIGN CHOICE, log entry 2). -/
def storeOccupancy (i : Instr) (M : Nat) : Nat :=
  let n := match i.cls with
    | .vec => 32 * M
    | .shr => 32
    | .sca => 1
  match i with
  | .laddF64 .. | .lmacF64 .. | .lclr .. | .lmrg .. | .lnrm .. | .lwrl .. => (n + 63) / 64
  | .laddF32 .. | .lmacF32 .. => (n + 31) / 32
  | .laddBf16 .. => (n + 15) / 16
  | _ => 0

/-- How long an instruction of the vector datapath occupies it at fold M (R14), twice for the sorts, the lane reductions and the
pivot choice (R335, R343, R351) (DESIGN CHOICE, log entry 2). -/
def occupancy (i : Instr) (M : Nat) : Nat :=
  let full := max 1 (M / 2)
  let base := match i.named.dst with
    | (d, _) :: _ => if (if d.isZr then i.rank else d.rank) = 2 then full else 1
    | [] => full
  match i with
  | .msort .. | .mrank .. | .lredAdd .. | .lredMin .. | .lredMax .. | .lscan .. | .pvsel .. => 2 * base
  | .reservedEncoding .. => 0
  | _ => base

/-- The engine of a unit's next instruction can accept it in this ac (R33): the vector datapath, a place among the eight of the
special-function unit (R171), in the matrix queue (R117), or in the command queue (R165), or the accumulator store (R330); a cause
that is due needs none. -/
def State.accepts (s : State) (core slot : Nat) (u : UnitSt) : Bool :=
  if !u.entered || u.dueDeferred.isSome then true
  else
    let w := u.word.toNat
    let f := bits w 20 6
    match majorOf u.word with
    | 0x0C => decide (s.sfuLoad core slot < 8)
    | 0x2C => decide ((s.core core).accFree ≤ s.now)
    | 0x24 => f != 0 || decide (s.cmdUse core (bits w 0 6) < (if bits w 0 6 < 2 then 32 else 16))
    | 0x26 | 0x27 | 0x28 => decide ((s.core core).engQ.length < 16)
    | 0x29 => decide (11 < bits w 21 5) || decide ((s.core core).engQ.length < 16)
    | 0x32 => !((f == 3 || f == 4) && bits w 6 7 == 1) || decide ((s.core core).engQ.length < 16)
    | _ => !(usesDatapath u && decide (s.now < (s.core core).datapath))

/-- A candidate of a core (R34). -/
structure Cand where
  uid : Nat
  slot : Nat
  pri : Nat
  u : UnitSt
deriving DecidableEq, Repr

/-- The candidates of a core. -/
def State.candidates (s : State) (c : Nat) : List Cand :=
  s.units.filterMap fun q =>
    match s.panes.find q.2.pane with
    | none => none
    | some p => match s.cas.find p.cas with
      | none => none
      | some ca =>
        if ca.core = c ∧ s.unitReady q.1 q.2 ∧ s.accepts c p.slot q.2 then
          some ⟨q.1, p.slot, ((s.launches.find ca.lid).map LaunchSt.pri).getD 0, q.2⟩
        else none

/-- The order within a set: oldest issue, then slot, then sequence (R34, R58). -/
def Cand.before (a b : Cand) : Bool :=
  decide (a.u.lastIssue < b.u.lastIssue) || (decide (a.u.lastIssue = b.u.lastIssue) &&
    (decide (a.slot < b.slot) || (decide (a.slot = b.slot) && decide (a.u.seq < b.u.seq))))

/-- The first of a set. -/
def firstCand : List Cand → Option Cand
  | [] => none
  | c :: r => some (r.foldl (fun b x => if x.before b then x else b) c)

/-- THE ISSUE PORT'S CHOICE on a core (R34): aged candidates, else the highest priority, oldest first. -/
def State.portChoice (s : State) (c : Nat) : Option Cand :=
  let cs := s.candidates c
  let aged := cs.filter fun x => decide (1024 ≤ x.u.passes)
  if aged ≠ [] then firstCand aged
  else
    let top := cs.foldl (fun p x => max p x.pri) 0
    firstCand (cs.filter fun x => x.pri = top)

/-- The cores that hold a casement, ascending, without repeats. -/
def State.liveCores (s : State) : List Nat :=
  (List.range 128).filter fun c => s.cas.any fun q => q.2.core == c

/-- The next unit of a core: one that has a clause to enter, whose wait fields say whether it is a candidate (R33), else the issue
port's choice. -/
def State.coreChoice (s : State) (c : Nat) : Option Cand :=
  match (s.candidates c).find? fun x => !x.u.entered with
  | some x => some x
  | none => s.portChoice c

/-- The lowest core whose port has not issued in this ac and has a candidate. -/
def State.nextIssue (s : State) : Option Cand :=
  if !s.issuing then none else
  s.liveCores.findSome? fun c => if (s.core c).issuedAt = some s.now then none else s.coreChoice c

/-- The other candidates of a core, ready in this ac and not chosen, grow older (R34). -/
def State.passOver (s : State) (core uid : Nat) : State :=
  let ids := (s.candidates core).map Cand.uid
  s.setUnits (s.units.map fun q => if q.1 ≠ uid ∧ ids.contains q.1 then (q.1, { q.2 with passes := q.2.passes + 1 }) else q)

/-- The state with a unit chosen; an instruction takes the core's issue of the ac, entering a clause does not. -/
def State.chosen (s : State) (k : Cand) : State :=
  let s' := (s.setOpening false).setCur (some k.uid)
  if k.u.entered then
    match s.casOfPane k.u.pane with
    | some ca => (s'.passOver ca.core k.uid).updCore ca.core fun c => { c with
        issuedAt := some s.now
        datapath := if usesDatapath k.u then
            s.now + occupancy (nextInstr k.u) (((s.launchOfPane k.u.pane).map LaunchSt.M).getD 1)
          else c.datapath
        accFree := if usesStore k.u then
            s.now + storeOccupancy (nextInstr k.u) (((s.launchOfPane k.u.pane).map LaunchSt.M).getD 1)
          else c.accFree }
    | none => s'
  else s'

end Sys2Proof.Machine
end

