-- ==== Sys2Proof/Machine/Units.lean ====
section
/-! DEFINITION. What units share: the release and acquire steps (R148), batches sealed (R163), merges (R57), barriers (R59), the
baton's release (R118), detaching and ending (R54, R311). -/

namespace Sys2Proof.Machine

/-! ## Release and acquire (R146, R148, R209) -/

/-- L1 of a core gives up every word it does not own, and installs no fill requested before (R146). -/
def State.acquire (s : State) (core : Nat) : State :=
  let kept := fun (l : Nat) => (List.range 8).any fun k => s.owner.find (8 * l + k) == some core
  (s.updCore core fun c => { c with
    l1 := []
    l1valid := []
    lru := c.lru.filter kept
    acqId := s.nextId }).cleanL1 core fun l => !kept l

/-- The trap of failed remote stores (R209): the first in issue order names cause and erem. -/
def storeTrap (fs : List StoreFail) : Option Trap :=
  match fs with
  | [] => none
  | f :: r =>
    let first := r.foldl (fun b x => if x.ord < b.ord then x else b) f
    some { cause := if bits first.erem 40 8 = 1 then 0x0B else 0x0A
           mask := unionMask (fs.map StoreFail.mask)
           eaddr := (fs.map StoreFail.eaddr).foldl min f.eaddr
           erem := first.erem }

/-- THE RELEASE STEP (R148): waits until every earlier access is performed, raises failed stores, then goes on (DEDUCED, log
entry 24). -/
def View.release (v : View) (k : State → Act) : Act :=
  if !v.s.allPerformed v.uid then .wait v.s .performed
  else match storeTrap v.u.fails with
    | some t => .trap (v.s.updUnit v.uid fun u => { u with fails := [] }) t
    | none => k v.s

/-- The acquire step for one unit whose reads are bound: its loads are covered and its core's L1 invalidated (R264). -/
def State.acquireUnit (s : State) (uid core : Nat) : State :=
  (s.updUnit uid UnitSt.coverLoads).acquire core

/-! ## Batches (R163) -/

/-- One lane's open batch sealed and submitted; an empty one produces nothing. -/
def State.sealLane (s : State) (uid pid ctx core lane : Nat) : State :=
  match s.panes.find pid with
  | none => s
  | some p =>
    match p.openB.getD lane [] with
    | [] => s
    | ops =>
      let (s, id) := (s.putPane pid { p with openB := p.openB.del lane }).fresh
      s.putPend ⟨id, uid, pid, ctx, core, 0, .other, 0, s.now, s.now + 64, false, 0, .copy lane ops [] [] 0⟩

/-- The lanes of a mask whose open batch holds a copy. -/
def openLanes (p : PaneSt) (m : Mask) : List Nat := (lanesOf m).filter fun l => (p.openB.getD l []) != []

/-- Lanes sealed in ascending order. -/
def State.sealLanes (s : State) (uid pid ctx core : Nat) (ls : List Nat) : State :=
  ls.foldl (fun s l => s.sealLane uid pid ctx core l) s

/-! ## The baton (R118) -/

/-- The baton free from this ac. -/
def State.freeBaton (s : State) (core : Nat) : State :=
  s.updCore core fun c => { c with baton := none, releasing := false, freedAt := s.now }

/-- The pane gives up the baton, once its engine operations have completed (DEDUCED, log entry 30). -/
def State.releaseBaton (s : State) (core pid : Nat) : State :=
  if (s.core core).baton = some pid then
    if (s.core core).engQ.any fun o => o.pane == pid then s.updCore core fun c => { c with releasing := true }
    else s.freeBaton core
  else s

/-! ## Merging (R57) -/

/-- Work in flight of merging units handed to the unit that survives, its kinds numbered afresh in issue order. -/
def adoptPend (survivor : Nat) (members : List Nat) (ps : Map Pend) : Map Pend :=
  let mine := fun (q : Pend) => members.contains q.uid
  ps.map fun q => if mine q.2 then
    (q.1, { q.2 with
      uid := survivor
      ord := 1 + (ps.filter fun r => mine r.2 && decide (r.2.kind = q.2.kind) && decide (r.1 < q.1)).length })
    else q

/-- How many pieces of work of a kind the members have in flight. -/
def heldOf (members : List Nat) (k : Kind) (ps : Map Pend) : Nat :=
  (ps.filter fun q => members.contains q.2.uid && decide (q.2.kind = k)).length

/-- The unit of lowest detach sequence. -/
def lowestSeq (q : Nat × UnitSt) (r : List (Nat × UnitSt)) : Nat × UnitSt :=
  r.foldl (fun b x => if x.2.seq < b.2.seq then x else b) q

/-- Log reservations of a context returned. -/
def State.unreserve (s : State) (ctx n : Nat) : State :=
  if n = 0 then s else s.updCtx ctx fun c => { c with reserved := c.reserved - n }

/-- The merge of the units of a group (R57). -/
def State.mergeUnits (s : State) (ctx core slot : Nat) (q : Nat × UnitSt) (r : List (Nat × UnitSt)) : State :=
  let low := lowestSeq q r
  let us := q :: r
  let ids := us.map Prod.fst
  let renamed := fun (a : List (Nat × Nat)) => a.map fun x => if ids.contains x.1 then (low.1, x.2) else x
  let u' : UnitSt := { low.2 with
    past := (renamed (us.flatMap fun x => x.2.past)).eraseDups
    acquired := us.any fun x => x.2.acquired
    domain := unionMask (us.map fun x => x.2.domain)
    xm := unionMask (us.map fun x => x.2.xm)
    rstack := low.2.rstack.tail
    uncov := []
    fails := us.flatMap fun x => x.2.fails
    hostPorts := us.foldl (fun a x => a ||| x.2.hostPorts) 0
    defer := us.flatMap fun x => x.2.defer
    nLd := heldOf ids .load s.pend
    nSt := heldOf ids .store s.pend
    nMx := heldOf ids .matrix s.pend
    resv := 0
    seated := false
    queuedAt := s.now }
  let s1 : State := { s with
    units := Map.put ((s.units.filter fun x => !ids.contains x.1).map fun x => (x.1, { x.2 with past := renamed x.2.past })) low.1
      (u'.advance 1 s.now)
    shadows := s.shadows.map fun x => if ids.contains x.uid then { x with uid := low.1 } else x
    pend := adoptPend low.1 ids s.pend
    cores := s.cores.map fun x => (x.1, { x.2 with
      engQ := x.2.engQ.map fun o => if ids.contains o.uid then { o with uid := low.1 } else o }) }
  let s2 := s1.unreserve ctx ((us.map fun x => x.2.resv).foldl (· + ·) 0)
  if (s2.ctx ctx).logFlag 2 then
    s2.logEntry ctx core 0x04 (low.2.seq % 65536 * 2 ^ 48 + slot * 2 ^ 26) us.length
  else s2

/-- The merge made when every unit of an entry's group has arrived; the exited ones have left the group. -/
def State.tryMerge (s : State) (pid eid : Nat) : State :=
  match (s.unitsOf pid).filter fun q => q.2.rstack.any fun e => e.id == eid with
  | [] => s
  | q :: r =>
    if (q :: r).all fun x => x.2.park = .join eid then
      match s.casOfPane pid with
      | none => s
      | some ca => s.mergeUnits (s.ctxOfCas ca) ca.core (((s.panes.find pid).map PaneSt.slot).getD 0) q r
    else s

/-! ## Barriers (R59, R60) -/

/-- Every live unit of the pane is parked at the barrier of a kind, and the pane has not exited. -/
def State.paneArrived (s : State) (pid : Nat) (k : Park) : Bool :=
  ((s.panes.find pid).map fun p => !p.exited).getD false && !(s.unitsOf pid).isEmpty &&
    (s.unitsOf pid).all fun q => decide (q.2.park = k)

/-- Every pane of the casement has arrived. -/
def State.casArrived (s : State) (cid : Nat) (k : Park) : Bool :=
  !(s.panesOf cid).isEmpty && (s.panesOf cid).all fun q => s.paneArrived q.1 k

/-- A unit released from a barrier: past its own instruction, its loads covered, queued for a seat. -/
def UnitSt.released_ (u : UnitSt) (now : Nat) : UnitSt :=
  { (u.coverLoads.advance 1 now) with seated := false, queuedAt := now }

/-- The units of a casement parked at a barrier of a kind resume; their core acquires. -/
def State.resumeBar (s : State) (cid core : Nat) (k : Park) : State :=
  let pids := (s.panesOf cid).map Prod.fst
  ({ s with units := s.units.map fun q =>
      if pids.contains q.2.pane ∧ q.2.park = k then (q.1, q.2.released_ s.now) else q } : State).acquire core

/-- The clause of the first arrival: the lowest unit of an arrived pane. -/
def State.arrivalPc (s : State) (cid : Nat) (k : Park) : Nat :=
  match (s.panesOf cid).find? fun q => s.paneArrived q.1 k with
  | none => 0
  | some q => ((s.unitsOf q.1).map fun x => x.2.pc).headD 0

/-- The casement's barrier completed, or its count started at the first pane's arrival. -/
def State.checkBar (s : State) (cid : Nat) : State :=
  match s.cas.find cid with
  | none => s
  | some ca =>
    if s.casArrived cid .bar then
      (s.resumeBar cid ca.core .bar).updCas cid fun c => { c with barStart := none, barPc := 0 }
    else if ca.barStart.isNone ∧ (s.panesOf cid).any fun q => s.paneArrived q.1 .bar then
      s.updCas cid fun c => { c with barStart := some s.now, barPc := s.arrivalPc cid .bar }
    else s

/-- The sash's barrier completed, or its count started at the first casement's arrival (DEDUCED, log entry 37). -/
def State.checkSbar (s : State) (cid : Nat) : State :=
  match s.cas.find cid with
  | none => s
  | some ca =>
    match s.launches.find ca.lid with
    | none => s
    | some l =>
      let sash := s.sashOf ca
      if sash.length = l.sashSize ca.gx ca.gy ∧ sash.all fun q => s.casArrived q.1 .sbar then
        sash.foldl (fun s q => (s.resumeBar q.1 q.2.core .sbar).updCas q.1 fun c =>
          { c with sbarStart := none, sbarPc := 0 }) s
      else if ca.sbarStart.isNone ∧ s.casArrived cid .sbar then
        sash.foldl (fun s q => s.updCas q.1 fun c => { c with sbarStart := some s.now, sbarPc := s.arrivalPc cid .sbar }) s
      else s

/-! ## Detaching and ending -/

/-- Address of the next instruction of a unit (R62). -/
def UnitSt.nextPc (u : UnitSt) : Nat := (u.pc + 4 * u.idx) % 2 ^ 57

/-- A fragment of unit uid with its own domain (R48, R54): stacks and trap state copied, nothing of its own outstanding; it
continues the program order of the unit, whose work has the identities below `before` (R143). -/
def UnitSt.fragment (u : UnitSt) (uid before seq now : Nat) (m : Mask) : UnitSt :=
  { u with
    past := (uid, before) :: u.past
    seq := seq, domain := m, xm := m, nLd := 0, nSt := 0, nMx := 0, uncov := [], defer := [], fails := []
    park := .ready, parkedAt := now, lastIssue := now, passes := 0, seated := false, queuedAt := now
    released := false, logHeld := false, resv := 0 }

/-- A fragment detached from the view's unit; `at_` places it. The log entry 0x03 is written while FRAG is on (R243). -/
def View.detach (v : View) (s : State) (m : Mask) (place : UnitSt → UnitSt) : State :=
  match s.panes.find v.pid with
  | none => s
  | some p =>
    let (s, id) := (s.putPane v.pid { p with nextSeq := p.nextSeq + 1 }).fresh
    let f := place (v.u.fragment v.uid id p.nextSeq s.now m)
    let s := s.putUnit id f
    let s := s.updUnit v.uid fun u => { u with domain := u.domain &&& ~~~m, xm := u.xm &&& ~~~m, uncov := [] }
    if (s.ctx v.ctx).logFlag 2 then
      s.logEntry v.ctx v.core 0x03
        (f.seq % 65536 * 2 ^ 48 + v.u.seq % 65536 * 2 ^ 32 + v.p.slot * 2 ^ 26) f.nextPc
    else s

/-- A unit ends (R311): it counts as arrived for its entries, and a pane without units has wholly exited. -/
def State.endUnit (s : State) (uid : Nat) : State :=
  match s.units.find uid with
  | none => s
  | some u =>
    match s.panes.find u.pane, s.casOfPane u.pane with
    | some p, some ca =>
      let s := (s.setUnits (s.units.del uid)).unreserve (s.ctxOfCas ca) u.resv
      let s := u.rstack.foldl (fun s e => s.tryMerge u.pane e.id) s
      let s := s.updPane u.pane fun p => { p with lastExit := u.nextPc, exited := (s.unitsOf u.pane).isEmpty }
      let s := if (s.unitsOf u.pane).isEmpty then s.releaseBaton ca.core u.pane else s
      (s.checkBar p.cas).checkSbar p.cas
    | _, _ => s

end Sys2Proof.Machine
end

