-- ==== Sys2Proof/Machine/Long.lean ====
section
/-! DEFINITION. Long accumulators (R80 to R86): exact sums over 68 limbs with lazily folded carries, their contributions, fold
points, read-outs and images; the operations of major 0x2C (R327 to R330). -/

namespace Sys2Proof.Machine

/-! ## Values -/

/-- A cleared slot (R80). -/
def LongSt.zero : LongSt := ⟨[], 0⟩

/-- Status bits (R80). -/
def lgPINF : Nat := 1
def lgNINF : Nat := 2
def lgNAN : Nat := 4
def lgLOVF : Nat := 8

/-- Limb j with its pending carry; the top limb is signed. -/
def LongSt.limb (a : LongSt) (j : Nat) : Int := a.limbs.getD j 0

/-- One limb set; a zero limb is not listed. -/
def LongSt.setLimb (a : LongSt) (j : Nat) (x : Int) : LongSt :=
  { a with limbs := if x = 0 then a.limbs.del j else a.limbs.put j x }

/-- n · 2^(64j) added or subtracted digit by digit; carries stay in the limbs they arose in (R83). -/
def LongSt.addDigits (neg : Bool) : Nat → Nat → Nat → LongSt → LongSt
  | 0, _, _, a => a
  | f + 1, j, n, a =>
    if n = 0 then a
    else LongSt.addDigits neg f (j + 1) (n / 2 ^ 64) (a.setLimb j (a.limb j + sgnM neg (n % 2 ^ 64)))

/-- The exact value (−1)^neg · m · 2^e added (R81); e is at least −2176 for every FP64 value and product. -/
def LongSt.addFin (a : LongSt) (neg : Bool) (m : Nat) (e : Int) : LongSt :=
  let p := (e + 2176).toNat
  if e + 2176 < 0 then a.addDigits neg 5 0 (m / 2 ^ (-(e + 2176)).toNat)
  else a.addDigits neg 5 (p / 64) (m * 2 ^ (p % 64))

/-- Status bits set. -/
def LongSt.flag (a : LongSt) (b : Nat) : LongSt := { a with status := a.status ||| b }

/-- One value contributed (R81): a special sets status bits in place of being added. -/
def LongSt.addV (a : LongSt) (v : FV) : LongSt :=
  match v with
  | .nan _ => a.flag lgNAN
  | .inf ng => a.flag (if ng then lgNINF else lgPINF)
  | .fin ng m e => a.addFin ng m e

/-- One code of a format contributed, with its fstat bit (R81). -/
def LongSt.addCode (f : Fmt) (a : LongSt × Nat) (c : Nat) : LongSt × Nat :=
  (a.1.addV (f.val c), a.2 ||| (if f.isSNaN c then flINV else 0))

/-- One product contributed, with its fstat bit (R81). -/
def LongSt.addProd (f : Fmt) (a : LongSt × Nat) (c d : Nat) : LongSt × Nat :=
  let sn := if f.isSNaN c || f.isSNaN d then flINV else 0
  if f.isNaN c || f.isNaN d then (a.1.flag lgNAN, a.2 ||| sn)
  else match mulV (f.val c) (f.val d) with
    | .bad => (a.1.flag lgNAN, a.2 ||| flINV)
    | .inf ng => (a.1.flag (if ng then lgNINF else lgPINF), a.2)
    | .fin ng m e => (a.1.addFin ng m e, a.2)

/-- Limb j carries beyond its 64 digit bits. -/
def LongSt.carries (a : LongSt) (j : Nat) : Bool :=
  decide (a.limb j < 0) || decide ((2 ^ 64 : Int) ≤ a.limb j)

/-- The slot with carries moved up through limb n − 1, the carry into limb n, and the highest limb a carry reached. -/
def LongSt.carryUp : Nat → LongSt → LongSt × Int × Nat
  | 0, a => (a, 0, 0)
  | n + 1, a =>
    let (b, c, hi) := LongSt.carryUp n a
    let t := b.limb n + c
    (b.setLimb n (t % 2 ^ 64), t / 2 ^ 64, if t / 2 ^ 64 = 0 then hi else n + 1)

/-- A slot with no pending carries whose top limb is in range. -/
def LongSt.canonical (a : LongSt) : Bool :=
  a.limbs.all fun q => if q.1 = 67 then decide (clampS 64 q.2 = q.2) else decide (0 ≤ q.2) && decide (q.2 < 2 ^ 64)

/-- THE FOLD (R83): canonical digits; LOVF where the unbounded sum lies outside the range. The top limb keeps its guard bits, so
that the sum stays known; its digit is its value modulo 2^64. -/
def LongSt.fold (a : LongSt) : LongSt × Bool :=
  if a.canonical then (a, false)
  else
    let (b, c, _) := a.carryUp 67
    let t := b.limb 67 + c
    if clampS 64 t = t then (b.setLimb 67 t, false)
    else ((b.setLimb 67 t).flag lgLOVF, true)

/-- The extra ac of a fold point (R83): the limbs from the lowest pending carry to the highest limb reached. -/
def LongSt.foldTime (a : LongSt) : Nat :=
  match (List.range 67).find? a.carries with
  | none => 0
  | some lo => (a.carryUp 67).2.2 - lo + 1

/-- The canonical digit of limb j of a folded slot. -/
def LongSt.digit (a : LongSt) (j : Nat) : Nat := wrap 64 (a.limb j)

/-- V of a folded slot, as its digits give it (R80). -/
def LongSt.V (a : LongSt) : Int :=
  ((List.range 68).map fun j => (if j = 67 then signed 64 (a.digit j) else a.limb j) * 2 ^ (64 * j)).sum

/-- The value of one slot added into another, limb by limb, and the status words ORed (R81, R328). -/
def LongSt.merge (a b : LongSt) : LongSt :=
  { (List.range 68).foldl (fun x j => x.setLimb j (x.limb j + b.limb j)) a with status := a.status ||| b.status }

/-- `lrnd` on a folded slot (R84 Table 2). -/
def LongSt.read (f : Fmt) (rm : RMode) (a : LongSt) : FRes :=
  let nan := a.status &&& lgNAN != 0
  let pinf := a.status &&& lgPINF != 0
  let ninf := a.status &&& lgNINF != 0
  if nan || (pinf && ninf) then ⟨f.canon, if nan then 0 else flINV, false⟩
  else if pinf then ⟨f.infCode false, 0, false⟩
  else if ninf then ⟨f.infCode true, 0, false⟩
  else if a.status &&& lgLOVF != 0 then ⟨f.infCode (decide (a.V < 0)), flOVF ||| flINX, true⟩
  else f.roundInt rm false false a.V (-2176)

/-- The 576-byte image of a folded slot (R85). -/
def LongSt.image (a : LongSt) : List Byte :=
  bytesOf ((List.range 68).map a.digit ++ [a.status, 0, 0, 0])

/-- A slot from its image (R85): the top limb signed, the status' bits [3:0]. -/
def LongSt.ofImage (bs : List Byte) : LongSt :=
  let word := fun (j : Nat) => ofBytes ((bs.drop (8 * j)).take 8)
  (List.range 68).foldl (fun a j => a.setLimb j (if j = 67 then signed 64 (word j) else (word j : Int)))
    ⟨[], word 68 % 16⟩

/-! ## Slots of a casement -/

/-- The executing copies in ascending lane, then member order (R328). -/
def View.ordered (v : View) (c : Cls) : List Nat :=
  match c with
  | .vec => laneOrder v.E
  | c => slotsOf c v.E

/-- The slot a copy names (R327). -/
def View.slotNo (v : View) (i : Instr) (z : Opnd) (q : Nat) : Nat := (v.rd i z q).toNat

/-- SLOT (R327): the copies whose slot is not declared, over every slot operand. -/
def slotTrap (v : View) (i : Instr) (zs : List Opnd) : Option Trap :=
  let bad := zs.flatMap fun z => (v.slots i).filterMap fun q =>
    if v.l.lslots ≤ v.slotNo i z q then some (v.slotNo i z q, slotMask i.cls v.E q) else none
  match bad with
  | [] => none
  | b :: r => some { cause := 0x16, mask := unionMask (bad.map Prod.snd), efd := (r.map Prod.fst).foldl min b.1 }

/-- What the slot operands add to the common causes. -/
def slotEarly (i : Instr) (zs : List Opnd) (v : View) : Early := { rank4 := slotTrap v i zs }

/-- A slot named that waits for an image (R82). -/
def View.busySlot (v : View) (i : Instr) (zs : List Opnd) : Option Nat :=
  (zs.flatMap fun z => (v.slots i).map (v.slotNo i z)).find? fun z => !v.s.waitOver v.uid v.u (.slot z)

/-- The slots of a casement, as a map. -/
abbrev Longs := Map LongSt

/-- One slot folded, with the fstat bit of a LOVF found there (R83, R328). -/
def foldSlot (a : Longs × Nat) (k : Nat) : Longs × Nat :=
  let r := (a.1.getD k .zero).fold
  (a.1.put k r.1, a.2 ||| (if r.2 then 2 ^ 11 else 0))

/-- Poison marks of limbs removed. -/
def State.cleanLimbs (s : State) (cid : Nat) (hit : Nat → Nat → Bool) : State :=
  if s.poison.isEmpty then s else s.setPoison (s.poison.filter fun x => match x with
    | .limb c k j => !(c == cid && hit k j)
    | _ => true)

/-- The limbs of a slot that are poisoned. -/
def State.poisonedLimbs (s : State) (cid k : Nat) : List Nat :=
  s.poison.filterMap fun x => match x with
    | .limb c k' j => if c = cid ∧ k' = k then some j else none
    | _ => none

/-- AN OPERATION WITHOUT A REGISTER RESULT (R328): the copies in order, over slots that hold no pending image. -/
def slotOp (i : Instr) (zs : List Opnd) (f : View → Longs × Nat → Nat → Longs × Nat) (after : View → State → State)
    (s : State) : Out :=
  issueWith i (slotEarly i zs) (fun v =>
    match v.busySlot i zs with
    | some z => .wait v.s (.slot z)
    | none =>
      let r := (v.ordered i.cls).foldl (f v) (v.ca.longs, 0)
      .next (after v (v.withFlags (v.s.updCas v.cid fun c => { c with longs := r.1 }) r.2))) s

/-- A contribution to the slot that copy q of z names. -/
def contribute (i : Instr) (z : Opnd) (add : View → LongSt × Nat → Nat → LongSt × Nat) (v : View) (a : Longs × Nat)
    (q : Nat) : Longs × Nat :=
  let k := v.slotNo i z q
  let r := add v (a.1.getD k .zero, a.2) q
  (a.1.put k r.1, r.2)

/-! ## Operations (R328) -/

/-- `lclr` (R328): value, status and carries 0; its limbs are clean (R240). -/
def execLclr (z : Opnd) (s : State) : Out :=
  let i := Instr.lclr z
  slotOp i [z] (contribute i z fun _ a _ => (.zero, a.2))
    (fun v s => s.cleanLimbs v.cid fun k _ => ((v.slots i).map (v.slotNo i z)).contains k) s

/-- `ladd.f64` (R81). -/
def execLaddF64 (z a : Opnd) (s : State) : Out :=
  let i := Instr.laddF64 z a
  slotOp i [z] (contribute i z fun v x q => LongSt.addCode .f64 x (v.rd i a q).toNat) (fun _ s => s) s

/-- `ladd.f32` (R81): sub-elements 0 and 1. -/
def execLaddF32 (z a : Opnd) (s : State) : Out :=
  let i := Instr.laddF32 z a
  slotOp i [z] (contribute i z fun v x q =>
    (List.range 2).foldl (fun x e => LongSt.addCode .f32 x (sub 32 e (v.rd i a q))) x) (fun _ s => s) s

/-- `ladd.bf16` (R81): sub-elements 0 to 3. -/
def execLaddBf16 (z a : Opnd) (s : State) : Out :=
  let i := Instr.laddBf16 z a
  slotOp i [z] (contribute i z fun v x q =>
    (List.range 4).foldl (fun x e => LongSt.addCode .bf16 x (sub 16 e (v.rd i a q))) x) (fun _ s => s) s

/-- `lmac.f64` (R81): the exact product. -/
def execLmacF64 (z a b : Opnd) (s : State) : Out :=
  let i := Instr.lmacF64 z a b
  slotOp i [z] (contribute i z fun v x q =>
    LongSt.addProd .f64 x (v.rd i a q).toNat (v.rd i b q).toNat) (fun _ s => s) s

/-- `lmac.f32` (R81): the exact products of sub-elements 0 and 1. -/
def execLmacF32 (z a b : Opnd) (s : State) : Out :=
  let i := Instr.lmacF32 z a b
  slotOp i [z] (contribute i z fun v x q =>
    (List.range 2).foldl (fun x e => LongSt.addProd .f32 x (sub 32 e (v.rd i a q)) (sub 32 e (v.rd i b q))) x)
    (fun _ s => s) s

/-- `lmrg` (R328): both slots folded, then the source's value and status added; a poisoned limb poisons the same limb. -/
def execLmrg (z y : Opnd) (s : State) : Out :=
  let i := Instr.lmrg z y
  slotOp i [z, y] (fun v a q =>
    let k := v.slotNo i z q
    let j := v.slotNo i y q
    let b := foldSlot (foldSlot a j) k
    (b.1.put k ((b.1.getD k .zero).merge (b.1.getD j .zero)), b.2))
    (fun v s => s.addPoison (((v.ordered i.cls).flatMap fun q =>
      (v.s.poisonedLimbs v.cid (v.slotNo i y q)).map fun j => Site.limb v.cid (v.slotNo i z q) j).filter
        fun x => !v.s.poison.contains x)) s

/-- `lnrm` (R328): the fold and nothing else. -/
def execLnrm (z : Opnd) (s : State) : Out :=
  let i := Instr.lnrm z
  slotOp i [z] (fun v a q => foldSlot a (v.slotNo i z q)) (fun _ s => s) s

/-- `lwrl` (R328): the fold, then limb j replaced; a j of 68 or more does nothing. -/
def execLwrl (z a j : Opnd) (s : State) : Out :=
  let i := Instr.lwrl z a j
  slotOp i [z] (fun v x q =>
    let k := v.slotNo i z q
    let n := (v.rd i j q).toNat
    if 68 ≤ n then x
    else
      let b := foldSlot x k
      let w := (v.rd i a q).toNat
      let c := (b.1.getD k .zero).setLimb n w
      (b.1.put k (c.setLimb 67 (signed 64 (c.digit 67))), b.2))
    (fun v s => s.cleanLimbs v.cid fun k n => (v.slots i).any fun q => v.slotNo i z q == k && (v.rd i j q).toNat == n) s

/-! ## Read-outs (R329) -/

/-- A READ-OUT: each copy's slot folded, then its result from the folded slot, written after the latency and the longest fold
(R330). `hit` says which poisoned limbs reach the result. -/
def readOut (i : Instr) (d z : Opnd) (lat : Nat) (f : View → LongSt → Nat → FRes) (hit : View → Nat → Nat → Bool)
    (s : State) : Out :=
  issueWith i (slotEarly i [z]) (fun v =>
    match v.busySlot i [z] with
    | some k => .wait v.s (.slot k)
    | none =>
      let qs := v.ordered i.cls
      let r := qs.foldl (fun a q => foldSlot a (v.slotNo i z q)) (v.ca.longs, 0)
      let t := (qs.map fun q => ((v.ca.longs.getD (v.slotNo i z q) .zero).foldTime)).foldl max 0
      let rs := qs.map fun q => (rkey d.code q, f v (r.1.getD (v.slotNo i z q) .zero) q)
      let bad := qs.filterMap fun q =>
        if (v.s.poisonedLimbs v.cid (v.slotNo i z q)).any (hit v q) then some (rkey d.code q, 8) else none
      v.submit (v.s.updCas v.cid fun c => { c with longs := r.1 }) .load (lat + t) (if d.isReg then [d.code] else [])
        (.regs (rs.map fun x => (x.1, w64 x.2.code)) [] bad (rs.foldl (fun a x => a ||| x.2.flags) r.2))) s

/-- `lrnd` (R84): the slot's value rounded once into FP64 or FP32 under the named mode. -/
def execLrnd (f32 : Bool) (rm : RMode) (d z : Opnd) (s : State) : Out :=
  readOut (.lrnd f32 rm d z) d z 22 (fun _ a _ => a.read (if f32 then .f32 else .f64) rm) (fun _ _ _ => true) s

/-- `lrdl` (R329): limb j, the status word for j = 68, 0 beyond. -/
def execLrdl (d z j : Opnd) (s : State) : Out :=
  let i := Instr.lrdl d z j
  readOut i d z 16 (fun v a q =>
    let n := (v.rd i j q).toNat
    ⟨if n < 68 then a.digit n else if n = 68 then a.status else 0, 0, false⟩)
    (fun v q n => decide ((v.rd i j q).toNat = n)) s

/-- `lst` (R329): the status word. -/
def execLst (d z : Opnd) (s : State) : Out :=
  readOut (.lst d z) d z 16 (fun _ a _ => ⟨a.status, 0, false⟩) (fun _ _ n => decide (n = 68)) s

end Sys2Proof.Machine
end

