-- ==== Sys2Proof/Machine/Access.lean ====
section
/-! DEFINITION. How a memory instruction reaches memory: its lines and their translation (R128, R224), the placement of atomics
(R139, R152), the operand log (R226, R158), the trace recorder (R190, R194), L1 and the home (R144 to R147), and what it
leaves in flight. -/

namespace Sys2Proof.Machine

/-! ## Lines and pages -/

/-- The (address, length) parts of a span, one per line (R128). -/
def linesOf : Nat → Nat → Nat → List (Nat × Nat)
  | 0, _, _ => []
  | f + 1, a, n =>
    if n = 0 then []
    else
      let k := min n (64 - a % 64)
      (a, k) :: linesOf f (a + k) (n - k)

/-- The parts of an access. -/
def Acc.parts (a : Acc) : List (Nat × Nat) := linesOf (a.size / 64 + 2) a.ea a.size

/-- What translating a list of accesses finds: caches filled, the parts of each access, traps as (cause, address, positions),
page faults as (page, reason), and a vault region to wait for. -/
structure Found where
  s : State
  locs : List (Acc × List Piece) := []
  traps : List (Nat × Nat × Mask) := []
  faults : List (Nat × Nat) := []
  busy : Option Nat := none

/-- One part translated. A part beyond virtual address 2^57 wraps (DESIGN CHOICE, log entry 63: the spec gives such bytes no
rule). -/
def Found.part (ctx : Nat) (k : AccKind) (m : Mask) (r : Found × List Piece) (q : Nat × Nat) : Found × List Piece :=
  let f := r.1
  match f.s.xlate ctx k (q.1 % 2 ^ 57) with
  | .pageFault reason => ({ f with faults := f.faults ++ [(pageOf q.1, reason)] }, r.2)
  | .trap c => ({ f with traps := f.traps ++ [(c, q.1 % 2 ^ 57, m)] }, r.2)
  | .ok pa l =>
    let f := { f with s := f.s.cache ctx (q.1 % 2 ^ 57) l }
    let here := r.2 ++ [⟨q.1 % 2 ^ 57, q.2, pa, l⟩]
    match frameOf f.s.dev pa with
    | .vault g off => match f.s.vaultCheck g off with
      | .ok _ => (f, here)
      | .error true => ({ f with busy := some g }, here)
      | .error false => ({ f with traps := f.traps ++ [(causeVAULT, q.1 % 2 ^ 57 / 64 * 64, m)] }, here)
    | _ => (f, here)

/-- One access translated. -/
def Found.access (ctx : Nat) (k : AccKind) (f : Found) (a : Acc) : Found :=
  let r := a.parts.foldl (Found.part ctx k a.mask) (f, [])
  { r.1 with locs := r.1.locs ++ [(a, r.2)] }

/-- EVERY LINE OF AN INSTRUCTION TRANSLATED (R128, R224). -/
def State.locate (s : State) (ctx : Nat) (k : AccKind) (accs : List Acc) : Found :=
  accs.foldl (Found.access ctx k) { s := s }

/-- The trap of lowest rank among those found: PROT, VAULT, ORDRET, FAULTFATAL (R234); the lowest failing address (R235)
(DEDUCED, log entry 17). -/
def pickTrap (ts : List (Nat × Nat × Mask)) (deferred : Bool) : Option Trap :=
  let of := fun (c : Nat) => ts.filter fun t => t.1 = c
  let mk := fun (c : Nat) => match of c with
    | [] => none
    | t :: r => some { cause := c, mask := unionMask ((t :: r).map fun x => x.2.2)
                       efd := if deferred then 2 ^ 63 else 0
                       eaddr := (r.map fun x => x.2.1).foldl min t.2.1 : Trap }
  [causePROT, causeVAULT, 0x10, causeFATAL].findSome? mk

/-! ## Kinds of access -/

/-- The kind of access an operation makes (R124, R142). -/
def MemOp.kind : MemOp → AccKind
  | .store | .tileOut | .save _ => .write
  | .atom .. | .atom2 .. | .ctinc => .atomic
  | _ => .read

/-- The ACC bit of a fault record (R229 Table 8). -/
def accBit : AccKind → Nat
  | .read => accRead | .write => accWrite | .atomic => accAtomic | .fetch => accFetch

/-- An atomic placed on a frame under a leaf's AP (R139 Table 8, R152). -/
def atomicPlaced (f : Frame) (ap : Nat) (op : MemOp) : Bool :=
  match f with
  | .hbm _ => decide (ap ≤ 1)
  | .vault .. | .cxl _ => ap == 0
  | .host => ap == 2 && (match op with
    | .atom .add .i64 _ | .atom .cas .i64 _ => true
    | _ => false)
  | .peer .. => decide (ap ≤ 1)
  | _ => false

/-- The placement that an operation's own rules refuse with PROT: atomics (R139, R152), counters (R186, R302), a watched word in
host memory (R373), tiles, squares, job descriptors and images outside local frames (R338, R350, R357, R363). -/
def opRefuses (d : DevSt) (op : MemOp) (p : Piece) : Bool :=
  match op with
  | .atom .. | .atom2 .. => !atomicPlaced (frameOf d p.pa) p.leaf.ap op
  | .ctinc | .ctwt => (match frameOf d p.pa with
    | .hbm _ => p.leaf.ap != 1
    | _ => true)
  | .wadr => decide (frameOf d p.pa = .host)
  | .tileIn | .tileOut | .rqt | .job | .save _ | .restore _ => !(frameOf d p.pa).local
  | _ => false

/-- Accesses translated for an operation: a cached entry under which its own rules refuse a place is dropped and walked afresh, as
any entry that refuses an access (R225). -/
def State.locateFor (s : State) (ctx : Nat) (op : MemOp) (accs : List Acc) : Found :=
  let f := s.locate ctx op.kind accs
  match (f.locs.flatMap Prod.snd).filter (opRefuses s.dev op) with
  | [] => f
  | ps => (s.setTlb (s.tlb.filter fun q => !ps.any fun p => tlbKey ctx p.va == q.1)).locate ctx op.kind accs

/-- A request's accesses translated: `rqt` reads those marked 0 and writes those marked 1 (R119). -/
def State.locateReq (s : State) (ctx : Nat) (r : MemReq) : Found :=
  if r.op = .rqt then
    let f := s.locate ctx .read (r.accs.filter fun a => a.cmp = 0)
    let g := f.s.locate ctx .write (r.accs.filter fun a => a.cmp ≠ 0)
    { g with
      locs := f.locs ++ g.locs
      traps := f.traps ++ g.traps
      faults := f.faults ++ g.faults
      busy := match f.busy with
        | some k => some k
        | none => g.busy }
  else s.locateFor ctx r.op r.accs

/-- The ACC bits of a request on a page (R229). -/
def reqAcc (r : MemReq) (page : Nat) : Nat :=
  if r.op = .rqt then
    (r.accs.filter fun a => a.parts.any fun q => pageOf q.1 == page).foldl
      (fun m a => m ||| (if a.cmp = 0 then accRead else accWrite)) 0
  else accBit r.op.kind

/-- An atomic that returns its old value (R287). -/
def MemOp.returns : MemOp → Bool
  | .atom _ _ r => r
  | .atom2 _ r => r
  | _ => false

/-- PROT of an operation's own rules, beside the traps of translation. -/
def refusals (d : DevSt) (op : MemOp) (locs : List (Acc × List Piece)) : List (Nat × Nat × Mask) :=
  locs.flatMap fun q => q.2.filterMap fun p => if opRefuses d op p then some (causePROT, p.va, q.1.mask) else none

/-! ## The trace recorder (R190, R194) -/

/-- The slot width of a traced launch's buffer (R191), 0 where the header does not translate. -/
def State.slotWidth (s : State) (l : LaunchSt) : Nat := bits ((s.devReadWord l.ctx (l.traceBuf + 16)).getD 0) 0 17

/-- The address of a word of a casement's slot (R191). -/
def slotAddr (l : LaunchSt) (w linear k : Nat) : Nat := l.traceBuf + 64 + 8 * linear * w + 8 * k

/-- A device write of a launch's own that a page fault holds (R180, R194): noted as an engine item's and replayed at its reply. -/
def State.slotStore (s : State) (ctx core lid va n v : Nat) (marks : Bool) : State :=
  match s.xlate ctx .write (va % 2 ^ 57) with
  | .ok pa l =>
    if (frameOf s.dev pa).local then s.homeWrite ctx ⟨pa, va % 2 ^ 57, n, v, marks && l.trk, false⟩
    else s.updLaunch lid fun l => { l with dropped := true }
  | .pageFault r =>
    let (s, id) := (s.noteFault ctx core (pageOf va) r (accEngine ||| accWrite)).fresh
    s.putPend ⟨id, 0, 0, ctx, core, 0, .other, 0, s.now, s.now, true, 0, .slotWrite lid va n v (pageOf va)⟩
  | .trap _ => s.updLaunch lid fun l => { l with dropped := true }

/-- One run entry written to the slot (R194): an entry without room makes the casement wide and ends its recording; a write
that fails is dropped and noted. -/
def State.writeRun (s : State) (cid : Nat) (r : TRun) : State :=
  match s.cas.find cid with
  | none => s
  | some ca => match s.launches.find ca.lid with
    | none => s
    | some l =>
      let w := s.slotWidth l
      if w ≤ ca.recd.count + 1 then
        s.updCas cid fun c => { c with recd := { c.recd with wide := true, full := true, runs := [] } }
      else
        (s.updCas cid fun c => { c with recd := { c.recd with count := c.recd.count + 1 } }).slotStore l.ctx ca.core ca.lid
          (slotAddr l w ca.linear (ca.recd.count + 1)) 8 (r.len * 2 ^ 48 + r.gran % 2 ^ 48) false

/-- A run that a granule extends: inside it or next to it, within the largest length (R194). -/
def TRun.extend (r : TRun) (g : Nat) : Option TRun :=
  if r.gran ≤ g ∧ g < r.gran + r.len then some r
  else if r.len < 65535 ∧ g = r.gran + r.len then some { r with len := r.len + 1 }
  else if r.len < 65535 ∧ g + 1 = r.gran then some ⟨g, r.len + 1⟩
  else none

/-- A granule recorded by a casement (R194). -/
def State.recordGran (s : State) (cid g : Nat) : State :=
  match s.cas.find cid with
  | none => s
  | some ca =>
    if ca.recd.full then s
    else match (match ca.recd.runs.find? fun r => decide (r.gran ≤ g) && decide (g < r.gran + r.len) with
        | some r => some r
        | none => ca.recd.runs.find? fun r => (r.extend g).isSome) with
      | some r => s.updCas cid fun c => { c with recd := { c.recd with
          runs := (c.recd.runs.filter fun x => x ≠ r) ++ [(r.extend g).getD r] } }
      | none =>
        match ca.recd.runs with
        | old :: rest =>
          if 8 ≤ ca.recd.runs.length then
            let s := s.writeRun cid old
            s.updCas cid fun c => if c.recd.full then c else { c with recd := { c.recd with runs := rest ++ [⟨g, 1⟩] } }
          else s.updCas cid fun c => { c with recd := { c.recd with runs := c.recd.runs ++ [⟨g, 1⟩] } }
        | [] => s.updCas cid fun c => { c with recd := { c.recd with runs := [⟨g, 1⟩] } }

/-- The casement made wide (R194), in a traced launch. -/
def State.makeWide (s : State) (cid : Nat) : State :=
  match s.cas.find cid with
  | none => s
  | some ca =>
    if ((s.launches.find ca.lid).map LaunchSt.traced).getD false then
      s.updCas cid fun c => { c with recd := { c.recd with wide := true } }
    else s

/-- One read part recorded (R190): a tracked local granule, or wide for a host or peer window; `always` is `trec`'s. -/
def State.recordPiece (s : State) (cid : Nat) (always : Bool) (p : Piece) : State :=
  match s.cas.find cid with
  | none => s
  | some ca =>
    if ((s.launches.find ca.lid).map LaunchSt.traced).getD false then
      match frameOf s.dev p.pa with
      | .host | .peer .. => s.makeWide cid
      | f =>
        if f.local ∧ (p.leaf.trk ∨ always) then
          let s := s.recordGran cid (p.pa / 4096)
          if (p.pa + p.n - 1) / 4096 = p.pa / 4096 then s else s.recordGran cid ((p.pa + p.n - 1) / 4096)
        else s
    else s

/-- Every part of a list recorded. -/
def State.recordPieces (s : State) (cid : Nat) (always : Bool) (ps : List Piece) : State :=
  ps.foldl (fun s p => s.recordPiece cid always p) s

/-! ## Latency (R8, R10, R137) -/

/-- Transom stop of a base die. -/
def baseStop (b : Nat) : Nat := if b < 2 then b + 1 else b + 2

/-- Hops between two stops, the shorter way (R10) (DESIGN CHOICE, log entry 2). -/
def hops (a b : Nat) : Nat := min ((a + 6 - b) % 6) ((b + 6 - a) % 6)

/-- Latency to a home region from a core (R137 Table 6). -/
def homeLatency (core g : Nat) : Nat :=
  if g / 4 = core / 16 then (if g % 4 = core % 16 / 4 then 42 else 50)
  else 50 + 8 * hops (baseStop (core / 32)) (baseStop (g / 8))

/-- Unloaded latency of a read served at the home (R137); sill contents are not modelled, so HBM4E and second-tier lines miss
(DESIGN CHOICE, log entry 2). -/
def readLatency (d : DevSt) (core pa : Nat) : Nat :=
  let g := homeRegion pa
  homeLatency core g + (match frameOf d pa with
    | .hbm st => 110 + 8 * hops (baseStop (g / 8)) (baseStop (st / 2))
    | .cxl e => 260 + 8 * hops (baseStop (g / 8)) (if e < 4 then 0 else 3)
    | _ => 0)

/-! ## L1 and the home (R144 to R147) -/

/-- The cache policy of a part (R129, R144). -/
def policyOf (cp : CPol) (l : Leaf) : CPol :=
  match cp with
  | .dflt => (match l.pol with
    | 0 => .dflt | 1 => .dev | 2 => .sys | _ => .str)
  | c => c

/-- A core's unowned L1 copies of a span given up. -/
def State.dropL1 (s : State) (core pa n : Nat) : State :=
  let ws := wordsOfSpan pa n
  if (s.core core).l1valid.any fun w => ws.contains w then
    (s.updCore core fun c => { c with
      l1valid := c.l1valid.filter fun w => !ws.contains w
      l1 := ws.foldl (fun m w => Map.del m w) c.l1 }).cleanL1 core fun l =>
        (ws.any fun w => w / 8 == l) && (List.range 8).all fun k => ws.contains (8 * l + k) ||
          !((s.core core).l1valid.contains (8 * l + k) || s.owner.find (8 * l + k) == some core)
  else s

/-- The chunks of a piece of work that write memory when it completes. -/
def Work.chunks : Work → List Chunk
  | .store cs => cs
  | .write cs => cs
  | .rqt cached others _ => cached ++ others
  | _ => []

/-- A unit's earlier stores that are not performed, in issue order (R143). -/
def State.ownStores (s : State) (uid before : Nat) : List Chunk :=
  (s.pend.vals.filter (s.earlier uid before)).flatMap fun q => q.work.chunks

/-- The bytes of a chunk that lie in a span laid over its value. -/
def overlay (pa n : Nat) (v : Nat) (c : Chunk) : Nat :=
  (List.range n).foldl (fun v k =>
    if c.pa ≤ pa + k ∧ pa + k < c.pa + c.size then
      v - bits v (8 * k) 8 * 2 ^ (8 * k) + bits c.data (8 * (pa + k - c.pa)) 8 * 2 ^ (8 * k)
    else v) v

/-- A store is a unit's own, or that of a unit whose program order it continues (R143). -/
def State.ownShadow (s : State) (uid : Nat) (x : Shadow) : Bool :=
  x.uid == uid || (match s.units.find uid with
    | some u => u.past.any fun a => a.1 == x.uid && decide (x.id < a.2)
    | none => false)

/-- The value that an unacknowledged store of another unit leaves a word with for a unit of its core (R145): the first such store
after the unit's own last one. -/
def State.older (s : State) (core uid word : Nat) : Option Word :=
  (s.shadows.filter fun x => x.core == core && x.word == word && decide (s.now < x.until_)).foldl (fun a x =>
    if s.ownShadow uid x then none
    else match a with
      | some v => some v
      | none => some x.old) none

/-- A byte as a unit of a core sees it under the cached policy (R145, R146). -/
def State.cachedByte (s : State) (core uid a : Nat) : Byte :=
  let c := s.core core
  match (if s.owner.find (a / 8) = some core then s.older core uid (a / 8)
      else if c.l1valid.contains (a / 8) then some (Sparse.read c.l1 (a / 8)) else none) with
  | some v => BitVec.ofNat 8 (bits v.toNat (8 * (a % 8)) 8)
  | none => BitVec.ofNat 8 (s.homeRead a 1)

/-- Every word of a span is valid in a core's L1: owned or filled (R146). -/
def State.inL1 (s : State) (core pa n : Nat) : Bool :=
  (wordsOfSpan pa n).all fun w => s.owner.find w == some core || (s.core core).l1valid.contains w

/-- A line evicted from a core's L1 (R145, R146): unowned words are dropped, owned ones given up. -/
def State.evict (s : State) (core line : Nat) : State :=
  let s1 := (s.dropL1 core (64 * line) 64).cleanL1 core fun l => l == line
  { s1 with
    owner := s1.owner.filter fun q => !(decide (q.1 / 8 = line) && q.2 == core)
    shadows := s1.shadows.filter fun x => !(decide (x.word / 8 = line) && x.core == core) }

/-- Lines that a core's L1 holds at most: 256 KiB of 64-byte lines (R13, R129). -/
def l1Lines : Nat := 4096

/-- A line of a core's L1 used: it becomes the most recently used, and where there is one line too many the least recently used
is evicted (R129). -/
def State.touch (s : State) (core line : Nat) : State :=
  let ls := ((s.core core).lru.filter fun l => l ≠ line) ++ [line]
  if ls.length ≤ l1Lines then s.updCore core fun c => { c with lru := ls }
  else (s.updCore core fun c => { c with lru := ls.tail }).evict core (ls.headD 0)

/-- The unowned words of the line of an address filled from the home, with the poison of its line there (R146, R240). -/
def State.fillL1 (s : State) (core pa : Nat) : State :=
  let new := ((List.range 8).map fun k => pa / 64 * 8 + k).filter fun w => s.owner.find w ≠ some core
  let s1 := (s.updCore core fun c => { c with
    l1valid := c.l1valid ++ new.filter fun w => !c.l1valid.contains w
    l1 := new.foldl (fun m w => Sparse.write m w (w64 (s.homeRead (8 * w) 8))) c.l1 }).touch core (pa / 64)
  if s.linePoisoned pa ∧ !s1.poison.contains (.l1 core (pa / 64)) then s1.addPoison [.l1 core (pa / 64)] else s1

/-- Who makes an access. -/
structure Who where
  uid : Nat
  pid : Nat
  cid : Nat
  core : Nat
  ctx : Nat
  /-- Identities of the unit's work from here on are later than the access. -/
  before : Nat
deriving DecidableEq, Repr

def View.who (v : View) : Who := ⟨v.uid, v.pid, v.cid, v.core, v.ctx, v.s.nextId⟩

/-- The party behind a piece of work. -/
def State.whoOf (s : State) (p : Pend) : Who := ⟨p.uid, p.pane, ((s.panes.find p.pane).map PaneSt.cas).getD 0, p.core, p.ctx, p.id⟩

/-- A READ BOUND (R144, R145): its value, the state with L1 and ownership as the policy leaves them, and its latency. A fill
requested before the core's last acquire is not installed (R146). -/
def State.readPiece (s : State) (w : Who) (cp : CPol) (p : Piece) : Nat × State × Nat :=
  let own := s.ownStores w.uid w.before
  match policyOf cp p.leaf with
  | .dflt =>
    let hit := s.inL1 w.core p.pa p.n
    let v := ofBytes ((List.range p.n).map fun k => s.cachedByte w.core w.uid (p.pa + k))
    (own.foldl (overlay p.pa p.n) v, if hit then s.touch w.core (p.pa / 64)
      else if (s.core w.core).acqId ≤ w.before then s.fillL1 w.core p.pa else s.dropL1 w.core p.pa p.n,
      if hit then 18 else readLatency s.dev w.core p.pa)
  | _ =>
    (own.foldl (overlay p.pa p.n) (s.homeRead p.pa p.n), (s.recall p.pa p.n).dropL1 w.core p.pa p.n,
      readLatency s.dev w.core p.pa)

/-- The parts of one access bound: its little-endian value, its poisoned bytes reported by line (DESIGN CHOICE, log entry 8). -/
def State.readPieces (s : State) (w : Who) (cp : CPol) : List Piece → Nat × State × Nat
  | [] => (0, s, 0)
  | p :: r =>
    let (v, s1, t) := s.readPiece w cp p
    let (v', s2, t') := State.readPieces s1 w cp r
    (v + 2 ^ (8 * p.n) * v', s2, max t t')

/-- Any line of the parts is poisoned at the home. -/
def State.piecesPoisoned (s : State) (ps : List Piece) : Bool := ps.any fun p => s.linePoisoned p.pa

/-- A party that reads the parts under a policy meets poison (R240): its core's L1 line where it hits, else the line at the home. -/
def State.readPoisoned (s : State) (w : Who) (cp : CPol) (ps : List Piece) : Bool :=
  !s.poison.isEmpty && ps.any fun p =>
    if policyOf cp p.leaf = .dflt ∧ s.inL1 w.core p.pa p.n then
      s.poison.contains (.l1 w.core (p.pa / 64)) ||
        (s.linePoisoned p.pa && (wordsOfSpan p.pa p.n).any fun k => s.owner.find k == some w.core)
    else s.linePoisoned p.pa

/-- The lines that spans cover whole (R240). -/
def coveredLines (spans : List (Nat × Nat)) : List Nat :=
  let bs := spans.flatMap fun q => (List.range q.2).map fun k => q.1 + k
  ((bs.map fun b => b / 64).eraseDups).filter fun l => (List.range 64).all fun k => bs.contains (64 * l + k)

/-- The lines that an instruction's stores cover whole are clean, but for those they carry poison into (R240). -/
def State.clearWhole (s : State) (core : Nat) (cs : List Chunk) : State :=
  if s.poison.isEmpty then s
  else
    let full := (coveredLines (cs.map fun c => (c.pa, c.size))).filter fun a => !cs.any fun c => c.bad && c.pa / 64 == a
    (s.setPoison (s.poison.filter fun x => match x with
      | .line a => !full.contains a
      | _ => true)).cleanL1 core full.contains

/-! ## Atomics (R288, R290) -/

/-- RoundAtom and the floating-point minimum and maximum of R288 on codes of a format. -/
def atomFloat (f : Fmt) (o : AtomOp) (old v : Nat) : Nat :=
  let m := FMode.plain .rne
  match o with
  | .add => (fpAdd f m false old v).code
  | .min => (fpMinMax f m false old v).code
  | _ => (fpMinMax f m true old v).code

/-- Bytes of an atomic's element. -/
def atomWidth : AType → Nat
  | .i32 | .f32 => 4
  | _ => 8

/-- AtomOp of R288 Table 2: the new value of an element. -/
def atomApply (o : AtomOp) (t : AType) (old v cmp : Nat) : Nat :=
  let n := 8 * atomWidth t
  match o with
  | .and => old &&& v
  | .or => old ||| v
  | .xor => old ^^^ v
  | .xchg => v % 2 ^ n
  | .cas => if old = v % 2 ^ n then cmp % 2 ^ n else old
  | o => match t with
    | .f32 => atomFloat .f32 o old (v % 2 ^ 32)
    | .f64 => atomFloat .f64 o old v
    | _ => match o with
      | .add => (old + v) % 2 ^ n
      | .min => if signed n v < signed n old then v % 2 ^ n else old
      | _ => if signed n old < signed n v then v % 2 ^ n else old

/-- Both halves of an `atom2` (R290). -/
def atom2Apply (o : Atom2Op) (old v : Nat) : Nat :=
  let half := fun (h : Nat) =>
    let a := bits old (16 * h) 16
    let b := bits v (16 * h) 16
    match o with
    | .addBf16 => atomFloat .bf16 .add a b
    | .addF16 => atomFloat .f16 .add a b
    | .minBf16 => atomFloat .bf16 .min a b
    | .maxBf16 => atomFloat .bf16 .max a b
  half 0 + 2 ^ 16 * half 1

/-- The new value of an element under an atomic operation. -/
def MemOp.apply (op : MemOp) (old v cmp : Nat) : Nat :=
  match op with
  | .atom o t _ => atomApply o t old v cmp
  | .atom2 o _ => atom2Apply o old v
  | _ => old


/-! ## Ownership transfers in the log (R243 to R245) -/

/-- The words of a span that another core owns. -/
def State.foreignWords (s : State) (core pa n : Nat) : List (Nat × Nat) :=
  if s.owner.isEmpty then [] else
  (wordsOfSpan pa n).filterMap fun k => match s.owner.find k with
    | some c => if c = core then none else some (k, c)
    | none => none

/-- One 0x05 entry for each line of a span whose words move from another core, while OWN is on. -/
def State.logTransfers (s : State) (w : Who) (pa n : Nat) : State :=
  if !(s.ctx w.ctx).logFlag 3 then s
  else
    let ws := s.foreignWords w.core pa n
    ((ws.map fun q => q.1 / 8).eraseDups).foldl (fun s line =>
      let here := ws.filter fun q => q.1 / 8 = line
      s.logEntry w.ctx w.core 0x05 (line * 64)
        (((here.map Prod.snd).headD 0) * 2 ^ 56 + w.core * 2 ^ 48 + here.length)) s

/-! ## Sequence counters (R186, R303, R304) -/

/-- The unit of a satisfied `ctwt` goes on: past its instruction, queued for a seat in the next ac (R304). -/
def UnitSt.counterMet (u : UnitSt) (now : Nat) : UnitSt :=
  { u.pass now with seated := false, queuedAt := now + 1 }

/-- Waits on a counter whose value reaches their threshold end (R186). -/
def State.testCounter (s : State) (pa : Nat) : State :=
  let v := s.mem.readNat pa 8
  let met := s.pend.vals.filter fun q => match q.work with
    | .ctwt (some a) thr => a == pa && decide (thr ≤ v)
    | _ => false
  met.foldl (fun s q => (s.updUnit q.uid fun u => if u.park = .ctwt q.id then u.counterMet s.now else u).dropPend q.id) s

/-- Where a context's reply counter lies: REPLY of its descriptor is the counter's virtual address (R228, R230) (DEDUCED, log
entry 52). -/
def State.replyPlace (s : State) (ctx : Nat) : Option Nat :=
  let d := (s.ctx ctx).desc
  if d = 0 then none
  else match s.devReadWord ctx (d + 32) with
    | some a => (s.devXlate ctx .read (a % 2 ^ 57)).map Prod.fst
    | none => none

/-- An increment of a context's reply counter noted for PAGE_FAULT_REPLY (R230) (DEDUCED, log entry 52). -/
def State.noteReply (s : State) (pa : Nat) : State :=
  ((s.ctxs.filter fun q => s.replyPlace q.1 == some pa).map Prod.fst).foldl
    (fun s c => s.updCtx c fun x => { x with replies := x.replies + 1 }) s

/-- A counter incremented, saturating, at its atomic unit, its waits tested and a reply noted (R303, R230). -/
def State.increment (s : State) (ctx : Nat) (c : Chunk) : State :=
  let old := s.mem.readNat c.pa 8
  ((s.homeWrite ctx { c with size := 8, data := min (old + c.data) (2 ^ 64 - 1) }).testCounter c.pa).noteReply c.pa

/-! ## Conflicts (R99) -/

/-- A conflict recorded in the storing pane, with its log entry under LOGCONF. -/
def State.noteConflict (s : State) (w : Who) (va : Nat) : State :=
  let s := s.updPane w.pid fun p =>
    if p.detst.toNat % 2 = 1 then { p with detst := p.detst ||| 2 }
    else { p with detst := p.detst ||| 1, detaddr := w64 (va / 8 * 8) }
  if bits (s.ctx w.ctx).detcfg.toNat 1 1 = 1 ∧ (s.ctx w.ctx).logOn ∧ (s.ctx w.ctx).logRoom 1 then
    s.logEntry w.ctx w.core 0x06 (va / 8 * 8) (((s.cas.find w.cid).map CasementSt.linear).getD 0)
  else s

/-- One word of a store registered for its casement (R99); a conflict where another casement of the launch holds a registration
of the word. -/
def State.detWord (s : State) (w : Who) (word va : Nat) : State :=
  let cs := s.dets.getD word []
  let lid := (s.cas.find w.cid).map CasementSt.lid
  let s1 := if cs.contains w.cid then s else s.setDets (s.dets.put word (cs ++ [w.cid]))
  if cs.any fun c => c != w.cid && (s.cas.find c).map CasementSt.lid == lid then s1.noteConflict w va else s1

/-- The conflict registration of a plain store's words, in a DET launch without NOSAMP (R99). -/
def State.detStore (s : State) (w : Who) (c : Chunk) : State :=
  let det := ((s.launchOfPane w.pid).map LaunchSt.det).getD false
  if det ∧ (s.ctx w.ctx).detcfg.toNat % 2 = 0 then
    (wordsOfSpan c.pa c.size).foldl (fun s k => s.detWord w k (c.va + 8 * (k - c.pa / 8))) s
  else s

/-- One atomic performed at its placement (R151): old value, and the state; a poisoned element is not written (R289). -/
def State.atomAt (s : State) (w : Who) (op : MemOp) (a : Acc) (p : Piece) : Nat × State :=
  let s := ((s.logTransfers w p.pa p.n).recall p.pa p.n).dropL1 w.core p.pa p.n
  let old := s.homeRead p.pa p.n
  if s.linePoisoned p.pa then (old, s)
  else (old, s.homeWrite w.ctx ⟨p.pa, p.va, p.n, op.apply old a.data a.cmp, p.leaf.trk, false⟩)

/-- A plain write performed: conflict registration and home write in one step (R160). -/
def State.plainWrite (s : State) (w : Who) (c : Chunk) : State := (s.detStore w c).homeWrite w.ctx c

/-- The words of a cached store registered to its core, whose stale copies go; a previous owner loses its copy (R145). -/
def State.register (s : State) (core : Nat) (c : Chunk) : State :=
  let ws := wordsOfSpan c.pa c.size
  let s := s.dropL1 core c.pa c.size
  ((s.setOwner (ws.foldl (fun m k => Map.put m k core) s.owner)).setShadows
    (s.shadows.filter fun x => x.core == core || !ws.contains x.word)).touch core (c.pa / 64)

/-- A word as the units of a core that have no store of their own to it see it (R145). -/
def State.seenWord (s : State) (core word : Nat) : Word :=
  if s.owner.find word ≠ some core ∧ (s.core core).l1valid.contains word then Sparse.read (s.core core).l1 word
  else w64 (s.homeRead (8 * word) 8)

/-- What the other units of the storing core keep reading until the acknowledgement (R145); what is over is dropped. -/
def State.shade (s : State) (w : Who) (id back : Nat) (c : Chunk) : State :=
  s.setShadows ((s.shadows.filter fun x => decide (s.now < x.until_)) ++
    (wordsOfSpan c.pa c.size).map fun k => ⟨w.core, k, w.uid, id, s.seenWord w.core k, s.now + back⟩)

/-- A cached store taken by its home (R145, R160): bytes and registration in one step, its stamps exchanged (R244) and the transfer
logged; the other units of its core see the bytes when the acknowledgement is back. -/
def State.registerStore (s : State) (w : Who) (id back : Nat) (c : Chunk) : State :=
  (((((s.shade w id back c).exchangeStamps w.core (homeRegion c.pa)).logTransfers w c.pa c.size).plainWrite w c).register
    w.core c)

/-- A store performed at its home with no registration (R144). -/
def State.homeStore (s : State) (w : Who) (c : Chunk) : State := (s.plainWrite w c).dropL1 w.core c.pa c.size

/-- The time that the acknowledgement of stores is on its way (R145) (DESIGN CHOICE, log entry 2). -/
def ackTime (core : Nat) (cs : List Chunk) : Nat := (cs.map fun c => homeLatency core (homeRegion c.pa)).foldl max 1

/-- An instruction's stores performed: the cached ones registered, the others at their home. -/
def State.takeStores (s : State) (w : Who) (id : Nat) (cached others : List Chunk) : State :=
  (others.foldl (fun s c => s.homeStore w c) (cached.foldl (fun s c => s.registerStore w id (ackTime w.core cached) c) s)).clearWhole
    w.core (cached ++ others)

/-- Chunks by the policy under which they are stored: cached, and the others (R129, R144). -/
def byPolicy (cp : CPol) (cs : List (Chunk × Leaf)) : List Chunk × List Chunk :=
  ((cs.filter fun c => policyOf cp c.2 = .dflt).map Prod.fst, (cs.filter fun c => policyOf cp c.2 ≠ .dflt).map Prod.fst)

/-- Every word of a chunk is owned by the core, and no acknowledgement of a store to it is outstanding. -/
def State.ownsAll (s : State) (core : Nat) (c : Chunk) : Bool :=
  (wordsOfSpan c.pa c.size).all fun k => s.owner.find k == some core && !s.shadows.any fun x =>
    x.word == k && decide (s.now < x.until_)

/-! ## Putting a memory instruction's result in flight -/

/-- The chunks of a store's parts, each with its own bytes of the data. -/
def chunksOf (bad : Bool) : Nat → List Piece → List (Chunk × Leaf)
  | _, [] => []
  | data, p :: r =>
    (⟨p.pa, p.va, p.n, bits data 0 (8 * p.n), p.leaf.trk, bad⟩, p.leaf) :: chunksOf bad (data / 2 ^ (8 * p.n)) r

/-- The register values a load gives for one access: extended as the instruction says (R332). -/
def extendTo (sx : Bool) (width v : Nat) : Word := if sx then w64 (wrap 64 (signed (8 * width) v)) else w64 v

/-- What performing a memory instruction gives: the state, what stays in flight (each with its latency), none where it is
complete. -/
structure Perf where
  s : State
  works : List (Work × Nat)

/-! ## Reads that their home serves (R144) -/

/-- Two spans share a byte. -/
def overlaps (a n b m : Nat) : Bool := decide (a < b + m) && decide (b < a + n)

/-- The places of an earlier access of a unit that its later reads must not pass (R147): reads not served, and the write of an
engine operation not performed (R116, R148). -/
def State.aheadOf (s : State) (q : Pend) : List Piece :=
  match q.work with
  | .reads _ locs => locs.flatMap Prod.snd
  | .tile r _ false => if r.op.kind = .write then (s.locateReq q.ctx r).locs.flatMap Prod.snd else []
  | _ => []

/-- An earlier access of the unit to some of the same bytes is still ahead of a read (R147). -/
def State.readBehind (s : State) (w : Who) (ps : List Piece) : Bool :=
  s.pend.vals.any fun q => s.earlier w.uid w.before q &&
    (s.aheadOf q).any fun x => ps.any fun p => overlaps x.pa x.n p.pa p.n

/-- A cached read issued after an acquire of its unit waits for the acknowledgement of another unit's store (R145). -/
def State.ackBefore (s : State) (w : Who) (cp : CPol) (ps : List Piece) : Bool :=
  ((s.units.find w.uid).map UnitSt.acquired).getD true &&
    ps.any fun p => decide (policyOf cp p.leaf = .dflt) && (wordsOfSpan p.pa p.n).any fun k =>
      s.owner.find k == some w.core && (s.older w.core w.uid k).isSome

/-- A read bound in the ac in which it issues (R144): every part in L1, and nothing ahead of it. -/
def State.bindsNow (s : State) (w : Who) (cp : CPol) (ps : List Piece) : Bool :=
  (ps.all fun p => decide (policyOf cp p.leaf = .dflt) && s.inL1 w.core p.pa p.n) &&
    !s.readBehind w ps && !s.ackBefore w cp ps

/-- The latency of a set of reads, and the part of it until their home serves them (DESIGN CHOICE, log entries 2, 8). -/
def State.serveTime (s : State) (core : Nat) (ps : List Piece) : Nat :=
  (ps.map fun p => readLatency s.dev core p.pa - homeLatency core (homeRegion p.pa) / 2).foldl max 1

/-- Operations that only read, and whose reads a home serves (R144). -/
def MemOp.servedAtHome : MemOp → Bool
  | .load .. | .bset _ | .lld | .record _ | .restore _ | .rqt | .job => true
  | _ => false

/-- A located instruction begun: bound at once, or in flight to the homes that serve its reads (R144). -/
def State.begin_ (s : State) (w : Who) (r : MemReq) (locs : List (Acc × List Piece))
    (perf : State → List (Acc × List Piece) → Perf) : Perf :=
  let ps := locs.flatMap Prod.snd
  if r.op.servedAtHome ∧ !s.bindsNow w r.pol ps then ⟨s, [(.reads r locs, s.serveTime w.core ps)]⟩ else perf s locs

/-- The homes serve a read in this ac (R144, R145, R147). -/
def State.servable (s : State) (p : Pend) (r : MemReq) (locs : List (Acc × List Piece)) : Bool :=
  let ps := locs.flatMap Prod.snd
  decide (p.due ≤ s.now) && !s.readBehind (s.whoOf p) ps && !s.ackBefore (s.whoOf p) r.pol ps

/-- The zeros of copies whose index failed (R127). -/
def zeroWrites (r : MemReq) : List (Nat × Word) := r.zeros.map fun k => (k, 0)

/-- A load's accesses bound. -/
def performLoad (s : State) (w : Who) (r : MemReq) (sx : Bool) (width : Nat) (locs : List (Acc × List Piece)) : Perf :=
  let go := fun (a : State × List (Nat × Word) × List (Nat × Nat) × Nat) (q : Acc × List Piece) =>
    let (v, s1, t) := a.1.readPieces w r.pol q.2
    let bad := if s1.readPoisoned w r.pol q.2 then q.1.keys.map fun k => (k, width) else []
    (s1.recordPieces w.cid false q.2, a.2.1 ++ q.1.keys.map fun k => (k, extendTo sx width v), a.2.2.1 ++ bad, max a.2.2.2 t)
  let x := locs.foldl go (s, zeroWrites r, [], 18)
  ⟨x.1, [(.regs x.2.1 [] x.2.2.1 0, x.2.2.2)]⟩

/-- A buffer record read (R297). -/
def performBset (s : State) (w : Who) (r : MemReq) (n : Nat) (locs : List (Acc × List Piece)) : Perf :=
  match locs with
  | [] => ⟨s, [(.regs [] [(n, 0)] [] 0, 18)]⟩
  | q :: _ =>
    let (v, s1, t) := s.readPieces w r.pol q.2
    ⟨s1.recordPieces w.cid false q.2, [(.regs [] [(n, BitVec.ofNat 256 v)] [] 0, t)]⟩

/-- Long-slot images read (R331): the last copy naming a slot is left; a copy whose index failed loads the zero image. -/
def performLld (s : State) (w : Who) (r : MemReq) (locs : List (Acc × List Piece)) : Perf :=
  let go := fun (a : State × Longs × List Nat × Nat) (q : Acc × List Piece) =>
    if q.1.size = 0 then (a.1, Map.put a.2.1 q.1.data .zero, a.2.2.1, a.2.2.2)
    else
      let (v, s1, t) := a.1.readPieces w r.pol q.2
      let bad := if s1.readPoisoned w r.pol q.2 then a.2.2.1 ++ [q.1.data] else a.2.2.1.filter fun z => z ≠ q.1.data
      (s1.recordPieces w.cid false q.2, Map.put a.2.1 q.1.data (LongSt.ofImage (toBytes 576 v)), bad, max a.2.2.2 t)
  let x := locs.foldl go (s, [], [], 18)
  ⟨x.1, [(.longs w.cid x.2.1 x.2.2.1, x.2.2.2)]⟩

/-- Plain stores: performed at once where every word is owned and nothing of the unit is ahead of them; else registered or
written when their home accepts them (R144, R145). -/
def performStore (s : State) (w : Who) (cp : CPol) (locs : List (Acc × List Piece)) : Perf :=
  let cs := locs.flatMap fun q => chunksOf q.1.bad q.1.data q.2
  let cached := (byPolicy cp cs).1
  let others := (byPolicy cp cs).2
  let slow := fun (xs : List Chunk) => (xs.map fun c => readLatency s.dev w.core c.pa).foldl max 1
  if others = [] ∧ (cached.all fun c => s.ownsAll w.core c) ∧ s.ownStores w.uid w.before = [] ∧ s.allBound w.uid then
    ⟨(cached.foldl (fun s c => (s.plainWrite w c).register w.core c) s).clearWhole w.core cached, []⟩
  else
    ⟨s, (if cached = [] then [] else [(.store cached, ackTime w.core cached)]) ++
      (if others = [] then [] else [(.write others, slow others)])⟩

/-- Atomics performed in order at their placement; results, or the count of an unreturning form, stay in flight (R289). -/
def performAtom (s : State) (w : Who) (r : MemReq) (locs : List (Acc × List Piece)) : Perf :=
  let go := fun (a : State × List (Nat × Word) × List (Nat × Nat) × Nat) (q : Acc × List Piece) =>
    match q.2 with
    | [] => a
    | p :: _ =>
      let (old, s1) := a.1.atomAt w r.op q.1 p
      let bad := if a.1.linePoisoned p.pa then q.1.keys.map fun k => (k, p.n) else []
      (s1.recordPiece w.cid false p, a.2.1 ++ q.1.keys.map fun k => (k, w64 old), a.2.2.1 ++ bad,
        max a.2.2.2 (readLatency s.dev w.core p.pa))
  let x := locs.foldl go (s, zeroWrites r, [], 18)
  ⟨x.1, [(if r.op.returns then .regs x.2.1 [] x.2.2.1 0 else .write [], x.2.2.2)]⟩

/-- An atomic on an ORD page of a DET launch (R98): its keys of application. -/
def orderedOf (s : State) (w : Who) (r : MemReq) (ord : Nat) (locs : List (Acc × List Piece)) : List OrdAtom :=
  let px := ((s.panes.find w.pid).map PaneSt.px).getD 0
  let base : Nat → Nat → Piece → OrdAtom := fun pos val p => match r.op with
    | .atom o t _ => ⟨px, ord, pos, p.pa, p.n, o, false, t, false, val, 0, p.leaf.trk⟩
    | .atom2 o _ => ⟨px, ord, pos, p.pa, p.n, (match o with
        | .minBf16 => .min
        | .maxBf16 => .max
        | _ => .add), true, .f32, decide (o = .addF16), val, 0, p.leaf.trk⟩
    | _ => ⟨px, ord, pos, p.pa, p.n, .add, false, .i64, false, 0, 0, p.leaf.trk⟩
  locs.zipIdx.filterMap fun q => q.1.2.head?.map fun p => base q.2 q.1.1.data p

/-- An ordered atomic of this casement: DET, and the leaf's ORD set (R98). -/
def isOrdered (s : State) (w : Who) (op : MemOp) (locs : List (Acc × List Piece)) : Bool :=
  (match op with
    | .atom .. | .atom2 .. => true
    | _ => false) &&
  ((s.launchOfPane w.pid).map LaunchSt.det).getD false && locs.any fun q => q.2.any fun p => p.leaf.ord

end Sys2Proof.Machine
end

