-- ==== Sys2Proof/Machine/Remote.lean ====
section
/-! DEFINITION. Remote and host accesses: allowance windows (R211 to R213), the requests of an instruction (R208, R219), their
replies and timeouts (R209), and what a peer's request does here (R206, R210). Rows REMOTE_REPLY, REMOTE_TIMEOUT,
INBOUND_REMOTE_REQUEST. -/

namespace Sys2Proof.Machine

/-! ## Allowance (R211, R212) -/

/-- CLASS of a request kind (R211); a copy batch names its side by `write`. -/
def classOf (k : RKind) (write : Bool) : Nat :=
  match k with
  | .load => 0 | .store => 1 | .atomic => 2 | .batch => if write then 1 else 0

/-- The window of alc_k matches a request (R211, R212). -/
def windowMatches (a : Nat) (host : Bool) (node cls : Nat) : Bool :=
  bits a 0 24 != 0 && (bits a 46 2 == cls || bits a 46 2 == 3) && ((bits a 45 1 == 1) == host) &&
    (if host then bits a 34 8 == 0 && bits a 32 2 == node % 4 else bits a 32 10 == node)

/-- The lowest-numbered enabled window that matches (R212). -/
def chooseWindow (c : CtxSt) (host : Bool) (node cls : Nat) : Option Nat :=
  (List.range 16).find? fun k => windowMatches (c.window k) host node cls

/-- The timeout of a request in ac (R208, R211). -/
def timeoutOf (c : CtxSt) (w : Option Nat) : Nat :=
  match w with
  | none => 2 ^ 20
  | some k => let t := bits (c.window k) 48 16; if t = 0 then 2 ^ 20 else t * 1024

/-- A charge (R212). -/
def chargeOf (req rep : Nat) : Nat := max 1 ((req + 63) / 64 + (rep + 63) / 64)

/-- The total charge of requests on each window they charge, in ascending order (R212). -/
def needsOf (rs : List RemReq) : List (Nat × Nat) :=
  ((List.range 16).map fun k => (k, ((rs.filter fun r => r.window = some k).map RemReq.charge).foldl (· + ·) 0)).filter
    fun q => q.2 ≠ 0

/-- The first window that a set of charges does not fit (R212, R213). -/
def unfit (c : CtxSt) (p : PaneSt) (rs : List RemReq) : Option Nat :=
  ((needsOf rs).find? fun q => !c.fitsOn p q).map Prod.fst

/-- Charges added to a pane's counts. -/
def PaneSt.charged (p : PaneSt) (rs : List RemReq) : PaneSt :=
  rs.foldl (fun p r => match r.window with
    | some k => { p with charge := p.charge.put k (p.charge.getD k 0 + r.charge) }
    | none => p) p

/-- A charge released (R212). -/
def PaneSt.discharged (p : PaneSt) (now : Nat) (r : RemReq) : PaneSt :=
  match r.window with
  | some k => { p with charge := p.charge.put k (p.charge.getD k 0 - r.charge), relAt := some now }
  | none => p

/-! ## The requests of an instruction -/

/-- A part of an access that leaves the device, or is here already; `addr` is its line's offset or host address. -/
structure RPart where
  line : Nat
  addr : Nat
  /-- First byte within the line. -/
  skip : Nat
  n : Nat
  node : Nat
  host : Bool
  bound : Bool
  here : Option Piece
deriving DecidableEq, Repr

/-- HBASE of a context's binding on a port (R219, R220), keyed 4·context + port. -/
def bindingOf (d : DevSt) (ctx port : Nat) : Option Binding := d.bindings.find (ctx * 4 + port)

/-- A translated part as a request part (R205, R219). -/
def partOf (s : State) (ctx : Nat) (p : Piece) : RPart :=
  match frameOf s.dev p.pa with
  | .peer node off => ⟨p.va / 64, off / 64 * 64, off % 64, p.n, node, false, true, none⟩
  | .host =>
    let port := bits p.pa 44 2
    match bindingOf s.dev ctx port with
    | some b => ⟨p.va / 64, (b.hbase + p.pa % 2 ^ 44 / 64 * 64) % 2 ^ 64, p.pa % 64, p.n, port, true, true, none⟩
    | none => ⟨p.va / 64, p.pa % 2 ^ 44 / 64 * 64, p.pa % 64, p.n, port, true, false, none⟩
  | _ => ⟨p.va / 64, p.pa / 64 * 64, p.pa % 64, p.n, 0, false, true, some p⟩

/-- The parts of every access: through a REM record untranslated (R125), else as translated. A part beyond offset 2^41 of a node's
window wraps (DESIGN CHOICE, log entry 63). -/
def requestParts (s : State) (ctx : Nat) (r : MemReq) (locs : List (Acc × List Piece)) : List (Acc × List RPart) :=
  match r.node with
  | some D => r.accs.map fun a => (a, a.parts.map fun q => ⟨q.1 / 64, q.1 % 2 ^ 41 / 64 * 64, q.1 % 64, q.2, D, false, true, none⟩)
  | none => locs.map fun q => (q.1, q.2.map (partOf s ctx))

/-- StationOf (R207): the station of a request for an offset of a node's window, among those that are up. -/
def stationOf (stations node F : Nat) : Option Nat :=
  let up := (List.range 16).filter fun k => bits stations k 1 == 1
  let h := (List.range 9).foldl (fun h k => h ^^^ (F / 2 ^ (6 + 4 * k) % 16)) (node % 16)
  up[h % up.length]?

/-- A node can be reached (R205, R207, R217): this one through its inbound path, another with a key and a station up. -/
def reachable (d : DevSt) (node : Nat) : Bool :=
  node == d.node || (d.stations != 0 && (d.keys.find node).isSome)

/-- Kind of a memory operation's requests (R209). -/
def MemOp.rkind : MemOp → RKind
  | .store | .tileOut | .save _ => .store
  | .atom .. | .atom2 .. | .ctinc => .atomic
  | _ => .load

/-- One request for a line of the instruction (R208, R212): refused at once where its target cannot be reached. -/
def lineRequest (s : State) (w : Who) (op : MemOp) (ps : List (Acc × List RPart)) (q : RPart) : RemReq :=
  let mine := ps.filter fun x => x.2.any fun y => y.line = q.line
  let m := unionMask (mine.map fun x => x.1.mask)
  let fails := if q.host then !q.bound else !reachable s.dev q.node
  let k := op.rkind
  let two := match op with
    | .atom .cas .. => 2
    | _ => 1
  let size := (mine.map fun x => two * x.1.size).foldl (· + ·) 0
  let ch := if k = .atomic then chargeOf size (if op.returns then (mine.map fun x => x.1.size).foldl (· + ·) 0 else 0) else 1
  let c := s.ctx w.ctx
  let win := if fails then none else chooseWindow c q.host q.node (classOf k false)
  { line := q.line, addr := q.addr, mask := m, node := q.node, host := q.host, kind := k, window := win
    charge := if win.isSome then ch else 0, timeout := s.now + timeoutOf c win
    answer := if fails then some (6, 0) else none }

/-- The distinct lines that leave the device, in order. -/
def remoteLines (ps : List (Acc × List RPart)) : List RPart :=
  (ps.flatMap Prod.snd).foldl (fun a q => if q.here.isSome ∨ a.any fun x => x.line = q.line then a else a ++ [q]) []

/-- Every request of an instruction. -/
def requestsOf (s : State) (w : Who) (r : MemReq) (ps : List (Acc × List RPart)) : List RemReq :=
  (remoteLines ps).map (lineRequest s w r.op ps)

/-- The slot that a transaction sealed in this ac uses: in the ac of a switch, the old one (R216). -/
def KeySt.sendSlot (k : KeySt) (now : Nat) : Nat := if k.since = some now then 1 - k.slot else k.slot

/-- One more transaction sealed under a slot by a station (R215); 2^62 asks for a rotation (R216). -/
def KeySt.count (k : KeySt) (slot station : Nat) : KeySt :=
  let n := k.counters.getD (16 * slot + station) 0 + 1
  { k with counters := k.counters.put (16 * slot + station) n, asked := k.asked || decide (2 ^ 62 ≤ n) }

/-- A transaction to a node sealed (R215): the slot it uses; none where the counter has run out (R216) or no key is held. -/
def State.sealTo (s : State) (node station : Nat) : State × Option Nat :=
  match s.dev.keys.find node with
  | none => (s, none)
  | some k =>
    let slot := k.sendSlot s.now
    if 2 ^ 63 ≤ k.counters.getD (16 * slot + station) 0 then (s, none)
    else (s.updDev fun d => { d with keys := d.keys.put node (k.count slot station) }, some slot)

/-- A request sealed and sent by its station, or held until its pair's key rotates (R207, R215, R216). -/
def State.sealRequest (s : State) (r : RemReq) : State × RemReq :=
  if r.host ∨ r.node = s.dev.node ∨ r.answer.isSome then (s, r)
  else
    let st := (stationOf s.dev.stations r.node r.addr).getD 0
    let (s1, slot) := s.sealTo r.node st
    (s1, { r with station := some st, slot := slot, held := slot.isNone })

/-- Requests sealed in order. -/
def State.sealRequests (s : State) (rs : List RemReq) : State × List RemReq :=
  rs.foldl (fun a r => let (s1, r1) := a.1.sealRequest r; (s1, a.2 ++ [r1])) (s, [])

/-- A line of this device as an answered request. -/
def hereLine (line addr v : Nat) : RemReq where
  line := line
  addr := addr
  mask := 0
  node := 0
  host := false
  kind := .load
  window := none
  charge := 0
  timeout := 0
  answer := some (0, v)

/-- Lines of the same instruction that lie on this device, read now as answered lines (R208: one result for all). -/
def hereLines (s : State) (w : Who) (r : MemReq) (ps : List (Acc × List RPart)) : List RemReq × State :=
  let here := (ps.flatMap fun x => x.2.filterMap fun q => q.here).foldl
    (fun a p => if a.any fun x : Piece => x.va / 64 = p.va / 64 then a else a ++ [p]) []
  here.foldl (fun a p =>
    let line : Piece := ⟨p.va / 64 * 64, 64, p.pa / 64 * 64, p.leaf⟩
    let (v, s1, _) := a.2.readPiece w r.pol line
    (a.1 ++ [hereLine (p.va / 64) (p.pa / 64 * 64) v],
      s1.recordPiece w.cid false p)) ([], s)

/-! ## Results of answered requests (R209) -/

/-- Status of a line of an instruction, 0 where it is not among its requests (DEDUCED, log entry 45). -/
def statusOf (rs : List RemReq) (line : Nat) : Nat :=
  match rs.find? fun q => q.line = line with
  | some q => (q.answer.map Prod.fst).getD 0
  | none => 0

/-- Every line of an access succeeded. -/
def accOk (rs : List RemReq) (a : Acc) : Bool := a.parts.all fun q => statusOf rs (q.1 / 64) == 0

/-- Every line of the positions of an access succeeded: a position with a failed line keeps its whole destination (R209). -/
def positionOk (rs : List RemReq) (accs : List Acc) (a : Acc) : Bool :=
  accs.all fun b => a.mask &&& b.mask == 0 || accOk rs b

/-- The bytes of a span from the answered lines. -/
def answerBytes (rs : List RemReq) (a n : Nat) : Nat :=
  ofBytes ((List.range n).map fun k => BitVec.ofNat 8
    (match rs.find? fun q => q.line = (a + k) / 64 with
      | some q => bits ((q.answer.map Prod.snd).getD 0) (8 * ((a + k) % 64)) 8
      | none => 0))

/-- The old value an atomic element received: slot k of its line's answer, k counting the elements of that line before it. -/
def answerOld (rs : List RemReq) (before : List Acc) (a : Acc) : Nat :=
  let k := (before.filter fun b => b.ea / 64 = a.ea / 64).length
  match rs.find? fun q => q.line = a.ea / 64 with
  | some q => bits ((q.answer.map Prod.snd).getD 0) (64 * k) 64
  | none => 0

/-- erem of a failed request (R209 Table 2) (DEDUCED, log entry 45). -/
def eremOf (q : RemReq) : Nat :=
  let k := match q.kind with
    | .load => 0 | .store => 1 | .atomic => 2 | .batch => 3
  (q.answer.map Prod.fst).getD 0 * 2 ^ 40 + k * 2 ^ 32 +
    (match q.window with
      | some w => 2 ^ 20 + w * 2 ^ 16
      | none => 0) +
    (if q.host then 2 ^ 10 else 0) + q.node % 1024

/-- The failed requests. -/
def failedReqs (rs : List RemReq) : List RemReq :=
  rs.filter fun q => (q.answer.map Prod.fst).getD 0 != 0

/-- The trap of a load or atomic whose lines failed (R209): the lowest failing line names erem. -/
def remoteTrap (accs : List Acc) (rs : List RemReq) (word : Nat) : Option Trap :=
  match failedReqs rs with
  | [] => none
  | q :: r =>
    let low := r.foldl (fun b x => if x.addr < b.addr then x else b) q
    some { cause := if (low.answer.map Prod.fst).getD 0 = 1 then 0x0B else 0x0A
           mask := unionMask ((accs.filter fun a => !accOk rs a).map Acc.mask)
           eaddr := low.addr
           erem := eremOf low
           word := some word }

/-- The register copies an answered load or atomic writes. -/
def answerWrites (r : MemReq) (rs : List RemReq) : List (Nat × Word) :=
  zeroWrites r ++ (r.accs.zipIdx.flatMap fun q =>
    if accOk rs q.1 && positionOk rs r.accs q.1 then
      let v := match r.op with
        | .load sx width => extendTo sx width (answerBytes rs q.1.ea q.1.size)
        | .atom .. | .atom2 .. => w64 (answerOld rs (r.accs.take q.2) q.1)
        | _ => w64 (answerBytes rs q.1.ea q.1.size)
      q.1.keys.map fun k => (k, v)
    else [])

/-- Register copies written by a reply: the pane's registers and their poison (R240). -/
def State.writeResults (s : State) (pid : Nat) (ws : List (Nat × Word)) : State :=
  ws.foldl (fun s w => s.cleanKey pid w.1) (s.updPane pid fun p => p.writeKeys ws)

/-- The zero-length reads of a fence answered (R316): a unit parked at `fence` issues it again for its last step, or raises REMOTE;
where a pre-emption or a swap-out sent them (R158) the trap is deferred. -/
def State.finishFence (s : State) (p : Pend) (r : MemReq) (rs : List RemReq) : State :=
  match s.units.find p.uid with
  | none => s
  | some u =>
    let here := decide (u.park = .work p.id)
    match failedReqs rs with
    | [] => if here then s.updUnit p.uid fun u => { u with released := true, hostPorts := 0, park := .ready } else s
    | q :: _ =>
      let t : Trap := { cause := 0x0A, mask := r.xm, erem := 8 * 2 ^ 40 + 2 ^ 10 + q.node % 4 }
      if here then s.deliver p.uid t r.word (epcOf u.pc u.idx) else s.deferTrap p.uid r.word t

/-- A claimed entry of a casement's pending queue filled with its record's words (R182, R318). -/
def State.fillRecord (s : State) (cid entry : Nat) (ws : List Nat) : State :=
  s.updCas cid fun c => { c with pendQ := c.pendQ.map fun e => if e.id = entry then { e with words := ws, at_ := s.now } else e }

/-- A claimed entry freed: its record could not be fetched (R318). -/
def State.freeRecord (s : State) (cid entry : Nat) : State :=
  s.updCas cid fun c => { c with pendQ := c.pendQ.filter fun e => e.id ≠ entry }

/-- EVERY LINE ANSWERED (R208, R209): results written; a load or atomic unit goes on or traps; a store's failures are kept
for the unit's next release. -/
def State.finishRemote (s : State) (p : Pend) (r : MemReq) (rs : List RemReq) : State :=
  let s := s.dropPend p.id
  match r.op with
  | .store =>
    match failedReqs rs with
    | [] => s
    | q :: t =>
      let low := t.foldl (fun b x => if x.addr < b.addr then x else b) q
      s.updUnit p.uid fun u => { u with fails := u.fails ++
        [⟨unionMask ((r.accs.filter fun a => !accOk rs a).map Acc.mask), eremOf low, low.addr, p.id⟩] }
  | .fence => s.finishFence p r rs
  | op =>
    let s1 := s.writeResults p.pane (answerWrites r rs)
    let s2 := match op with
      | .bset n =>
        let v : BitVec 256 := BitVec.ofNat 256 (((r.accs.head?).map fun (a : Acc) => answerBytes rs a.ea 32).getD 0)
        if failedReqs rs = [] then s1.updPane p.pane fun x => { x with bufs := Sparse.write x.bufs n v } else s1
      | .lld =>
        let put := fun (m : Longs) (a : Acc) =>
          if a.size = 0 then Map.put m a.data .zero
          else if accOk rs a then Map.put m a.data (LongSt.ofImage (toBytes 576 (answerBytes rs a.ea 576))) else m
        s1.updCas (s.whoOf p).cid fun c => { c with longs := r.accs.foldl put c.longs }
      | .record entry =>
        if failedReqs rs = [] then
          let v := ((r.accs.head?).map fun (a : Acc) => answerBytes rs a.ea 128).getD 0
          s1.fillRecord (s.whoOf p).cid entry ((List.range 16).map fun k => bits v (64 * k) 64)
        else s1.freeRecord (s.whoOf p).cid entry
      | _ => s1
    match remoteTrap r.accs rs r.word with
    | some t => match s2.units.find p.uid with
      | some u => if u.park = Park.work p.id then s2.deliver p.uid t r.word (epcOf u.pc u.idx) else s2.deferTrap p.uid r.word t
      | none => s2
    | none => s2.updUnit p.uid fun u => if u.park = Park.work p.id then u.advance (1 + r.i.extraWords) s.now else u

/-! ## A peer's request here (R206, R210) -/

/-- The bytes at an offset of a context's window resolved (R206): a status, a vault region to wait for, or the place. -/
inductive Resolved where
  | status (n : Nat)
  | busy
  | ok (ctx pa : Nat) (l : Leaf)
deriving DecidableEq, Repr

/-- Offset F resolved for an access (R206, R139). -/
def State.resolveInbound (s : State) (k : AccKind) (op : MemOp) (F : Nat) : Resolved :=
  let c := bits F 35 6
  match s.ctxs.find c with
  | none => .status 4
  | some _ =>
    match s.xlate c k (F % 2 ^ 35) with
    | .pageFault 0 => .status 2
    | .pageFault _ => .status 3
    | .trap t => .status (if t = causePROT then 3 else 2)
    | .ok pa l =>
      if k = .atomic ∧ !atomicPlaced (frameOf s.dev pa) l.ap op then .status 3
      else match frameOf s.dev pa with
        | .host | .peer .. => .status 3
        | .vault g off => match s.vaultCheck g off with
          | .ok _ => .ok c pa l
          | .error true => .busy
          | .error false => .status 2
        | _ => .ok c pa l

/-- One operation of a request performed: status, answer data, state; none where it must wait for a vault conversion
(DEDUCED, log entry 45). -/
def State.inboundAt (s : State) (kind : RKind) (op : MemOp) (write : Bool) (F n data cmp : Nat) :
    Option (Nat × Nat × State) :=
  let k : AccKind := match kind with
    | .load => .read | .store => .write | .atomic => .atomic | .batch => if write then .write else .read
  match s.resolveInbound k op F with
  | .busy => none
  | .status st => some (st, 0, s)
  | .ok c pa l =>
    match k with
    | .write => some (0, 0, s.homeWrite c ⟨pa, F % 2 ^ 35, n, data, l.trk, false⟩)
    | .atomic =>
      if s.linePoisoned pa then some (5, 0, s)
      else
        let old := s.homeRead pa n
        some (0, old, (s.recall pa n).homeWrite c ⟨pa, F % 2 ^ 35, n, op.apply old data cmp, l.trk, false⟩)
    | _ => if s.linePoisoned pa then some (5, 0, s) else some (0, s.homeRead pa n, s.recall pa n)

/-- The inbound record of a request answered 0x02 to 0x05 (R210), dropped where the context is not defined. -/
def State.inboundRecord (s : State) (status kind src F stamp : Nat) (host : Bool) : State :=
  let c := bits F 35 6
  if 2 ≤ status ∧ status ≤ 5 ∧ (s.ctxs.find c).isSome then
    s.record c [0x20 * 2 ^ 56 + status * 2 ^ 48 + kind * 2 ^ 44 + (if host then 2 ^ 42 else 0) + src % 1024 * 2 ^ 32,
      F % 2 ^ 41, stamp, 0]
  else s

/-- KIND of a request (R209). -/
def rkindCode : RKind → Nat
  | .load => 0 | .store => 1 | .atomic => 2 | .batch => 3

/-- This node's own request through its inbound path (R205): every element of a line in order (DEDUCED, log entry 45). -/
def State.serveOwn (s : State) (r : MemReq) (q : RemReq) : Option (Nat × Nat × State) :=
  match r.op.rkind with
  | .load => s.inboundAt .load r.op false q.addr 64 0 0
  | k =>
    let mine := r.accs.filter fun a => a.parts.any fun x => x.1 / 64 = q.line
    let go := fun (a : Option (Nat × Nat × State) × Nat) (x : Acc) =>
      let part := (x.parts.find? fun y => y.1 / 64 = q.line).getD (x.ea, x.size)
      (a.1.bind fun b =>
        if b.1 ≠ 0 then some b
        else (b.2.2.inboundAt k r.op true (q.addr + part.1 % 64) part.2 (x.data / 2 ^ (8 * (part.1 - x.ea))) x.cmp).map
          fun c => (c.1, b.2.1 + c.2.1 % 2 ^ 64 * 2 ^ (64 * a.2), c.2.2), a.2 + 1)
    (mine.foldl go (some (0, 0, s), 0)).1

/-- The value an acted-on completion word takes (R166). -/
def cwValue (code old : Nat) : Nat :=
  let v := (old + 1) % 2 ^ 64
  if code = 0 then v else v ||| 2 ^ 63

/-- The end of a completion word in memory (R166): the atomic, its counter waits and watched words. A word in a poisoned line is
left unwritten, with no record (DESIGN CHOICE, log entry 56: the spec gives a poisoned completion word no rule). -/
def State.writeCw (s : State) (ctx code : Nat) (p : Piece) : State :=
  if s.linePoisoned p.pa then s
  else (s.homeWrite ctx ⟨p.pa, p.va, 8, cwValue code (s.homeRead p.pa 8), p.leaf.trk, false⟩).testCounter p.pa

/-- An engine's request to this node through its inbound path (R205): a completion word's atomic, whose code it carries, a line
read, or the bytes it carries written. -/
def State.serveEngine (s : State) (q : RemReq) : Option (Nat × Nat × State) :=
  if q.kind = .atomic then
    let F := q.addr + q.skip
    match s.resolveInbound .atomic (.atom .add .i64 false) F with
    | .busy => none
    | .status st => some (st, 0, s)
    | .ok cx pa l => some (0, 0, s.writeCw cx q.data ⟨F % 2 ^ 35, 8, pa, l⟩)
  else if q.write then
    let F := q.addr + q.skip
    match s.resolveInbound .write .store F with
    | .ok _ pa _ => (s.inboundAt .batch .store true F q.size q.data 0).map fun x => (x.1, x.2.1, x.2.2.taintLines q.bad pa q.size)
    | _ => s.inboundAt .batch .store true F q.size q.data 0
  else s.inboundAt .batch (.load false 8) false q.addr 64 0 0

/-! ## Rows REMOTE_REPLY and REMOTE_TIMEOUT -/

/-- The requests of a piece of work. -/
def Work.reqs : Work → List RemReq
  | .remote _ rs => rs
  | .copy _ _ _ rs _ => rs
  | .halo _ _ rs _ => rs
  | .coll _ _ _ rs _ => rs
  | _ => []

/-- A piece of work with its requests replaced. -/
def Work.withReqs (w : Work) (rs : List RemReq) : Work :=
  match w with
  | .remote r _ => .remote r rs
  | .copy l o p _ k => .copy l o p rs k
  | .halo c p _ k => .halo c p rs k
  | .coll c o p _ k => .coll c o p rs k
  | w => w

/-- Request k, which is q, answered: its charge released, and an instruction finished once every line is (R208, R212). -/
def State.answer (s : State) (p : Pend) (k : Nat) (q : RemReq) (status data : Nat) : State :=
  let rs' := p.work.reqs.set k { q with answer := some (status, data) }
  let s := s.updPane p.pane fun x => x.discharged s.now q
  match p.work with
  | .remote r _ =>
    if rs'.all fun x => x.answer.isSome then s.finishRemote p r rs' else s.putPend { p with work := .remote r rs' }
  | w => s.putPend { p with work := w.withReqs rs' }

/-- The request k of a piece of work, where a reply may answer it: not answered, not lost with its link, and sent (R207, R216). -/
def Work.openReq (w : Work) (k : Nat) : Option RemReq :=
  match w.reqs[k]? with
  | some q => if q.answer.isNone && !q.lost && !q.held then some q else Option.none
  | _ => Option.none

/-- Row REMOTE_REPLY (R208, R209): request k of the work is answered; a reply that answers nothing is discarded. A request to this
node is answered by its own inbound path (R205). -/
def execRemoteReply (id k status data stamp : Nat) (s : State) : Out :=
  match s.pend.find id with
  | none => .next s
  | some p =>
    match p.work.openReq k with
    | none => match p.work with
      | .remote r rs => .next (if rs.all fun x => x.answer.isSome then s.finishRemote p r rs else s)
      | _ => .next s
    | some q =>
      if !q.host ∧ q.node = s.dev.node then
        match (match p.work with
          | .remote r _ => s.serveOwn r q
          | _ => s.serveEngine q) with
        | none => .next (s.putPend { p with due := s.now + 1 })
        | some (st, d, s') =>
          .next ((s'.inboundRecord st (rkindCode q.kind) q.node q.addr (s.core p.core).lamport false).answer p k q st d)
      else .next ((s.updCore p.core fun c => { c with lamport := max c.lamport stamp }).answer p k q status data)

/-- Row REMOTE_TIMEOUT (R208): the oldest unanswered request whose time has passed is answered with status 0x01. -/
def execRemoteTimeout (id : Nat) (s : State) : Out :=
  match s.pend.find id with
  | none => .refused .notDue
  | some p =>
    match p.work.reqs.findIdx? fun q => q.answer.isNone && decide (q.timeout ≤ s.now) with
    | some k => match p.work.reqs[k]? with
      | some q => .next (s.answer p k q 1 0)
      | none => .next s
    | none => .refused .notDue

/-! ## Row INBOUND_REMOTE_REQUEST -/

/-- The atomic form of a peer's request. -/
def inboundOp (r : Inbound) : MemOp :=
  match r.kind with
  | .atomic => match r.op2 with
    | some o => .atom2 o true
    | none => .atom r.op r.ty true
  | .load => .load false 8
  | _ => .store

/-- Row INBOUND_REMOTE_REQUEST (R206, R210, R215, R217): dropped and counted where its tag fails or no key is held, or in recovery
(R252); else performed or failed, recorded where it failed, and answered by a sealed reply. A batch writes where its operation is
`xchg`, else it reads (DESIGN CHOICE, log entry 50). -/
def execInboundRemoteRequest (r : Inbound) (s : State) : Out :=
  if !r.tagOk ∨ (s.dev.keys.find r.src).isNone ∨ s.dev.recovery then .next (s.updDev fun d => { d with badTags := d.badTags + 1 })
  else match s.inboundAt r.kind (inboundOp r) (decide (r.op = .xchg)) r.off r.size r.data r.cmp with
    | none => .next (s.setInbox (s.inbox ++ [(s.now + 1, .inboundRemoteRequest r)]))
    | some (st, d, s') =>
      let s2 := s'.inboundRecord st (rkindCode r.kind) r.src r.off r.stamp false
      let g := match s.resolveInbound .read (.load false 8) r.off with
        | .ok _ pa _ => homeRegion pa
        | _ => 0
      let s3 := (s2.sealTo r.src ((stationOf s2.dev.stations r.src r.off).getD 0)).1
      .next (s3.updDev fun x => { x with
        homeLamport := x.homeLamport.put g (max (x.homeLamport.getD g 0) r.stamp)
        answers := x.answers ++ [⟨2 ^ 32 + r.src, [st, d]⟩] })

end Sys2Proof.Machine
end

