-- ==== Sys2Proof/Machine/Image.lean ====
section
/-! DEFINITION. The images of psave and prest (R238, R350): their bytes, how a read finds what they hold, and how they are put
back. -/

namespace Sys2Proof.Machine

/-- Bytes of an image (R238): parts 0 `.pane`, 1 `.mx`, 2 `.lx`. -/
def imageLen (part lslots : Nat) : Nat :=
  match part with
  | 0 => 167936 | 1 => 163840 | _ => 640 * lslots

/-- The bytes of image `num` (R238): the header, then a digest and a layout that are not architectural. -/
def imageBytes (num part len : Nat) : List Byte :=
  (toBytes 8 (Config.model + part * 2 ^ 16 + len * 2 ^ 32) ++
    (List.range (len - 8)).map fun k => Config.imageByte num (k + 8)).take len

/-- What the bytes of an image of a part and length hold; none where header or digest does not match (DESIGN CHOICE, log
entry 11). -/
def State.imageOf (s : State) (part len : Nat) (bs : List Byte) : Option ImgBody :=
  if len = 0 then some (.lx [])
  else if bs.length ≠ len then none
  else (s.images.find? fun m => m.part == part && m.len == len && imageBytes m.num m.part m.len == bs).map Img.body

/-- A new image of a body, and its bytes as a number (DESIGN CHOICE, log entry 11). -/
def State.newImage (s : State) (part len : Nat) (b : ImgBody) : State × Nat :=
  let (s, num) := s.fresh
  (s.setImages (s.images ++ [⟨num, part, len, b⟩]), ofBytes (imageBytes num part len))

/-- The image a `prest` of `.pane` or `.lx` reads. -/
def performRestore (s : State) (w : Who) (r : MemReq) (part len : Nat) (locs : List (Acc × List Piece)) : Perf :=
  let rd := match locs with
    | [] => (0, s, 18)
    | q :: _ => s.readPieces w r.pol q.2
  let got := (r.accs.map Acc.size).foldl (· + ·) 0
  ⟨rd.2.1.recordPieces w.cid false (locs.flatMap Prod.snd),
    [(.install part (s.imageOf part len (toBytes got rd.1)) (locs.any fun q => s.piecesPoisoned q.2), rd.2.2)]⟩

/-- A pane is still to be restored, or its routine runs (step 5 of R237). -/
def State.restoring (s : State) (pid : Nat) (p : PaneSt) : Bool :=
  p.saved || (s.unitsOf pid).any fun q => decide (q.2.level = .resume)

/-- A barrier count that leaves out the time from a pre-emption's request to now (R60); one that began after the casement was
admitted again keeps its start. -/
def CasementSt.shifted (c : CasementSt) (now t : Nat) : Nat := if c.admitAt ≤ t then t else t + (now - max t c.preAt)

/-- A casement whose panes are all restored is resident again. -/
def State.checkRestored (s : State) (cid : Nat) : State :=
  if (s.panesOf cid).any fun q => s.restoring q.1 q.2 then s
  else s.updCas cid fun c =>
    if c.phase = .resuming then
      { c with
        phase := .resident
        barStart := c.barStart.map (c.shifted s.now)
        sbarStart := c.sbarStart.map (c.shifted s.now) }
    else c

/-- A saved unit put back: it acts as after `acq`, queues where it holds no seat, and is tested again
where it stood on a wait list (R158, R221, R238). -/
def UnitSt.restored (u : UnitSt) (pid now : Nat) : UnitSt :=
  { u.coverLoads with
    pane := pid
    lastIssue := now
    parkedAt := now
    queuedAt := now
    passes := 0
    past := []
    park := if u.listOf.isSome then .ready else u.park }

/-- The end of `prest.pane` (R238): the pane replaced by its saved units, which may be the last to arrive at a barrier (R59). -/
def State.installPane (s : State) (pid core : Nat) (h : Hidden) : State :=
  match s.panes.find pid with
  | none => s
  | some p =>
    let s1 := (s.setUnits (s.units.filter fun q => q.2.pane ≠ pid)).putPane pid { p with
      preds := h.preds
      staging := h.staging
      fmode := h.fmode
      fstat := h.fstat
      uhv := h.uhv
      detst := h.detst
      detaddr := h.detaddr
      nextSeq := h.nextSeq
      openB := h.openB
      hidden := none }
    let s2 := h.units.foldl (fun s u =>
      let (s, id) := s.fresh
      s.putUnit id (u.restored pid s.now)) s1
    (((s2.acquire core).checkRestored p.cas).checkBar p.cas).checkSbar p.cas

/-- The declared slots of a casement replaced (R350), poisoned where a line of the image was (R240). -/
def State.installLongs (s : State) (cid lslots : Nat) (ls : Longs) (bad : Bool) : State :=
  let s1 := (s.updCas cid fun c => { c with longs := ls }).cleanLimbs cid fun _ _ => true
  if bad then s1.addPoison ((List.range lslots).flatMap fun z => (List.range 69).map fun j => .limb cid z j) else s1

/-- Every place of a core's matrix registers. -/
def mxSites (core : Nat) : List Site :=
  ((List.range 16).flatMap fun t => (List.range 4096).map (fun b => Site.tile core t b) ++
    (List.range 256).map fun b => Site.side core t b) ++
  ((List.range 8).flatMap fun a => (List.range 256).map fun e => Site.acc core a e) ++
  (List.range 4096).map fun k => Site.pq core k

/-- The matrix registers of a core replaced, poisoned where a line of the image was. -/
def State.installMx (s : State) (core : Nat) (m : MxSt) (bad : Bool) : State :=
  let s1 := s.updCore core fun c => { c with mx := m }
  let s2 := if s1.poison.isEmpty then s1 else s1.setPoison (s1.poison.filter fun x => match x with
    | .tile c .. | .side c .. | .acc c .. | .pq c _ => c != core
    | _ => true)
  if bad then s2.addPoison (mxSites core) else s2

/-- An image that has arrived (R238, R350): installed, or the context terminates where it does not match. -/
def State.install (s : State) (p : Pend) (body : Option ImgBody) (bad : Bool) : State :=
  match body with
  | some (.pane h) => s.installPane p.pane p.core h
  | some (.lx ls) =>
    s.installLongs (s.whoOf p).cid (((s.launchOfPane p.pane).map LaunchSt.lslots).getD 0) ls bad
  | some (.mx m) => s.installMx p.core m bad
  | none => s.terminate p.ctx Config.imageCause.toNat (((s.units.find p.uid).map fun u => u.epc.toNat).getD 0)

end Sys2Proof.Machine
end

