-- ==== Sys2Proof/Machine/Memory.lean ====
section
/-! DEFINITION. Memory instructions of majors 0x19 to 0x1C, 0x1F and 0x2D (R296, R297, R331 to R333, R365, R366) and the
events that complete them: STORE_REGISTRATION_ACK, WRITE_ACKNOWLEDGED, REGISTRY_RECALL. -/

namespace Sys2Proof.Machine

/-! ## Issuing a memory instruction -/

/-- The pages of an instruction on which its unit already has a logged access (R158). -/
def behindPages (s : State) (uid : Nat) (accs : List Acc) : List (Nat × Nat) :=
  let ps := (accs.flatMap Acc.parts).map fun q => pageOf q.1
  s.pend.vals.flatMap fun q => if s.earlier uid s.nextId q then (match q.work with
    | .logged _ pages => pages.filter fun g => ps.contains g.1
    | .tile _ pages _ => pages.filter fun g => ps.contains g.1
    | _ => []) else []

/-- Log entries a cached store or an atomic reserves: one per line while OWN is on (R245). -/
def ownershipLines (v : View) (r : MemReq) : Nat :=
  let may : Bool := match r.op with
    | .store | .tileOut | .save _ | .rqt => r.pol = .dflt
    | .atom .. | .atom2 .. | .ctinc => true
    | _ => false
  if may ∧ (v.s.ctx v.ctx).logFlag 3 then
    ((((r.accs.filter fun a => r.op ≠ .rqt ∨ a.cmp ≠ 0).flatMap Acc.parts).map fun q => q.1 / 64).eraseDups).length
  else 0

/-- ORDRET of an ordered atomic (R98): a form that exchanges, or no room for its lane operations. -/
def ordTrap (v : View) (r : MemReq) (ords : List (Acc × List Piece)) : Option Trap :=
  let low := (ords.map fun q => q.1.ea).foldl min ((ords.head?.map fun q => q.1.ea).getD 0)
  let m := unionMask (ords.map fun q => q.1.mask)
  let held := (v.s.pend.vals.map fun q => match q.work with
    | .ordered as => if (v.s.whoOf q).cid = v.cid then as.length else 0
    | _ => 0).foldl (· + ·) 0
  if ords = [] then none
  else if (match r.op with
      | .atom .xchg _ _ | .atom .cas _ _ => true
      | _ => false) then some { cause := 0x10, mask := m, efd := 0, eaddr := low }
  else if 65536 < v.ca.ords.length + held + ords.length then some { cause := 0x10, mask := m, efd := 1, eaddr := low }
  else none

/-- The accesses of a DET launch's atomic that fall on ORD pages (R98). -/
def orderedPart (v : View) (r : MemReq) (locs : List (Acc × List Piece)) : List (Acc × List Piece) :=
  match r.op with
  | .atom .. | .atom2 .. => if v.l.det then locs.filter fun q => q.2.any fun p => p.leaf.ord else []
  | _ => []

/-- The traps that an instruction's translation gives, in the order PROT, VAULT, ORDRET, FAULTFATAL (R234) (DEDUCED, log
entry 17). -/
def accessTrap (v : View) (r : MemReq) (f : Found) : Option Trap :=
  let ts := f.traps ++ refusals v.s.dev r.op f.locs
  match pickTrap (ts.filter fun t => t.1 ≠ causeFATAL) false with
  | some t => some t
  | none => match ordTrap v r (orderedPart v r f.locs) with
    | some t => some t
    | none => pickTrap ts false

/-- An operation that must follow the unit's own pending stores to the same bytes (R143, R147). -/
def MemOp.followsOwn : MemOp → Bool
  | .atom .. | .atom2 .. | .wadr | .ctwt => true
  | _ => false

/-- A counter increment of the unit issued before an identity, or a store where the operation must follow it, that is not
performed and touches a part (R147): a read never returns an earlier value (DEDUCED, log entry 24). -/
def State.mustFollow (s : State) (uid before : Nat) (op : MemOp) (locs : List (Acc × List Piece)) : Bool :=
  let mine := s.pend.vals.filter (s.earlier uid before)
  let cs := (if op.followsOwn then s.ownStores uid before else []) ++ (mine.filterMap fun q => match q.work with
    | .count c => some c
    | _ => none)
  let tiles := if op.followsOwn then mine.flatMap s.aheadOf else []
  op != .ctinc && op.kind != .write &&
    locs.any fun q => q.2.any fun p => (cs.any fun c => overlaps c.pa c.size p.pa p.n) ||
      tiles.any fun x => overlaps x.pa x.n p.pa p.n

/-- Log entries reserved for a piece of work (R245). -/
def State.reserve (s : State) (ctx id n : Nat) : State :=
  if n = 0 then s
  else match s.pend.find id with
    | some p => (s.putPend { p with resv := n }).updCtx ctx fun c => { c with reserved := c.reserved + n }
    | none => s

/-- Log entries of a context written since an earlier state (R245). -/
def State.entriesSince (s s0 : State) (ctx : Nat) : Nat := (s.ctx ctx).logNext - (s0.ctx ctx).logNext

/-- Works of an instruction put in flight: the first under its codes, the others beside it under the same ordinal; with none
the instruction is complete. The unit parks where `park` says so. -/
def View.flyAll (v : View) (s : State) (k : Kind) (codes : List Nat) (resv : Nat) (park : Option (Nat → Park))
    (ws : List (Work × Nat)) : Act :=
  match ws with
  | [] => .next (s.updUnit v.uid fun u => u.bump k)
  | (w, t) :: rest =>
    let id := s.nextId
    let held := match w with
      | .wadr xs => !xs.all fun x => x.found.isSome
      | .ctwt .. => true
      | _ => false
    let s1 := v.launchWork s k t held codes w
    let s2 := rest.foldl (fun s x =>
      let (s, id) := s.fresh
      s.putPend ⟨id, v.uid, v.pid, v.ctx, v.core, v.u.pc, k, (v.u.bump k).counter k, s.now, s.now + x.2, false, 0, x.1⟩) s1
    let s3 := s2.reserve v.ctx id resv
    match park with
    | none => .next s3
    | some f => .placed (s3.updUnit v.uid fun u => { (u.issued s.now) with
        park := f id, parkedAt := s.now, seated := match f id with
          | .ctwt _ => false
          | _ => u.seated })

/-- The place in the Load count that an instruction of another kind takes while it is pending in the operand log (R261). -/
def View.countLogged (v : View) (s : State) (k : Kind) (id : Nat) : State :=
  if k = .load ∨ k = .other then s
  else
    let (s, j) := s.fresh
    (s.updUnit v.uid fun u => u.bump .load).putPend
      ⟨j, v.uid, v.pid, v.ctx, v.core, v.u.pc, .load, (v.u.bump .load).counter .load, s.now, s.now, true, 0, .inLog id⟩

/-- A page fault taken: the instruction logged with its operands, its faults noted at the die stage (R226, R227). -/
def View.logIt (v : View) (s : State) (k : Kind) (codes : List Nat) (park : Option (Nat → Park)) (r : MemReq)
    (pages : List (Nat × Nat)) (resv : Nat) : Act :=
  if 512 ≤ v.s.logUse v.core then .wait v.s .opLog
  else if v.countFull k then .wait v.s (.count k)
  else if v.countFull .load then .wait v.s (.count .load)
  else
    let s1 := pages.foldl (fun s g => s.noteFault v.ctx v.core g.1 g.2 (reqAcc r g.1)) s
    let id := s1.nextId
    let s2 := v.countLogged
      ((v.launchWork s1 (if k = .other then .load else k) 0 true codes (.logged r pages)).reserve v.ctx id resv) k id
    match park with
    | none => .next s2
    | some _ => .placed (s2.updUnit v.uid fun u => { (u.issued s.now) with park := .work id, parkedAt := s.now })

/-- The local parts of a store that also has remote ones, as a write in flight. -/
def localWrites (s : State) (w : Who) (here : List (Acc × List Piece)) : List (Work × Nat) :=
  let cs := here.flatMap fun q => q.2.map fun p =>
    (⟨p.pa, p.va, p.n, bits q.1.data (8 * (p.va - q.1.ea % 2 ^ 57)) (8 * p.n), p.leaf.trk, q.1.bad⟩ : Chunk)
  if here = [] then [] else [(.write cs, (cs.map fun c => readLatency s.dev w.core c.pa).foldl max 1)]

/-- The parts of located accesses on this device's own memory. -/
def localParts (d : DevSt) (locs : List (Acc × List Piece)) : List (Acc × List Piece) :=
  locs.filterMap fun q =>
    let ls := q.2.filter fun p => (frameOf d p.pa).local
    if ls = [] then none else some (q.1, ls)

/-- What an operation does on its located accesses. -/
abbrev Performer := State → List (Acc × List Piece) → Perf

/-- The elements of an atomic that lie on this device while others leave it: performed here as in an instruction of their own
(R98, R289); the request that leaves keeps the others (R208). -/
def splitAtomic (s : State) (r : MemReq) (locs : List (Acc × List Piece)) (perf : Performer) : MemReq × Perf :=
  let near := locs.filter fun q => q.2.all fun p => (frameOf s.dev p.pa).local
  if near = [] then (r, ⟨s, []⟩)
  else ({ r with accs := (locs.filter fun q => !near.contains q).map Prod.fst, zeros := [] }, perf s near)

/-- A further effect of an instruction that was performed or put in flight. -/
def Act.after (a : Act) (f : State → State) : Act :=
  match a with
  | .next s => .next (f s)
  | .placed s => .placed (f s)
  | a => a

/-- A remote or host access (R208, R213): refused room in its windows it waits; else its requests leave, and a load or atomic
parks its unit until every line is answered. -/
def View.goRemote (v : View) (s : State) (k : Kind) (codes : List Nat) (r : MemReq) (locs : List (Acc × List Piece))
    (perf : Performer) : Act :=
  let ps := requestParts v.s v.ctx r locs
  let rs0 := requestsOf v.s v.who r ps
  match unfit (v.s.ctx v.ctx) v.p rs0 with
  | some j => .wait v.s (.allowance j (needsOf rs0))
  | none =>
    let (s1, rs) := (s.updPane v.pid fun p => p.charged rs0).sealRequests rs0
    match r.op with
    | .store =>
      let ports := rs.foldl (fun m q => if q.host then m ||| 2 ^ (q.node % 4) else m) 0
      (v.flyAll s1 k codes 0 none ((.remote r rs, 780) :: localWrites v.s v.who (localParts v.s.dev locs))).after fun s =>
        if ports = 0 then s else s.updUnit v.uid fun u => { u with hostPorts := u.hostPorts ||| ports }
    | op =>
      let s2 := if rs.isEmpty then s1 else s1.makeWide v.cid
      if op.kind = .atomic then
        let (far, x) := splitAtomic s2 r locs perf
        v.flyAll x.s k codes 0 (some .work) ((.remote far rs, 780) :: x.works)
      else
        let (hs, s3) := hereLines s2 v.who r ps
        v.flyAll s3 k codes 0 (some .work) [(.remote r (rs ++ hs), 780)]

/-- A located access leaves this device. -/
def leaves (d : DevSt) (locs : List (Acc × List Piece)) : Bool :=
  locs.any fun q => q.2.any fun p => match frameOf d p.pa with
    | .host | .peer .. => true
    | _ => false

/-- A LOCATED MEMORY INSTRUCTION: it waits for what must precede it (R147), leaves the device, or is performed. -/
def View.accessFound (v : View) (k : Kind) (codes : List Nat) (park : Option (Nat → Park)) (r : MemReq) (f : Found)
    (perf : Performer) : Act :=
  let early := decide (r.op.kind = .atomic) && decide (r.op ≠ .ctinc)
  if early && !v.s.allBound v.uid then .wait v.s .bound
  else if v.s.mustFollow v.uid v.s.nextId r.op f.locs then .wait v.s .ownStores
  else if v.countFull k then .wait v.s (.count k)
  else if r.op ≠ .dtst ∧ r.op ≠ .trec ∧ leaves v.s.dev f.locs then v.goRemote f.s k codes r f.locs perf
  else
    let p := f.s.begin_ v.who r f.locs perf
    v.flyAll p.s k codes (ownershipLines v r - p.s.entriesSince f.s v.ctx) park p.works

/-- EVERY MEMORY INSTRUCTION AFTER THE CHECKS OF R127: translation, its traps, page faults to the operand log, then the
access itself (DESIGN CHOICE, log entry 8). -/
def View.access (v : View) (k : Kind) (codes : List Nat) (park : Option (Nat → Park)) (r : MemReq) (perf : Performer) : Act :=
  if r.node.isSome then
    if decide (r.op.kind = .atomic) && !v.s.allBound v.uid then .wait v.s .bound
    else if v.countFull k then .wait v.s (.count k)
    else v.goRemote v.s k codes r [] perf
  else
    let f := v.s.locateReq v.ctx r
    let n := ownershipLines v r
    if 0 < n ∧ !(v.s.ctx v.ctx).logRoom n then .trap v.s { cause := 0x0E, mask := v.E }
    else match accessTrap v r f with
      | some t => .trap v.s t
      | none =>
        match f.busy with
        | some g => .wait v.s (.vault g)
        | none =>
          match f.faults ++ behindPages v.s v.uid r.accs with
          | [] => v.accessFound k codes park r f perf
          | pages => v.logIt f.s k codes park r pages.eraseDups n

/-! ## Requests -/

/-- A request of the view's instruction. -/
def View.request (v : View) (i : Instr) (op : MemOp) (n : Nat) (pol : CPol) (accs : List Acc) (zeros : List Nat) : MemReq where
  op := op
  i := i
  word := v.u.word.toNat
  clause := v.u.pc
  idx := v.u.idx
  bufn := n
  node := remoteNode v.s.dev (v.p.buf n)
  pol := pol
  accs := accs
  zeros := zeros
  xm := v.E
  rm := bits v.p.fmode.toNat 0 2

/-- Elements in ascending lane, then member, order (R128). -/
def View.inOrder (v : View) (c : Cls) (es : List Elem) : List Elem :=
  (v.ordered c).filterMap fun q => es.find? fun e => e.slot = q

/-- The failing copies' keys for a group of n destinations from code c (R127). -/
def missedKeys (es : List Elem) (c n : Nat) : List Nat :=
  es.flatMap fun e => match e.ea with
    | some _ => []
    | none => (List.range n).map fun k => rkey (c + k) e.slot

/-- One access per element and count, at consecutive places (R332). -/
def spread (es : List Elem) (n width : Nat) (f : Nat → Elem → Nat → Acc) : List Acc :=
  es.flatMap fun e => match e.ea with
    | some a => (List.range n).map fun k => f k e (a + k * width)
    | none => []

/-- Bytes of a width. -/
def mcount : MCount → Nat
  | .one => 1 | .two => 2 | .four => 4

/-- The destination codes of a group, none for `zr`. -/
def destCodes (d : Opnd) (n : Nat) : List Nat := if d.isReg then (List.range n).map fun k => d.code + k else []

/-- Register k of a data group, as copy q of its class reads it (R365). -/
def View.dataAt (v : View) (i : Instr) (d : Opnd) (k q : Nat) : Nat :=
  if d.isReg then (Sparse.read v.p.regs (rkey (d.code + k) (copyIdx d.code q))).toNat else (v.rd i d q).toNat

/-! ## Global loads and stores (R332, R365) -/

/-- `ld` (R332): each copy's C elements, extended, a Load-kind result in d to d + C − 1. -/
def execLd (c : MCount) (sx : Bool) (mw : MWidth) (d x : Opnd) (n : Nat) (p : CPol) (s : State) : Out :=
  let i := Instr.ld c sx mw d x n p
  issue i (fun v =>
    match v.resolve i n .rd mw.bytes x with
    | .error t => .trap v.s t
    | .ok es0 =>
      let es := v.inOrder i.cls es0
      let accs := spread es (mcount c) mw.bytes fun k e a => ⟨e.mask, a, mw.bytes, 0, 0, [rkey (d.code + k) e.slot], false⟩
      let r := v.request i (.load sx mw.bytes) n p accs (missedKeys es d.code (mcount c))
      v.access .load (destCodes d (mcount c)) none r (fun s l => performLoad s v.who r sx mw.bytes l)) s

/-- `st` (R365): each copy's C elements, in ascending lane, then member, order. -/
def execSt (c : MCount) (mw : MWidth) (d x : Opnd) (n : Nat) (p : CPol) (s : State) : Out :=
  let i := Instr.st c mw d x n p
  issue i (fun v =>
    match v.resolve i n .wr mw.bytes x with
    | .error t => .trap v.s t
    | .ok es0 =>
      let es := v.inOrder i.cls es0
      let accs := spread es (mcount c) mw.bytes fun k e a =>
        ⟨e.mask, a, mw.bytes, v.dataAt i d k e.slot % 2 ^ (8 * mw.bytes), 0, [], false⟩
      let r := v.request i .store n p accs []
      v.access .store [] none r (fun s l => performStore s v.who p l)) s

/-! ## Scratch and lane store (R130, R131, R333, R366) -/

/-- The ac that a scratch instruction occupies the port (R130): the most distinct words it names in one of 64 banks. -/
def bankTime (spans : List (Nat × Nat)) : Nat :=
  let ws := (spans.flatMap fun q => wordsOfSpan q.1 q.2).eraseDups
  ws.foldl (fun m k => max m (ws.filter fun j => j % 64 = k % 64).length) 1

/-- The core's scratch port taken for n ac, after the accesses before it (R130). -/
def State.usePort (s : State) (core n : Nat) : State :=
  s.updCore core fun c => { c with scrFree := max s.now c.scrFree + n }

/-- The (slot, address) pairs of a scratch or lane-store access. -/
def ownSpans (es : List Elem) (n w : Nat) : List (Nat × Nat) :=
  es.filterMap fun e => e.ea.map fun a => (a, n * w)

/-- `lds` (R333): C elements from casement scratch, 6 ac after the port's occupancy ends. -/
def execLds (two sx : Bool) (mw : MWidth) (d x : Opnd) (s : State) : Out :=
  let i := Instr.lds two sx mw d x
  issue i (fun v =>
    let n := if two then 2 else 1
    match v.resolveOwn i v.l.scr mw.bytes (n * mw.bytes) x with
    | .error t => .trap v.s t
    | .ok es =>
      let got := es.flatMap fun e => (List.range n).map fun k =>
        let a := e.ea.getD 0 + k * mw.bytes
        (rkey (d.code + k) e.slot, a)
      let ws := got.map fun q => (q.1, extendTo sx mw.bytes (readSpan v.ca.scratch q.2 mw.bytes))
      let bad := got.filterMap fun q => if v.s.poison.contains (.scratch v.cid (q.2 / 64)) then some (q.1, mw.bytes) else none
      let s1 := v.s.usePort v.core (bankTime (ownSpans es n mw.bytes))
      v.submit s1 .load ((s1.core v.core).scrFree - v.s.now + 6) (destCodes d n) (.regs ws [] bad 0)) s

/-- `ldl` (R333, R131): C elements of each position's own lane store. -/
def execLdl (two sx : Bool) (mw : MWidth) (d x : Opnd) (s : State) : Out :=
  let i := Instr.ldl two sx mw d x
  issue i (fun v =>
    let n := if two then 2 else 1
    match v.resolveOwn i v.l.L mw.bytes (n * mw.bytes) x with
    | .error t => .trap v.s t
    | .ok es =>
      let got := es.flatMap fun e => (List.range n).map fun k =>
        let a := e.ea.getD 0 + k * mw.bytes
        (rkey (d.code + k) e.slot, e.slot, a)
      let ws := got.map fun q => (q.1, extendTo sx mw.bytes (readSpan v.p.lanes (q.2.1 * 8192 + q.2.2) mw.bytes))
      let bad := got.filterMap fun q =>
        if v.s.poison.contains (.lane v.pid q.2.1 (q.2.2 / 64)) then some (q.1, mw.bytes) else none
      v.submit v.s .load 6 (destCodes d n) (.regs ws [] bad 0)) s

/-- `sts` (R366): C elements into casement scratch, at once (R153). -/
def execSts (two : Bool) (mw : MWidth) (d x : Opnd) (s : State) : Out :=
  let i := Instr.sts two mw d x
  issue i (fun v =>
    let n := if two then 2 else 1
    match v.resolveOwn i v.l.scr mw.bytes (n * mw.bytes) x with
    | .error t => .trap v.s t
    | .ok es0 =>
      let es := v.inOrder i.cls es0
      let m := es.foldl (fun m e => (List.range n).foldl (fun m k =>
        writeSpan m (e.ea.getD 0 + k * mw.bytes) mw.bytes (v.dataAt i d k e.slot)) m) v.ca.scratch
      let s1 := v.s.updCas v.cid fun c => { c with scratch := m }
      let full := if v.s.poison.isEmpty then [] else coveredLines (ownSpans es n mw.bytes)
      let s2 := if full.isEmpty then s1 else s1.setPoison (s1.poison.filter fun y => match y with
        | .scratch c l => !(c == v.cid && full.contains l)
        | _ => true)
      .next ((s2.usePort v.core (bankTime (ownSpans es n mw.bytes))).updUnit v.uid fun u => u.bump .store)) s

/-- `stl` (R366, R131): C elements into each position's own lane store, at once. -/
def execStl (two : Bool) (mw : MWidth) (d x : Opnd) (s : State) : Out :=
  let i := Instr.stl two mw d x
  issue i (fun v =>
    let n := if two then 2 else 1
    match v.resolveOwn i v.l.L mw.bytes (n * mw.bytes) x with
    | .error t => .trap v.s t
    | .ok es =>
      let m := es.foldl (fun m e => (List.range n).foldl (fun m k =>
        writeSpan m (e.slot * 8192 + e.ea.getD 0 + k * mw.bytes) mw.bytes (v.dataAt i d k e.slot)) m) v.p.lanes
      let s1 := v.withPane { v.p with lanes := m }
      let s2 := if s1.poison.isEmpty then s1 else s1.setPoison (s1.poison.filter fun y => match y with
        | .lane p q l => !(p == v.pid && es.any fun e => e.slot == q && (coveredLines (ownSpans [e] n mw.bytes)).contains l)
        | _ => true)
      .next (s2.updUnit v.uid fun u => u.bump .store)) s

/-! ## Buffer registers (R296, R297) -/

/-- `bset` from memory (R297): 32 bytes at index x of bM, into bN when they arrive. -/
def execBset (n : Nat) (x : Opnd) (m : Nat) (s : State) : Out :=
  let i := Instr.bset n x m
  issue i (fun v =>
    match v.resolve i m .rd 32 x with
    | .error t => .trap v.s t
    | .ok es =>
      let accs := spread es 1 32 fun _ e a => ⟨e.mask, a, 32, 0, 0, [], false⟩
      let r := v.request i (.bset n) m .dflt accs []
      v.access .load [128 + n] none r (fun s l => performBset s v.who r n l)) s

/-- `bset.s` (R297): words from four scalars, at once. -/
def execBsetS (n k : Nat) (s : State) : Out :=
  issue (.bsetS n k) (fun v =>
    let w := fun (j : Nat) => (Sparse.read v.p.regs (rkey (k + j) 0)).toNat
    .next (v.withPane { v.p with bufs := Sparse.write v.p.bufs n (BufRec.ofWords (w 0) (w 1) (w 2) (w 3)) })) s

/-- `bget` (R297): word i of bN. -/
def execBget (d : Opnd) (n i : Nat) (s : State) : Out :=
  let ins := Instr.bget d n i
  issue ins (fun v => .next (v.writeD ins d fun _ => w64 (recBits (v.p.buf n) i 0 64))) s

/-! ## Long-accumulator images (R331) -/

/-- `lsv` (R331): each copy's slot folded and its image stored. -/
def execLsv (z x : Opnd) (n : Nat) (p : CPol) (s : State) : Out :=
  let i := Instr.lsv z x n p
  issueWith i (slotEarly i [z]) (fun v =>
    match v.resolve i n .wr 64 x with
    | .error t => .trap v.s t
    | .ok es0 =>
      match v.busySlot i [z] with
      | some k => .wait v.s (.slot k)
      | none =>
        let es := v.inOrder i.cls es0
        let folded := es.foldl (fun a e => foldSlot a (v.slotNo i z e.slot)) (v.ca.longs, 0)
        let accs := spread es 1 576 fun _ e a =>
          let k := v.slotNo i z e.slot
          ⟨e.mask, a, 576, ofBytes (folded.1.getD k .zero).image, 0, [], !(v.s.poisonedLimbs v.cid k).isEmpty⟩
        let r := v.request i .store n p accs []
        (v.access .store [] none r (fun s l => performStore s v.who p l)).after fun s =>
          v.withFlags (s.updCas v.cid fun c => { c with longs := folded.1 }) folded.2) s

/-- `lld` (R331): each copy's slot replaced by the image when it arrives. -/
def execLld (z x : Opnd) (n : Nat) (p : CPol) (s : State) : Out :=
  let i := Instr.lld z x n p
  issueWith i (slotEarly i [z]) (fun v =>
    match v.resolve i n .rd 64 x with
    | .error t => .trap v.s t
    | .ok es0 =>
      match v.busySlot i [z] with
      | some k => .wait v.s (.slot k)
      | none =>
        let es := v.inOrder i.cls es0
        let accs := es.map fun e => (⟨e.mask, e.ea.getD 0, if e.ea.isSome then 576 else 0, v.slotNo i z e.slot, 0, [], false⟩ : Acc)
        let r := v.request i .lld n p accs []
        v.access .load [] none r (fun s l => performLld s v.who r l)) s

/-! ## Events -/

/-- A piece of work that writes memory or records an atomic when it completes. -/
def Work.writes : Work → Bool
  | .store _ | .write _ | .rqt .. | .ordered _ | .count _ => true
  | .tile _ _ bound => !bound
  | _ => false

/-- A unit's write may be performed (R147): due, every earlier read of the unit bound, its earlier writes performed (DEDUCED,
log entry 24). -/
def State.mayPerform (s : State) (p : Pend) : Bool :=
  decide (p.due ≤ s.now) && !p.held && (!(p.core == accessUnit) || !p.work.chunks.any fun c => s.converting c.pa) &&
    s.pend.vals.all fun q => !s.earlier p.uid p.id q || p.uid == 0 || !(q.work.writes || (match q.work with
      | .reads .. => true
      | .logged r _ => r.op.kind != .write
      | .remote r _ => r.op.kind != .write
      | _ => false))

/-- Work that has completed leaves, with the log entries it had reserved (R245). -/
def State.retire (s : State) (p : Pend) : State := (s.dropPend p.id).unreserve p.ctx p.resv

/-- The poison of register copies whose source was poisoned (R240). -/
def badSites (pid : Nat) (bad : List (Nat × Nat)) : List Site :=
  bad.flatMap fun q => (List.range q.2).map fun b => .reg pid (q.1 / 256) (q.1 % 256) b

/-- A store that its home has accepted: performed, it leaves its count and its reservation, and its acknowledgement is on its way
(R145, R261). -/
def State.accepted (s : State) (p : Pend) (back : Nat) : State :=
  (s.unreserve p.ctx p.resv).putPend { p with work := .acking, kind := .other, resv := 0, due := s.now + back }

/-- An engine's or `rqt`'s stores performed: the acknowledgement of the registered ones is on its way. -/
def State.finishStores (s : State) (p : Pend) (cached : List Chunk) : State :=
  if cached = [] then s.retire p else s.accepted p (ackTime p.core cached)

/-- Row STORE_REGISTRATION_ACK (R145, R160): the home takes the bytes and registers the core as owner, in one step; later the
acknowledgement reaches the core, and its other units read the bytes (DEDUCED, log entry 55). -/
def execStoreRegistrationAck (id : Nat) (s : State) : Out :=
  match s.pend.find id with
  | none => .refused .notDue
  | some p => match p.work with
    | .store cs =>
      if s.mayPerform p then
        .next ((s.takeStores (s.whoOf p) p.id cs []).accepted p (ackTime p.core cs))
      else .refused .notDue
    | .acking => if p.due ≤ s.now then .next (s.dropPend p.id) else .refused .notDue
    | _ => .refused .notDue

/-- Row WRITE_ACKNOWLEDGED (R144, R98): a write is performed at its home or memory; ordered atomics are recorded. -/
def execWriteAcknowledged (id : Nat) (s : State) : Out :=
  match s.pend.find id with
  | none => .refused .notDue
  | some p =>
    if s.mayPerform p then
      let w := s.whoOf p
      match p.work with
      | .write cs =>
        .next (((if p.kind = .store then s.takeStores w p.id [] cs
          else cs.foldl (fun s c => (s.homeWrite w.ctx c).dropL1 w.core c.pa c.size) s)).retire p)
      | .rqt cached others flags =>
        .next (((s.takeStores w p.id cached others).finishStores p cached).updPane p.pane fun x => x.orFstat flags)
      | .ordered as => .next ((s.updCas w.cid fun c => { c with ords := c.ords ++ as }).retire p)
      | _ => .refused .notDue
    else .refused .notDue

/-- Row REGISTRY_RECALL (R145): the home takes an owned word back; its value stays. -/
def execRegistryRecall (pa : Nat) (s : State) : Out :=
  match s.owner.find (pa / 8) with
  | none => .refused .notDue
  | some c =>
    let s1 := s.recall pa 1
    .next (if (s.core c).l1valid.contains (pa / 8) then s1.dropL1 c pa 1 else s1)

end Sys2Proof.Machine
end

