-- ==== Sys2Proof/Machine/Atomic.lean ====
section
/-! DEFINITION. Atomics, watched words and sequence counters (R287 to R290, R302 to R304, R373) and the row
SEQUENCE_COUNTER_INCREMENT. -/

namespace Sys2Proof.Machine

/-! ## atom and atom2 (R287 to R290) -/

/-- Ordered atomics split from the others (R98): recorded after the latency to their home; their copies keep d. -/
def performAtomic (v : View) (ord : Nat) (r : MemReq) (s : State) (locs : List (Acc × List Piece)) : Perf :=
  let ords := orderedPart v r locs
  if ords = [] then performAtom s v.who r locs
  else
    let rest := locs.filter fun q => !ords.contains q
    let rec' := orderedOf s v.who r ord ords
    let t := (ords.flatMap Prod.snd).foldl (fun t p => max t (homeLatency v.core (homeRegion p.pa))) 1
    let s1 := s.recordPieces v.cid false (ords.flatMap Prod.snd)
    let p := performAtom s1 v.who r rest
    ⟨p.s, (if r.op.returns ∧ (rest ≠ [] ∨ r.zeros ≠ []) then p.works else []) ++ [(.ordered rec', t)]⟩

/-- The kind an atomic counts as (R289): Load where some copy of it returns, else Store. -/
def atomicKind (v : View) (r : MemReq) : Kind :=
  if !r.op.returns then .store
  else if v.l.det ∧ r.node.isNone ∧ r.zeros = [] ∧
      (let f := v.s.locate v.ctx .atomic r.accs
       f.locs.all fun q => q.2.any fun p => p.leaf.ord) then .store
  else .load

/-- THE ISSUE OF AN ATOMIC (R288, R289): elements of width w in ascending lane, then member, order. -/
def issueAtomic (i : Instr) (op : MemOp) (d x : Opnd) (n w : Nat) (p : CPol) (cmp : View → Nat → Nat) (s : State) : Out :=
  issue i (fun v =>
    match v.resolve i n .at_ w x with
    | .error t => .trap v.s t
    | .ok es0 =>
      let es := v.inOrder i.cls es0
      let accs := spread es 1 w fun _ e a =>
        ⟨e.mask, a, w, (v.rd i d e.slot).toNat % 2 ^ (8 * w), cmp v e.slot, [rkey d.code e.slot], false⟩
      let r := v.request i op n p accs (missedKeys es d.code 1)
      v.access (atomicKind v r) (if atomicKind v r = .load then destCodes d 1 else []) none r (performAtomic v v.s.nextId r)) s

/-- `atom` (R288): for cas the new value is register d + 1. -/
def execAtom (o : AtomOp) (t : AType) (d x : Opnd) (n : Nat) (p : CPol) (s : State) : Out :=
  let i := Instr.atom o t d x n p
  issueAtomic i (.atom o t d.isReg) d x n (atomWidth t) p
    (fun v q => if o = .cas then v.dataAt i d 1 q % 2 ^ (8 * atomWidth t) else 0) s

/-- `atom2` (R290): two 16-bit halves. -/
def execAtom2 (o : Atom2Op) (d x : Opnd) (n : Nat) (p : CPol) (s : State) : Out :=
  issueAtomic (.atom2 o d x n p) (.atom2 o d.isReg) d x n 4 p (fun _ _ => 0) s

/-! ## wadr (R373) -/

/-- The copies of a `wadr`, each tested against its word at the home; one whose index failed has no place and reads 0. -/
def performWadr (s : State) (w : Who) (locs : List (Acc × List Piece)) : Perf :=
  let ws := locs.map fun q => match q.2 with
    | p :: _ => (⟨some p.pa, q.1.keys.headD 0, q.1.data, none⟩ : Watch).test (s.homeRead p.pa 8)
    | [] => (⟨none, q.1.keys.headD 0, q.1.data, none⟩ : Watch).test 0
  let s1 := locs.foldl (fun s q => q.2.foldl (fun s p => (s.recall p.pa p.n).dropL1 w.core p.pa p.n) s) s
  let t := (locs.flatMap Prod.snd).foldl (fun t p => max t (readLatency s.dev w.core p.pa)) 18
  ⟨(s1.recordPieces w.cid false (locs.flatMap Prod.snd)), [(.wadr ws, t)]⟩

/-- `wadr` (R373): the unit parks, keeping its seat, until every copy has found a value other than the expected one (DEDUCED,
log entry 25). -/
def execWadr (d x : Opnd) (n : Nat) (s : State) : Out :=
  let i := Instr.wadr d x n
  issue i (fun v =>
    match v.resolve i n .rd 8 x with
    | .error t => .trap v.s t
    | .ok es0 =>
      let es := v.inOrder i.cls es0
      let accs := spread es 1 8 fun _ e a => ⟨e.mask, a, 8, (v.rd i d e.slot).toNat, 0, [rkey d.code e.slot], false⟩
      let miss := (es.filter fun e => e.ea.isNone).map fun e =>
        (⟨e.mask, 0, 0, (v.rd i d e.slot).toNat, 0, [rkey d.code e.slot], false⟩ : Acc)
      let r := v.request i .wadr n .dflt (accs ++ miss) []
      v.access .load (destCodes d 1) (some .wadr) r (fun s l => performWadr s v.who l)) s

/-! ## Sequence counters (R302 to R304) -/

/-- A record that names another node raises PROT (R302). -/
def counterRemote (v : View) (n : Nat) (es : List Elem) : Option Trap :=
  if (remoteNode v.s.dev (v.p.buf n)).isSome then
    match es.filterMap fun e => e.ea with
    | [] => none
    | a :: r => some { cause := causePROT, mask := v.E, eaddr := r.foldl min a }
  else none

/-- A counter wait that starts (R304): complete at once where the threshold is met. -/
def performCtwt (s : State) (w : Who) (thr : Nat) (locs : List (Acc × List Piece)) : Perf :=
  match locs.head?.bind fun q => q.2.head? with
  | none => ⟨s, if thr = 0 then [] else [(.ctwt none thr, 0)]⟩
  | some p =>
    let s1 := ((s.recall p.pa 8).dropL1 w.core p.pa 8).recordPiece w.cid false p
    ⟨s1, if thr ≤ s.homeRead p.pa 8 then [] else [(.ctwt (some p.pa) thr, 0)]⟩

/-- `ctwt` (R304): the unit parks without its seat until the counter reaches the threshold. -/
def execCtwt (t x : Opnd) (n : Nat) (s : State) : Out :=
  let i := Instr.ctwt t x n
  issue i (fun v =>
    match v.resolve i n .rd 8 x with
    | .error e => .trap v.s e
    | .ok es =>
      match counterRemote v n es with
      | some e => .trap v.s e
      | none =>
        let accs := spread es 1 8 fun _ e a => ⟨e.mask, a, 8, v.scalar t, 0, [], false⟩
        let r := { v.request i .ctwt n .dev accs [] with node := none }
        v.access .other [] (some .ctwt) r (fun s l => performCtwt s v.who (v.scalar t) l)) s

/-- `ctinc` (R303): the increment counts as Store kind until it is performed at the atomic unit. -/
def execCtinc (a x : Opnd) (n : Nat) (s : State) : Out :=
  let i := Instr.ctinc a x n
  issue i (fun v =>
    match v.resolve i n .at_ 8 x with
    | .error e => .trap v.s e
    | .ok es =>
      match counterRemote v n es with
      | some e => .trap v.s e
      | none =>
        let accs := spread es 1 8 fun _ e y => ⟨e.mask, y, 8, v.scalar a, 0, [], false⟩
        let r := { v.request i .ctinc n .dev accs [] with node := none }
        v.access .store [] none r (fun s l =>
          ⟨s.recordPieces v.cid false (l.flatMap Prod.snd),
            l.filterMap fun q => q.2.head?.map fun p =>
              (.count ⟨p.pa, p.va, 8, q.1.data, p.leaf.trk, false⟩, readLatency s.dev v.core p.pa)⟩)) s

/-- Row SEQUENCE_COUNTER_INCREMENT (R186, R303): the counter grows and every wait that it satisfies ends. -/
def execSequenceCounterIncrement (id : Nat) (s : State) : Out :=
  match s.pend.find id with
  | none => .refused .notDue
  | some p => match p.work with
    | .count c => if s.mayPerform p then
        .next ((((s.logTransfers (s.whoOf p) c.pa 8).increment p.ctx c).dropL1 p.core c.pa 8).retire p) else .refused .notDue
    | _ => .refused .notDue

end Sys2Proof.Machine
end

