-- ==== Sys2Proof/Machine/Ordering.lean ====
section
/-! DEFINITION. Ordering instructions of major 0x20 (R148, R286, R292, R316, R354, R359). -/

namespace Sys2Proof.Machine

/-- `acq` (R286): every earlier read and atomic bound, then L1 self-invalidates and earlier loads are covered. -/
def execAcq (s : State) : Out :=
  issue .acq (fun v =>
    if !v.s.mayAcquire v.uid then .wait v.s .acquire else .next (v.s.acquireUnit v.uid v.core)) s

/-- `rel` (R354): every earlier access performed; failed remote stores are raised here. -/
def execRel (s : State) : Out := issue .rel (fun v => v.release fun s => .next s) s

/-- The zero-length reads of a fence, one for each port that carried a host-window write of the unit (R316). -/
def placementReads (u : UnitSt) (m : Mask) (now : Nat) : List RemReq :=
  ((List.range 4).filter fun p => bits u.hostPorts p 1 == 1).map fun p =>
    { line := p, addr := 0, mask := m, node := p, host := true, kind := .load, window := none, charge := 0
      timeout := now + 2 ^ 20, answer := none }

/-- A fence's request of a unit that runs no `fence` instruction. -/
def fenceRequest (u : UnitSt) : MemReq where
  op := .fence
  i := .fence
  word := u.word.toNat
  clause := u.pc
  idx := u.idx
  bufn := 0
  node := none
  pol := .dflt
  accs := []
  zeros := []
  xm := u.xm
  rm := 0

/-- The placement reads of the fence that a pre-emption or a swap-out is for a unit that it saves (R158, R316). -/
def State.placePorts (s : State) (uid : Nat) : State :=
  match s.units.find uid with
  | none => s
  | some u =>
    if u.hostPorts = 0 then s
    else match s.launchOfPane u.pane, s.casOfPane u.pane with
      | some l, some c =>
        let (s, id) := s.fresh
        (s.putPend ⟨id, uid, u.pane, l.ctx, c.core, u.pc, .other, 0, s.now, s.now + 2600, false, 0,
          .remote (fenceRequest u) (placementReads u u.xm s.now)⟩).updUnit uid fun u => { u with hostPorts := 0 }
      | _, _ => s

/-- A fence of R158 whose accesses are performed: the loads of its units covered, and their core's L1 invalidated. -/
def State.acquireUnits (s : State) (core : Nat) (uids : List Nat) : State :=
  (uids.foldl (fun s k => s.updUnit k UnitSt.coverLoads) s).acquire core

/-- `fence` (R316): `rel`, then the placement reads, then `acq`. -/
def execFence (s : State) : Out :=
  issue .fence (fun v => v.release fun s =>
    if v.u.hostPorts ≠ 0 ∧ !v.u.released then
      v.flyAll s .other [] 0 (some .work) [(.remote (v.request .fence .fence 0 .dflt [] []) (placementReads v.u v.E v.s.now), 2600)]
    else if !s.mayAcquire v.uid then .wait s .acquire
    else .next (s.acquireUnit v.uid v.core)) s

/-- A unit parked at a barrier of a kind, without its seat (R58, R59). -/
def View.parkAtBarrier (v : View) (s : State) (k : Park) : State :=
  s.updUnit v.uid fun u => { u.issued s.now with park := k, parkedAt := s.now, seated := false }

/-- `bar` (R292): releases, parks, and completes when every pane of the casement has arrived. -/
def execBar (s : State) : Out :=
  issue .bar (fun v => v.release fun s => .placed ((v.parkAtBarrier s .bar).checkBar v.cid)) s

/-- `sbar` (R359): the same for every casement of the sash. -/
def execSbar (s : State) : Out :=
  issue .sbar (fun v => v.release fun s => .placed ((v.parkAtBarrier s .sbar).checkSbar v.cid)) s

end Sys2Proof.Machine
end

