-- ==== Sys2Proof/Machine/Copy.lean ====
section
/-! DEFINITION. Copy batches (R162 to R164, R300, R301, R305), the mover that engines share, and allowance instructions (R214).
Row COPY_BATCH_COMPLETE. -/

namespace Sys2Proof.Machine

/-! ## Issue -/

/-- Bytes of a copy (R162). -/
def copyBytes (sz : Nat) : Nat := 4 * 2 ^ sz

/-- DISAGREE of a narrower class through a per-member record (R26). -/
def perMember (v : View) (i : Instr) (n : Nat) : Bool := i.cls ≠ .vec && BufRec.mmode (v.p.buf n) == 1

/-- A global side's elements (R162, R300). -/
def copyGlobal (v : View) (i : Instr) (n : Nat) (k : Perm) (S : Nat) (x : Opnd) : Except Trap (List Elem) :=
  v.resolveRec n (v.p.buf n) k i.cls (min S 8) fun q => (v.rd i x q).toNat

/-- The lane a copy joins: its own, or for the scalar class the lowest active lane (R300). -/
def copyLane (v : View) (c : Cls) (q : Nat) : Nat :=
  match c with
  | .sca => (lanesOf v.E).headD 0
  | _ => q % 32

/-- One side of a copy located for the engine: nothing for scratch, a REM record or a dead copy. -/
def sideFound (s : State) (ctx : Nat) (o : CopyOp) (src : Bool) : Found :=
  let scr := if src then o.srcScr else o.dstScr
  let rec' := if src then o.srcRec else o.dstRec
  if scr ∨ o.dead ∨ (remoteNode s.dev rec').isSome then { s := s }
  else s.locate ctx (if src then .read else .write)
    [⟨o.mask, if src then o.src else o.dst, o.size, 0, 0, [], false⟩]

/-- PROT and FAULTFATAL of a copy's sides, found at issue (R300) (DEDUCED, log entry 26). -/
def copyTraps (v : View) (ops : List CopyOp) : Option Trap :=
  pickTrap ((ops.flatMap fun o => (sideFound v.s v.ctx o true).traps ++ (sideFound v.s v.ctx o false).traps).filter
    fun t => t.1 ≠ causeVAULT) false

/-- A copy joins its lane's open batch, which is sealed first when it holds 64 (R163). -/
def joinBatch (v : View) (s : State) (lane : Nat) (o : CopyOp) : State :=
  let held := ((s.panes.find v.pid).map fun p => (p.openB.getD lane []).length).getD 0
  let s := if 64 ≤ held then s.sealLane v.uid v.pid v.ctx v.core lane else s
  s.updPane v.pid fun p => { p with openB := p.openB.put lane (p.openB.getD lane [] ++ [o]) }

/-- Lanes that an instruction's copies would seal automatically although they hold eight sealed batches (R163, R306). -/
def overfullLanes (v : View) (ls : List Nat) : List Nat :=
  ls.eraseDups.filter fun l =>
    decide (64 < (v.p.openB.getD l []).length + (ls.filter fun x => x = l).length) && decide (8 ≤ v.s.sealedOf v.pid l)

/-- COPIES JOIN THEIR BATCHES (R163, R300), in ascending lane, then member, order. -/
def View.joinCopies (v : View) (i : Instr) (mk : Nat → Option CopyOp) : Act :=
  let ops := (v.ordered i.cls).filterMap fun q => (mk q).map fun o => (copyLane v i.cls q, o)
  match copyTraps v (ops.map Prod.snd) with
  | some t => .trap v.s t
  | none =>
    match overfullLanes v (ops.map Prod.fst) with
    | [] => .next (ops.foldl (fun s o => joinBatch v s o.1 o.2) v.s)
    | ls => .wait v.s (.seal ls)

/-- The address of an element in a list of elements. -/
def eaOf (es : List Elem) (q : Nat) : Option Nat := (es.find? fun e => e.slot = q).bind fun e => e.ea

/-- `cpy` (R300): bN's element to b(N + 1)'s. -/
def execCpy (sz : Nat) (d x : Opnd) (n : Nat) (p : CPol) (s : State) : Out :=
  let i := Instr.cpy sz d x n p
  issue i (fun v =>
    let S := copyBytes sz
    if perMember v i n || perMember v i (n + 1) then .trap v.s { cause := 4, mask := v.E }
    else match copyGlobal v i n .rd S x with
      | .error t => .trap v.s t
      | .ok es => match copyGlobal v i (n + 1) .wr S d with
        | .error t => .trap v.s t
        | .ok ed => v.joinCopies i fun q => (eaOf es q).bind fun a => (eaOf ed q).map fun b =>
          ⟨slotMask i.cls v.E q, S, a, b, false, false, v.p.buf n, v.p.buf (n + 1), p, false⟩) s

/-- `cpy.in` (R300): bN's element to casement scratch. -/
def execCpyIn (sz : Nat) (d x : Opnd) (n : Nat) (p : CPol) (s : State) : Out :=
  let i := Instr.cpyIn sz d x n p
  issue i (fun v =>
    let S := copyBytes sz
    match copyGlobal v i n .rd S x with
    | .error t => .trap v.s t
    | .ok es => match v.resolveOwn i v.l.scr (min S 8) S d with
      | .error t => .trap v.s t
      | .ok ed => v.joinCopies i fun q => (eaOf es q).bind fun a => (eaOf ed q).map fun b =>
        ⟨slotMask i.cls v.E q, S, a, b, false, true, v.p.buf n, 0, p, false⟩) s

/-- `cpy.out` (R300): casement scratch to bN's element. -/
def execCpyOut (sz : Nat) (d x : Opnd) (n : Nat) (p : CPol) (s : State) : Out :=
  let i := Instr.cpyOut sz d x n p
  issue i (fun v =>
    let S := copyBytes sz
    match copyGlobal v i n .wr S x with
    | .error t => .trap v.s t
    | .ok eg => match v.resolveOwn i v.l.scr (min S 8) S d with
      | .error t => .trap v.s t
      | .ok es => v.joinCopies i fun q => (eaOf es q).bind fun a => (eaOf eg q).map fun b =>
        ⟨slotMask i.cls v.E q, S, a, b, true, false, 0, v.p.buf n, p, false⟩) s

/-- `cseal` (R301): the open batch of every lane with an active position is submitted. -/
def execCseal (s : State) : Out :=
  issue .cseal (fun v =>
    let ls := openLanes v.p v.E
    match ls.filter fun l => decide (8 ≤ v.s.sealedOf v.pid l) with
    | [] => .next (v.s.sealLanes v.uid v.pid v.ctx v.core ls)
    | full => .wait v.s (.seal full)) s

/-- `cwait k` (R305): waits, raises the failure of a covered batch, then acquires. -/
def execCwait (k : Nat) (s : State) : Out :=
  issue (.cwait k) (fun v =>
    if !v.s.copiesWithin v.pid v.E k then .wait v.s (.copies k)
    else match v.s.batchTrap v.u with
      | some (t, fs) => .trap (v.s.dropBatchFails v.pid fs) t
      | none =>
        if !v.s.mayAcquire v.uid then .wait v.s .acquire else .next (v.s.acquireUnit v.uid v.core)) s

/-! ## The mover that engines share -/

/-- A copy with its sides located. -/
structure CopyPlan where
  op : CopyOp
  src : List Piece
  dst : List Piece
  trap : Option (Nat × Nat)
deriving DecidableEq, Repr

/-- What locating a list of copies finds. -/
structure Plans where
  s : State
  plans : List CopyPlan := []
  /-- (page, reason, access). -/
  faults : List (Nat × Nat × AccKind) := []
  busy : Bool := false

/-- One copy located; a side's trap makes the copy move nothing (R164). -/
def Plans.add (ctx : Nat) (a : Plans) (o : CopyOp) : Plans :=
  let f := sideFound a.s ctx o true
  let g := sideFound f.s ctx o false
  { s := g.s
    plans := a.plans ++ [⟨o, f.locs.flatMap Prod.snd, g.locs.flatMap Prod.snd,
      (pickTrap (f.traps ++ g.traps) true).map fun t => (t.cause, t.eaddr)⟩]
    faults := a.faults ++ f.faults.map (fun x => (x.1, x.2, .read)) ++ g.faults.map (fun x => (x.1, x.2, .write))
    busy := a.busy || f.busy.isSome || g.busy.isSome }

/-- Every copy located. -/
def State.planCopies (s : State) (ctx : Nat) (ops : List CopyOp) : Plans := ops.foldl (Plans.add ctx) { s := s }

/-- The parts of a side: scratch has none; a REM record's go to its node. -/
def sideParts (s : State) (ctx : Nat) (o : CopyOp) (src : Bool) (ps : List Piece) : List RPart :=
  if (if src then o.srcScr else o.dstScr) ∨ o.dead then []
  else match remoteNode s.dev (if src then o.srcRec else o.dstRec) with
    | some D => (linesOf (o.size / 64 + 2) (if src then o.src else o.dst) o.size).map fun q =>
        ⟨q.1 / 64, q.1 % 2 ^ 41 / 64 * 64, q.1 % 64, q.2, D, false, true, none⟩
    | none => ps.map (partOf s ctx)

/-- The line key of a request of copy k. -/
def copyLine (k line : Nat) : Nat := k * 2 ^ 60 + line

/-- The requests of the remote parts of copy k (R212: one line, charge 1). -/
def sideRequests (s : State) (ctx k : Nat) (wr : Bool) (o : CopyOp) (ps : List RPart) : List RemReq :=
  (ps.filter fun q => q.here.isNone).map fun q =>
    let fails := if q.host then !q.bound else !reachable s.dev q.node
    let win := if fails then none else chooseWindow (s.ctx ctx) q.host q.node (classOf .batch wr)
    { line := copyLine k q.line, addr := q.addr, mask := o.mask, node := q.node, host := q.host, kind := .batch
      window := win, charge := if win.isSome then 1 else 0, timeout := s.now + timeoutOf (s.ctx ctx) win
      answer := if fails then some (6, 0) else none, write := wr, skip := q.skip, size := q.n }

/-- The bytes of a copy's source: its parts in order, remote ones from their answers; whether any is poisoned. -/
def copySource (s : State) (w : Who) (k : Nat) (pl : CopyPlan) (rs : List RemReq) : Nat × Bool :=
  let o := pl.op
  if o.srcScr then
    let sc := ((s.cas.find w.cid).map CasementSt.scratch).getD []
    (readSpan sc o.src o.size, (List.range (o.size / 64 + 2)).any fun j =>
      decide (64 * (o.src / 64 + j) < o.src + o.size) && s.poison.contains (.scratch w.cid (o.src / 64 + j)))
  else
    let ps := sideParts s w.ctx o true pl.src
    (ps.reverse.foldl (fun v q =>
      let here := match q.here with
        | some p => s.homeRead p.pa p.n
        | none => bits ((((rs.find? fun x => x.line = copyLine k q.line).bind RemReq.answer).map Prod.snd).getD 0)
            (8 * q.skip) (8 * q.n)
      here + 2 ^ (8 * q.n) * v) 0,
      pl.src.any fun p => s.linePoisoned p.pa)

/-- A copy's remote source lines that failed. -/
def copyFailed (k : Nat) (rs : List RemReq) : List RemReq :=
  (failedReqs rs).filter fun q => q.line / 2 ^ 60 = k

/-- The bytes of a span written to casement scratch, with their poison (R240). -/
def State.writeScratch (s : State) (cid a n v : Nat) (bad : Bool) : State :=
  let s := s.updCas cid fun c => { c with scratch := writeSpan c.scratch a n v }
  let ls := (List.range (n / 64 + 2)).map fun j => a / 64 + j
  if bad then s.addPoison ((ls.filter fun l => decide (64 * l < a + n)).map fun l => .scratch cid l)
  else if s.poison.isEmpty then s
  else s.setPoison (s.poison.filter fun x => match x with
    | .scratch c l => !(c == cid && decide (a ≤ 64 * l) && decide (64 * l + 64 ≤ a + n))
    | _ => true)

/-- The data of a part that starts at byte `off` of a copy. -/
def partData (v off n : Nat) : Nat := bits v (8 * off) (8 * n)

/-- The local parts of a copy's destination written. -/
def copyWrite (s : State) (w : Who) (pl : CopyPlan) (v : Nat) (bad : Bool) : State :=
  let o := pl.op
  if o.dstScr then s.writeScratch w.cid o.dst o.size v bad
  else
    let ps := sideParts s w.ctx o false pl.dst
    (ps.foldl (fun (a : State × Nat) q =>
      match q.here with
      | some p => ((a.1.recall p.pa p.n).homeWrite w.ctx ⟨p.pa, p.va, p.n, partData v a.2 p.n, p.leaf.trk, bad⟩, a.2 + q.n)
      | none => (a.1, a.2 + q.n)) (s, 0)).1

/-- One copy moved: recorded for the trace (R190), read, written (DESIGN CHOICE, log entry 8). -/
def moveCopy (w : Who) (rs : List RemReq) (s : State) (q : CopyPlan × Nat) : State :=
  let pl := q.1
  let s := if rs.any fun x => !x.write && x.line / 2 ^ 60 == q.2 && (x.answer.map Prod.fst) == some 0 then s.makeWide w.cid else s
  if pl.op.dead ∨ pl.trap.isSome ∨ copyFailed q.2 rs ≠ [] then s
  else
    let (v, bad) := copySource s w q.2 pl rs
    copyWrite ((pl.src.foldl (fun s p => s.recall p.pa p.n) s).recordPieces w.cid false pl.src) w pl v bad

/-- The read requests of a list of copies. -/
def readRequests (s : State) (ctx : Nat) (ps : List CopyPlan) : List RemReq :=
  ps.zipIdx.flatMap fun q => if q.1.op.dead ∨ q.1.trap.isSome then []
    else sideRequests s ctx q.2 false q.1.op (sideParts s ctx q.1.op true q.1.src)

/-- The byte of a copy at which each of its parts starts. -/
def partStarts (ps : List RPart) : List (RPart × Nat) :=
  (ps.foldl (fun (a : List (RPart × Nat) × Nat) q => (a.1 ++ [(q, a.2)], a.2 + q.n)) ([], 0)).1

/-- The write requests of the copies whose source succeeded, with the bytes that `val` gives each. -/
def writeRequests (s : State) (w : Who) (rs : List RemReq) (ps : List CopyPlan) (val : CopyPlan × Nat → Nat × Bool) :
    List RemReq :=
  ps.zipIdx.flatMap fun q =>
    if q.1.op.dead ∨ q.1.trap.isSome ∨ copyFailed q.2 rs ≠ [] then []
    else
      let (v, bad) := val q
      let far := (partStarts (sideParts s w.ctx q.1.op false q.1.dst)).filter fun x => x.1.here.isNone
      ((sideRequests s w.ctx q.2 true q.1.op (far.map Prod.fst)).zip far).map fun x =>
        { x.1 with data := partData v x.2.2 x.2.1.n, bad := bad }

/-- What one visit of the mover leaves. -/
inductive MoveRes where
  /-- To be tried again later: a window without room, a vault being converted. -/
  | later (s : State)
  /-- Held by page faults. -/
  | held (s : State) (pages : List (Nat × Nat))
  /-- Requests have left; `phase` is the next. -/
  | sent (s : State) (traps : List (Nat × Nat × Nat)) (rs : List RemReq) (phase : Nat)
  /-- Everything is performed: the copies' traps by index, and the failed requests of both sides. -/
  | done (s : State) (traps : List (Nat × Nat × Nat)) (fails : List RemReq)

/-- Requests that leave: charged to the pane, sealed. -/
def State.sendRequests (s : State) (pid : Nat) (rs : List RemReq) : State × List RemReq :=
  (s.updPane pid fun p => p.charged rs).sealRequests rs

/-- THE MOVER (R163, R164, R167, R213, R226): located afresh at each visit; reads of remote sources, then the moves, then writes
of remote destinations (DEDUCED, log entry 26). -/
def State.moveVisit (s : State) (w : Who) (ops : List CopyOp) (rs : List RemReq) (phase : Nat) : MoveRes :=
  if phase = 2 then .done s [] (failedReqs rs)
  else
    let pl := s.planCopies w.ctx ops
    if pl.busy then .later s
    else match pl.faults with
      | f :: r =>
        .held ((f :: r).foldl (fun s x => s.noteFault w.ctx w.core x.1 x.2.1 (accEngine ||| accBit x.2.2)) pl.s)
          (((f :: r).map fun x => (x.1, x.2.1)).eraseDups)
      | [] =>
        let p := (s.panes.find w.pid).getD (PaneSt.start 0 0 0 0)
        let rr := if phase = 0 then readRequests s w.ctx pl.plans else rs
        if phase = 0 ∧ rr ≠ [] then
          if (unfit (s.ctx w.ctx) p rr).isSome then .later s
          else
            let (s1, sent) := pl.s.sendRequests w.pid rr
            .sent s1 [] sent 1
        else
          let wr := writeRequests s w rr pl.plans fun q => copySource s w q.2 q.1 rr
          if (unfit (s.ctx w.ctx) p wr).isSome then .later s
          else
            let s1 := pl.plans.zipIdx.foldl (moveCopy w rr) pl.s
            let traps := pl.plans.zipIdx.filterMap fun q => q.1.trap.map fun t => (q.2, t.1, t.2)
            if wr = [] then .done s1 traps (failedReqs rr)
            else
              let (s2, sent) := s1.sendRequests w.pid wr
              .sent s2 traps (sent ++ failedReqs rr) 2

/-! ## Row COPY_BATCH_COMPLETE -/

/-- Every read of its unit before a submission has bound (R147). -/
def State.boundBefore (s : State) (p : Pend) : Bool :=
  s.pend.vals.all fun q => !s.earlier p.uid p.id q || (match q.work with
    | .reads .. => false
    | .logged r _ => r.op.kind == .write
    | .remote r _ => r.op.kind == .write
    | .tile r _ bound => bound || r.op.kind == .write
    | _ => true)

/-- The causes a batch met, kept for the wait that covers it (R164) (DEDUCED, log entry 26). -/
def batchCauses (batch lane : Nat) (ops : List CopyOp) (traps : List (Nat × Nat × Nat)) (fails : List RemReq) : List BatchFail :=
  (traps.map fun t => ⟨batch, lane, t.2.1, t.2.2, 0, ((ops[t.1]?).map CopyOp.mask).getD 0⟩) ++
  fails.map fun q => ⟨batch, lane, if (q.answer.map Prod.fst).getD 0 = 1 then 0x0B else 0x0A, q.addr, eremOf q, q.mask⟩

/-- Row COPY_BATCH_COMPLETE (R163, R164): a visit of the copy engine to a sealed batch, which completes when every copy of it is
performed or has met a cause. -/
def execCopyBatchComplete (id : Nat) (s : State) : Out :=
  match s.pend.find id with
  | none => .refused .notDue
  | some p =>
    match p.work with
    | .copy lane ops _ rs phase =>
      if !s.boundBefore p ∨ s.now < p.due ∨ p.held ∨ rs.any fun q => q.answer.isNone then .refused .notDue
      else match s.moveVisit (s.whoOf p) ops rs phase with
        | .later s' => .next (s'.putPend { p with due := s.now + 64 })
        | .held s' pages => .next (s'.putPend { p with held := true, work := .copy lane ops pages rs phase })
        | .sent s' traps rs' k =>
          .next ((s'.putPend { p with work := .copy lane ops [] rs' k }).updPane p.pane fun x => { x with
            batchFails := x.batchFails ++ batchCauses id lane ops traps [] })
        | .done s' traps fails =>
          .next ((s'.dropPend id).updPane p.pane fun x => { x with
            batchFails := x.batchFails ++ batchCauses id lane ops traps fails })
    | _ => .refused .notDue

/-! ## Allowance instructions (R214, R358) -/

/-- al_k as R212 reads it: a disabled window reads the largest signed value. -/
def alValue (c : CtxSt) (p : PaneSt) (k : Nat) : Nat :=
  if c.limit k = 0 then 2 ^ 63 - 1 else wrap 64 (allowance c p k)

/-- `sard` (R214): the allowance of the window that a request of class k to a node or port would charge. -/
def execSard (b a : Opnd) (k : Nat) (s : State) : Out :=
  let i := Instr.sard b a k
  issue i (fun v =>
    let x := v.scalar a
    let al := match chooseWindow (v.s.ctx v.ctx) (bits x 10 1 == 1) (if bits x 10 1 = 1 then x % 4 else x % 1024) k with
      | some j => alValue (v.s.ctx v.ctx) v.p j
      | none => 2 ^ 63 - 1
    .next (v.writeD i b fun _ => w64 al)) s

/-- `sawt` (R214): waits until al_k is at least min(n, LIMIT_k), or nothing is outstanding on window k. -/
def execSawt (a : Opnd) (k : Nat) (s : State) : Out :=
  issue (.sawt a k) (fun v =>
    let c := v.s.ctx v.ctx
    let n := min (v.scalar a) (c.limit k)
    if n = 0 ∨ (n : Int) ≤ allowance c v.p k ∨ v.p.charge.getD k 0 = 0 then .next v.s
    else .wait v.s (.room k n)) s

/-- `bsa.full` (R214): taken when al_k ≤ 0. -/
def execBsaFull (k off : Nat) (s : State) : Out :=
  issue (.bsaFull k off) (fun v =>
    let c := v.s.ctx v.ctx
    if c.limit k ≠ 0 ∧ allowance c v.p k ≤ 0 then .jump v.s (wrap 57 ((v.u.pc : Int) + 4 * signed 20 off))
    else .next v.s) s

/-- `bsa.room` (R214): taken when al_k > 0. -/
def execBsaRoom (k off : Nat) (s : State) : Out :=
  issue (.bsaRoom k off) (fun v =>
    let c := v.s.ctx v.ctx
    if c.limit k = 0 ∨ 0 < allowance c v.p k then .jump v.s (wrap 57 ((v.u.pc : Int) + 4 * signed 20 off))
    else .next v.s) s

end Sys2Proof.Machine
end

