-- ==== Sys2Proof/Machine/Matrix.lean ====
section
/-! DEFINITION. The matrix engine (R104 to R118, R337 to R341): tiles, a-registers, products, drains, the engine's order and the
baton. Rows ENGINE_OP_COMPLETE and BATON_GRANT. -/

namespace Sys2Proof.Machine

/-! ## Tiles (R104) -/

/-- First place of a tile: 4,096 bytes of T, then 256 of S. -/
def tileAt (t : Nat) : Nat := 4352 * t
/-- First place of a tile's scale side-band. -/
def sideAt (t : Nat) : Nat := 4352 * t + 4096

/-- T of a tile as one little-endian number. -/
def MxSt.T (mx : MxSt) (t : Nat) : Nat := readSpan mx.tiles (tileAt t) 4096
/-- Byte k of S of a tile. -/
def MxSt.S (mx : MxSt) (t k : Nat) : Nat := (Sparse.read mx.tiles (sideAt t + k)).toNat

/-- Bytes written at places of the tile file. -/
def MxSt.put (mx : MxSt) (bs : List (Nat × Byte)) : MxSt :=
  { mx with tiles := bs.foldl (fun m q => Sparse.write m q.1 q.2) mx.tiles }

/-- Layouts of an operand: natural, transposed, transposed and member-stacked. -/
inductive Layout where
  | natural | transposed | stacked
deriving DecidableEq, Repr

/-- The number of element (p, k) (R104). -/
def elemNo (l : Layout) (M K p k : Nat) : Nat :=
  let h := 16 / M
  match l with
  | .natural => p * K + k
  | .transposed => k * 16 + p
  | .stacked => p / h * h * K + k * h + p % h

def layoutA (f : MFlags) : Layout := if f.ta then (if f.ms then .stacked else .transposed) else .natural
def layoutB (f : MFlags) : Layout := if f.tb then .transposed else .natural

/-- The codes of index p along K. -/
def tileRow (T : Nat) (l : Layout) (M w K p : Nat) : List Nat :=
  (List.range K).map fun k => bits T (w * elemNo l M K p k) w

/-! ## Elements -/

/-- The operand types of Table 1 (R106). -/
inductive MTy where
  | flt (f : Fmt)
  | int (sgn : Bool)
deriving DecidableEq, Repr

/-- An exact operand v · 2^e; none for a special (R107). -/
def MTy.val (t : MTy) (c : Nat) : Option (Int × Int) :=
  match t with
  | .int sgn => some (if sgn then signed 8 c else (c : Int), 0)
  | .flt f => match f.val c with
    | .fin ng m e => some (sgnM ng m, e)
    | _ => none

/-- Types, width, K and summation shape of a multiply (R106 Table 1). -/
structure Mul where
  ta : MTy
  tb : MTy
  w : Nat
  K : Nat
  sh : Nat
deriving DecidableEq, Repr

def halfFmt : HalfTy → Fmt
  | .bf16 => .bf16
  | .f16 => .f16

def f8Types : F8Ty → MTy × MTy
  | .e4m3 => (.flt .e4m3, .flt .e4m3)
  | .e5m2 => (.flt .e5m2, .flt .e5m2)
  | .e4m3e5m2 => (.flt .e4m3, .flt .e5m2)
  | .e5m2e4m3 => (.flt .e5m2, .flt .e4m3)

def i8Types : I8Ty → MTy × MTy
  | .i8 => (.int true, .int true)
  | .ui8i8 => (.int false, .int true)
  | .i8ui8 => (.int true, .int false)
  | .ui8 => (.int false, .int false)

/-- Element (i, j) of an a-register. -/
def AccSt.el (a : AccSt) (n : Nat) : AccEl := a.elems.getD n .clear

/-- An a-register of a core. -/
def MxSt.acc (mx : MxSt) (n : Nat) : AccSt := mx.accs.getD n .clear

/-- Every element of an a-register mapped, with the index 16i + j. -/
def AccSt.mapEls (a : AccSt) (f : Nat → AccEl → AccEl) : AccSt :=
  { a with elems := (List.range 256).map fun n => (n, f n (a.el n)) }

/-- ClearAcc (R107, R111): the form set, every sum and mark cleared, anchors kept. -/
def AccSt.wipe (a : AccSt) (fp32 : Bool) : AccSt :=
  { (a.mapEls fun _ e => { AccEl.clear with anchor := e.anchor }) with fp32 := fp32, rowM := 0, colM := 0, ovf := 0 }

/-- A form mismatch (R107): every overflow mark set. -/
def AccSt.mismatch (a : AccSt) : AccSt := { a with ovf := 2 ^ 256 - 1 }

/-- A product v · 2^e reaching a window element (R89): the element, flags, and whether it marks overflow (DEDUCED, log entry
29). -/
def windowAdd (r : AccEl × Nat × Bool) (p : Int × Int) : AccEl × Nat × Bool :=
  let el := r.1
  let k := p.2 - (el.anchor - 224)
  if p.1 ≠ 0 ∧ (256 : Int) ≤ blen p.1.natAbs + k then (el, r.2.1 ||| flWOVF, true)
  else
    let lost := decide (k < 0) && p.1 % 2 ^ (-k).toNat != 0
    let n := if 0 ≤ k then p.1 * 2 ^ k.toNat else p.1 / 2 ^ (-k).toNat
    let past := decide ((2 ^ 32 : Int) < el.count + 1)
    ({ el with sum := el.sum + n, count := min (el.count + 1) (2 ^ 33 - 1) },
      r.2.1 ||| (if lost then flWLOSS else 0) ||| (if past then flWOVF else 0), r.2.2 || past)

/-- Round32 (R92) of a finite exact value, and the sum of two FP32 codes on IEEE terms. -/
def add32 (a b : Nat) : Nat :=
  match Fmt.f32.val a, Fmt.f32.val b with
  | .nan _, _ => Fmt.f32.canon
  | _, .nan _ => Fmt.f32.canon
  | .inf x, .inf y => if x = y then a else Fmt.f32.canon
  | .inf _, _ => a
  | _, .inf _ => b
  | .fin na ma ea, .fin nb mb eb => let r := dyAdd (sgnM na ma) ea (sgnM nb mb) eb; round32 r.1 r.2

/-- Round32 of an FP32 code plus a finite exact value. -/
def addExact32 (c : Nat) (p : Int × Int) : Nat :=
  match Fmt.f32.val c with
  | .nan _ => Fmt.f32.canon
  | .inf _ => c
  | .fin ng m e => let r := dyAdd (sgnM ng m) e p.1 p.2; round32 r.1 r.2

/-- The exact sum of products. -/
def exactSum (ps : List (Int × Int)) : Int × Int := ps.foldl (fun a p => dyAdd a.1 a.2 p.1 p.2) (0, 0)

/-- Neighbours joined pairwise. -/
def pairUp {α β : Type} (f : α → α → β) : List α → List β
  | a :: b :: r => f a b :: pairUp f r
  | _ => []

/-- Levels of S2 above the first, down to one value. -/
def pairTree : Nat → List Nat → Nat
  | 0, xs => xs.headD 0
  | n + 1, xs => if xs.length ≤ 1 then xs.headD 0 else pairTree n (pairUp add32 xs)

/-- Groups of 16 consecutive products. -/
def groups16 : Nat → List (Int × Int) → List (List (Int × Int))
  | 0, _ => []
  | n + 1, ps => ps.take 16 :: groups16 n (ps.drop 16)

/-- ShapeSum (R92 Table 3). -/
def shapeSum (sh c : Nat) (ps : List (Int × Int)) : Nat :=
  match sh with
  | 1 => ps.foldl addExact32 c
  | 2 => add32 c (pairTree 8 (pairUp (fun a b => let r := dyAdd a.1 a.2 b.1 b.2; round32 r.1 r.2) ps))
  | 3 => (groups16 (ps.length / 16) ps).foldl (fun c g => let r := exactSum g; add32 c (round32 r.1 r.2)) c
  | _ => addExact32 c (exactSum ps)

/-- Exact products of two operand lists, specials read as 0. -/
def products (xs ys : List (Option (Int × Int))) : List (Int × Int) :=
  (xs.zip ys).map fun q => match q.1, q.2 with
    | some a, some b => (a.1 * b.1, a.2 + b.2)
    | _, _ => (0, 0)

/-- The mask of the lists that hold a special. -/
def specialMask (rows : List (List (Option (Int × Int)))) : Nat :=
  (rows.zipIdx.map fun q => if q.1.any Option.isNone then 2 ^ q.2 else 0).foldl (· ||| ·) 0

/-- One product sum added to element n of an a-register. -/
def mulElement (a : AccSt) (sh n : Nat) (ps : List (Int × Int)) (r : AccSt × Nat) : AccSt × Nat :=
  if sh = 0 then
    let x := ps.foldl windowAdd (a.el n, 0, false)
    ({ r.1 with elems := r.1.elems.put n x.1, ovf := if x.2.2 then r.1.ovf ||| 2 ^ n else r.1.ovf }, r.2 ||| x.2.1)
  else ({ r.1 with elems := r.1.elems.put n { a.el n with c := shapeSum sh (a.el n).c ps } }, r.2)

/-- A MATRIX MULTIPLY (R107): the a-register and the fstat bits. -/
def matMul (mx : MxSt) (M ad ma mb : Nat) (f : MFlags) (u : Mul) : AccSt × Nat :=
  let a0 := mx.acc ad
  let a1 := if f.cf then a0.wipe (u.sh ≠ 0) else a0
  if a1.fp32 ≠ decide (u.sh ≠ 0) then (a1.mismatch, flWOVF)
  else
    let TA := mx.T ma
    let TB := mx.T mb
    let xs := (List.range 16).map fun i => (tileRow TA (layoutA f) M u.w u.K i).map u.ta.val
    let ys := (List.range 16).map fun j => (tileRow TB (layoutB f) M u.w u.K j).map u.tb.val
    let a2 := { a1 with rowM := a1.rowM ||| specialMask xs, colM := a1.colM ||| specialMask ys }
    (List.range 256).foldl (fun r n =>
      mulElement a2 u.sh n (products (xs.getD (n / 16) []) (ys.getD (n % 16) [])) r) (a2, 0)

/-! ## Q4 (R67, R108, R112) -/

/-- Eight times the value of a Q4 code (R67 Table 2). -/
def q4x8 (ty c : Nat) : Int :=
  let mag : Nat := match ty with
    | 1 => [0, 4, 8, 12, 16, 24, 32, 48].getD (c % 8) 0
    | 2 => if c % 8 = 0 then 0 else 2 ^ (c % 8 - 1)
    | _ => [0, 8, 16, 24, 32, 48, 64, 96].getD (c % 8) 0
  if ty = 0 then 8 * signed 4 c else sgnM (bits c 3 1 == 1) mag

/-- Eight times the values of index p of a Q4 tile, each under its block's type. -/
def q4Row (mx : MxSt) (t M : Nat) (l : Layout) (T p : Nat) : List Int :=
  (tileRow T l M 4 512 p).zipIdx.map fun q => q4x8 (mx.S t (16 * p + q.2 / 32) / 64) q.1

/-- The dot product of two lists of integers. -/
def dotInt (xs ys : List Int) : Int := ((xs.zip ys).map fun q => q.1 * q.2).foldl (· + ·) 0

/-- `mmq` (R108): every partial of pq, in units of 2^−6. -/
def matQ4 (mx : MxSt) (M ma mb : Nat) (f : MFlags) : Map Int :=
  let TA := mx.T ma
  let TB := mx.T mb
  let xs := (List.range 16).map fun i => q4Row mx ma M (layoutA f) TA i
  let ys := (List.range 16).map fun j => q4Row mx mb M (layoutB f) TB j
  (List.range 4096).map fun n =>
    (n, dotInt (((xs.getD (n / 256) []).drop (32 * (n % 16))).take 32)
      (((ys.getD (n / 16 % 16) []).drop (32 * (n % 16))).take 32))

/-- `mscl` (R112): each scaled partial as one window product. -/
def matScale (mx : MxSt) (ad ma mb : Nat) (cf : Bool) : AccSt × Nat :=
  let a := if cf then (mx.acc ad).wipe false else mx.acc ad
  if a.fp32 then (a.mismatch, flWOVF)
  else
    (List.range 256).foldl (fun r n =>
      mulElement a 0 n ((List.range 16).map fun b =>
        (mx.pq.getD (16 * n + b) 0,
          ((mx.S ma (16 * (n / 16) + b) % 64 : Nat) : Int) + (mx.S mb (16 * (n % 16) + b) % 64 : Nat) - 64 - 6)) r) (a, 0)

/-- `manc` (R88, R111): anchors from the two exponent vectors; the register cleared into window form. -/
def matAnchor (mx : MxSt) (ad ma mb : Nat) : AccSt :=
  let emax := fun (t i : Nat) => signed 16 (readSpan mx.tiles (tileAt t + 2 * i) 2)
  ((mx.acc ad).wipe false).mapEls fun n e => { e with anchor := clampS 16 (emax ma (n / 16) + emax mb (n % 16) + 2) }

/-! ## Drains and moves (R113 to R115) -/

/-- The value and flags element n drains with (R90, R109, R113). -/
def drainEl (a : AccSt) (t : FType) (rm : RMode) (n : Nat) : Nat × Nat :=
  let f := Fmt.ofType t
  let el := a.el n
  if bits a.rowM (n / 16) 1 = 1 ∨ bits a.colM (n % 16) 1 = 1 then (f.canon, flSPEC)
  else if bits a.ovf n 1 = 1 then (f.canon, 0)
  else if a.fp32 then
    let r := fpConv .f32 f (.plain rm) el.c
    (r.code, r.flags &&& (flINX ||| flOVF ||| flUNF))
  else if clampS 256 el.sum ≠ el.sum then (f.canon, flWOVF)
  else
    let r := f.roundInt rm false false el.sum (el.anchor - 224)
    (r.code, r.flags)

/-- Registers of `mdrn` (R113). -/
def drainCount (t : FType) (M : Nat) : Nat := max 1 (16 / M * (fbits t / 8) / 16)

/-- Bytes of rows, each with its member's stream: the registers from `v` on receive them, eight to a lane (R113, R114). -/
def streamWrites (M v : Nat) (stream : Nat → List Byte) : List (Nat × Word) :=
  (List.range M).flatMap fun m =>
    let bs := stream m
    (List.range (bs.length / 8)).map fun j =>
      (rkey (v + j / 32) (posOf (j % 32) m), w64 (ofBytes ((bs.drop (8 * j)).take 8)))

/-- `mdrn` (R113): register copies and fstat bits. -/
def matDrain (mx : MxSt) (M ad v : Nat) (t : FType) (rm : RMode) : List (Nat × Word) × Nat :=
  let ds := (List.range 256).map (drainEl (mx.acc ad) t rm)
  let h := 16 / M
  let wb := fbits t / 8
  (streamWrites M v fun m => ((ds.drop (16 * m * h)).take (16 * h)).flatMap fun d => toBytes wb d.1,
    ds.foldl (fun f d => f ||| d.2) 0)

/-- `mtl.out` (R114). -/
def tileOutWrites (mx : MxSt) (M t v : Nat) : List (Nat × Word) :=
  let h := 16 / M
  streamWrites M v fun m => Memory.readBytes mx.tiles (tileAt t + 256 * m * h) (256 * h)

/-- Places of a tile that a vector register group fills (R114): (place, code, position, byte). -/
def tileSources (M : Nat) (t v : Nat) (sb : Bool) : List (Nat × Nat × Nat × Nat) :=
  let h := 16 / M
  let n := if sb then 16 * h else 256 * h
  (List.range M).flatMap fun m => (List.range n).map fun k =>
    ((if sb then sideAt t else tileAt t) + m * n + k, v + k / 256, posOf (k % 256 / 8) m, k % 8)

/-- `mflg` (R115): rows 0 to 2. -/
def flagBytes (a : AccSt) : List Byte :=
  toBytes 2 a.rowM ++ toBytes 2 a.colM ++ toBytes 32 a.ovf ++ toBytes 1 (if a.fp32 then 1 else 0) ++
    List.replicate 219 0 ++ (List.range 256).flatMap fun n => toBytes 2 (wrap 16 (a.el n).anchor)

/-! ## Poison of matrix registers (R240) -/

/-- Poisoned places of the tile file. -/
def State.badPlaces (s : State) (core : Nat) : List Nat :=
  s.poison.filterMap fun x => match x with
    | .tile c t b => if c = core then some (tileAt t + b) else none
    | .side c t b => if c = core then some (sideAt t + b) else none
    | _ => none

def placeSite (core q : Nat) : Site :=
  if q % 4352 < 4096 then .tile core (q / 4352) (q % 4352) else .side core (q / 4352) (q % 4352 - 4096)

/-- Poisoned elements of an a-register. -/
def State.badEls (s : State) (core a : Nat) : List Nat :=
  s.poison.filterMap fun x => match x with
    | .acc c k n => if c = core ∧ k = a then some n else none
    | _ => none

def State.badParts (s : State) (core : Nat) : List Nat :=
  s.poison.filterMap fun x => match x with
    | .pq c n => if c = core then some n else none
    | _ => none

/-- The sites of a kind replaced by new ones. -/
def State.replaceSites (s : State) (old : Site → Bool) (new : List Site) : State :=
  s.setPoison ((s.poison.filter fun x => !old x) ++ new)

def isPlaceOf (core : Nat) (hit : Nat → Bool) : Site → Bool
  | .tile c t b => c == core && hit (tileAt t + b)
  | .side c t b => c == core && hit (sideAt t + b)
  | _ => false

def isEl (core a : Nat) : Site → Bool
  | .acc c k _ => c == core && k == a
  | _ => false

def isPart (core : Nat) : Site → Bool
  | .pq c _ => c == core
  | _ => false

/-- The indices whose operand uses a poisoned place. -/
def badIndices (bad : List Nat) (t : Nat) (l : Layout) (M w K : Nat) : List Nat :=
  (List.range 16).filter fun p => (List.range K).any fun k => bad.contains (tileAt t + w * elemNo l M K p k / 8)

/-- Elements of an a-register that a multiply poisons. -/
def mulBad (s : State) (core M ad ma mb : Nat) (f : MFlags) (w K : Nat) : List Site :=
  let bad := s.badPlaces core
  let rs := badIndices bad ma (layoutA f) M w K
  let cs := badIndices bad mb (layoutB f) M w K
  let old := if f.cf then [] else s.badEls core ad
  ((List.range 256).filter fun n => rs.contains (n / 16) || cs.contains (n % 16) || old.contains n).map fun n => .acc core ad n

/-- Poison carried by an engine operation on matrix registers, on the state before it. -/
def enginePoison (s : State) (core : Nat) (o : EngOp) : State :=
  let bad := s.badPlaces core
  let mul := fun (ad ma mb : Nat) (f : MFlags) (w K : Nat) =>
    s.replaceSites (isEl core ad) (mulBad s core o.M ad ma mb f w K)
  let sideBad := fun (t p b : Nat) => bad.contains (sideAt t + 16 * p + b)
  match o.i with
  | .mmd ad ma mb f => mul ad ma mb f 64 32
  | .mms ad ma mb _ f => mul ad ma mb f 32 64
  | .mmh _ ad ma mb _ f => mul ad ma mb f 16 128
  | .mmf _ ad ma mb _ f => mul ad ma mb f 8 256
  | .mmi _ ad ma mb f => mul ad ma mb f 8 256
  | .mmq ma mb ta tb ms =>
    let f : MFlags := ⟨ta, tb, ms, false⟩
    let hit := fun (t : Nat) (l : Layout) (p b : Nat) => sideBad t p b ||
      (List.range 32).any fun k => bad.contains (tileAt t + 4 * elemNo l o.M 512 p (32 * b + k) / 8)
    s.replaceSites (isPart core) (((List.range 4096).filter fun n =>
      hit ma (layoutA f) (n / 256) (n % 16) || hit mb (layoutB f) (n / 16 % 16) (n % 16)).map fun n => .pq core n)
  | .mscl ad ma mb cf =>
    let parts := s.badParts core
    let old := if cf then [] else s.badEls core ad
    s.replaceSites (isEl core ad) (((List.range 256).filter fun n => old.contains n || (List.range 16).any fun b =>
      parts.contains (16 * n + b) || sideBad ma (n / 16) b || sideBad mb (n % 16) b).map fun n => .acc core ad n)
  | .manc ad ma mb =>
    let hit := fun (t i : Nat) => bad.contains (tileAt t + 2 * i) || bad.contains (tileAt t + 2 * i + 1)
    s.replaceSites (isEl core ad) (((List.range 256).filter fun n => hit ma (n / 16) || hit mb (n % 16)).map fun n => .acc core ad n)
  | .macz ad | .maczF32 ad => s.replaceSites (isEl core ad) []
  | .mdrn t ad v4 _ =>
    let h := 16 / o.M
    let wb := fbits t / 8
    s.addPoison ((s.badEls core ad).flatMap fun n =>
      let k := wb * (n - 16 * h * (n / (16 * h)))
      (List.range wb).map fun b => .reg o.pane (4 * v4 + (k + b) / 256) (posOf ((k + b) % 256 / 8) (n / (16 * h))) ((k + b) % 8))
  | .mtlOut t v4 =>
    s.addPoison ((tileSources o.M t (4 * v4) false).filterMap fun q =>
      if bad.contains q.1 then some (.reg o.pane q.2.1 q.2.2.1 q.2.2.2) else none)
  | .mflg ad t =>
    let els := s.badEls core ad
    s.replaceSites (isPlaceOf core fun q => decide (tileAt t ≤ q) && decide (q < tileAt t + 768))
      ((els.flatMap fun n => [tileAt t + 4 + n / 8, tileAt t + 256 + 2 * n, tileAt t + 257 + 2 * n]).eraseDups.map (placeSite core))
  | _ =>
    s.replaceSites (isPlaceOf core fun q => o.data.any fun d => d.1 == q) (o.bad.map (placeSite core))

/-! ## The baton (R118) -/

/-- The baton taken by a pane; another context's values are cleared before the first operation performed for it (R40) (DEDUCED, log
entry 30). -/
def State.takeBaton (s : State) (core pid ctx : Nat) : State :=
  s.updCore core fun c => { c with
    baton := some pid
    releasing := false
    stale := c.stale || (c.batonCtx.isSome && decide (c.batonCtx ≠ some ctx))
    batonCtx := some ctx }

/-- Units parked for a core's baton. -/
def State.batonWaiters (s : State) (core : Nat) : List (Nat × UnitSt) :=
  s.units.filter fun q => decide (q.2.park = .wait .baton) && ((s.casOfPane q.2.pane).map CasementSt.core) == some core

/-- THE BATON FOR AN ENGINE OPERATION (R118): held, taken where it is free and no unit waits for it, else a wait. -/
def View.withBaton (v : View) (k : State → Act) : Act :=
  match (v.s.core v.core).baton with
  | some p => if p = v.pid then k v.s else .wait v.s .baton
  | none =>
    if (v.s.batonWaiters v.core).any fun q => q.1 != v.uid then .wait v.s .baton
    else k (v.s.takeBaton v.core v.pid v.ctx)

/-! ## Issuing an engine operation (R117, R337) -/

/-- The pipe of an engine operation: 0 array, 1 drain, 2 load-store (R117). -/
def pipeOf : Instr → Nat
  | .mmd .. | .mms .. | .mmh .. | .mmf .. | .mmi .. | .mmq .. => 0
  | .mld .. | .mldSb .. | .mst .. | .mstSb .. | .psaveMx .. | .prestMx .. => 2
  | _ => 1

/-- The ac for which an operation occupies its pipe (R106 Table 1, R117 Table 3). -/
def pipeTime : Instr → Nat
  | .mmd .. | .mscl .. | .mld .. | .mldSb .. | .mst .. | .mstSb .. | .psaveMx .. | .prestMx .. => 4
  | .mms .. | .mdrn .. | .mtlIn .. | .mtlOut .. | .mtlSb .. => 2
  | _ => 1

/-- The matrix registers that an operation reads or writes: tile t as t, a-register a as 16 + a, pq as 24 (R104, R105). -/
def engineRegs : Instr → List Nat
  | .mmd a x y _ | .mms a x y _ _ | .mmh _ a x y _ _ | .mmf _ a x y _ _ | .mmi _ a x y _ | .manc a x y => [16 + a, x, y]
  | .mmq x y _ _ _ => [24, x, y]
  | .mscl a x y _ => [16 + a, x, y, 24]
  | .macz a | .maczF32 a | .mdrn _ a _ _ => [16 + a]
  | .mflg a t => [16 + a, t]
  | .mtlIn t _ | .mtlOut t _ | .mtlSb t _ => [t]
  | .mld _ _ t _ _ _ | .mldSb _ t _ _ _ | .mst _ _ t _ _ _ | .mstSb _ t _ _ _ => [t]
  | _ => List.range 25

/-- Two operations overlap only when their register sets are disjoint (R117). -/
def engineApart (a b : Instr) : Bool := (engineRegs a).all fun r => !(engineRegs b).contains r

/-- The ac in which an operation can start after an earlier one: once the pipe is free, and where they share a register, once
the earlier one has written its results (R117). -/
def startAfter (i : Instr) (x : EngOp) : Nat :=
  max (if pipeOf x.i = pipeOf i then x.start + pipeTime x.i else 0) (if engineApart x.i i then 0 else x.due)

/-- The operations that stand behind one that completes, each put off by what it has to wait for (R117). -/
def putOff (now : Nat) (o : EngOp) (q : List EngOp) : List EngOp :=
  q.foldl (fun done x =>
    let at_ := (done.map (startAfter x.i)).foldl max (max x.start (if engineApart o.i x.i ∨ x.id < o.id then 0 else now))
    done ++ [{ x with start := at_, due := x.due + (at_ - x.start) }]) []

/-- An operation put in the engine's queue, counted in WMX. -/
def View.enqueue (v : View) (s : State) (i : Instr) (codes : List Nat) (lat : Nat) (held : Bool) (w : Work)
    (data : List (Nat × Byte)) (bad : List Nat) : State :=
  let id := s.nextId
  let c := s.core v.core
  let s1 := v.launchWork s .matrix 0 held codes w
  s1.updCore v.core fun k => { k with
    engQ := k.engQ ++ [⟨id, v.uid, v.pid, v.M, i, bits v.p.fmode.toNat 0 2, data, bad,
      (c.engQ.map (startAfter i)).foldl max s.now + lat, (c.engQ.map (startAfter i)).foldl max s.now⟩] }

/-- EVERY ENGINE OPERATION once its own causes are tested: the baton, room in the queue and in WMX, then the queue. -/
def View.engine (v : View) (i : Instr) (codes : List Nat) (lat : Nat) (data : List (Nat × Byte)) : Act :=
  v.withBaton fun s =>
    if 16 ≤ (s.core v.core).engQ.length then .wait v.s .engine
    else if v.countFull .matrix then .wait v.s (.count .matrix)
    else .next (v.enqueue s i codes lat false .none data [])

/-- ILLEGAL reason 7 for a summation shape outside the kernel descriptor's SHAPES (R94). -/
def shapeEarly (sh : Nat) (v : View) : Early :=
  { illegal := if sh ≠ 0 ∧ (v.l.det || v.l.trace) ∧ bits v.l.shapes (sh - 1) 1 = 0 then some 7 else none }

/-- `mmd` (R106, R107). -/
def execMmd (ad ma mb : Nat) (f : MFlags) (s : State) : Out :=
  issue (.mmd ad ma mb f) (fun v => v.engine (.mmd ad ma mb f) [] 12 []) s

/-- `mms` (R106, R107, R94). -/
def execMms (ad ma mb sh : Nat) (f : MFlags) (s : State) : Out :=
  issueWith (.mms ad ma mb sh f) (shapeEarly sh) (fun v => v.engine (.mms ad ma mb sh f) [] 10 []) s

/-- `mmh` (R106, R107, R94). -/
def execMmh (t : HalfTy) (ad ma mb sh : Nat) (f : MFlags) (s : State) : Out :=
  issueWith (.mmh t ad ma mb sh f) (shapeEarly sh) (fun v => v.engine (.mmh t ad ma mb sh f) [] 9 []) s

/-- `mmf` (R106, R107, R94). -/
def execMmf (t : F8Ty) (ad ma mb sh : Nat) (f : MFlags) (s : State) : Out :=
  issueWith (.mmf t ad ma mb sh f) (shapeEarly sh) (fun v => v.engine (.mmf t ad ma mb sh f) [] 9 []) s

/-- `mmi` (R106, R107). -/
def execMmi (t : I8Ty) (ad ma mb : Nat) (f : MFlags) (s : State) : Out :=
  issue (.mmi t ad ma mb f) (fun v => v.engine (.mmi t ad ma mb f) [] 9 []) s

/-- `mmq` (R108). -/
def execMmq (ma mb : Nat) (ta tb ms : Bool) (s : State) : Out :=
  issue (.mmq ma mb ta tb ms) (fun v => v.engine (.mmq ma mb ta tb ms) [] 9 []) s

/-- `mscl` (R112). -/
def execMscl (ad ma mb : Nat) (cf : Bool) (s : State) : Out :=
  issue (.mscl ad ma mb cf) (fun v => v.engine (.mscl ad ma mb cf) [] 10 []) s

/-- `manc` (R111). -/
def execManc (ad ma mb : Nat) (s : State) : Out :=
  issue (.manc ad ma mb) (fun v => v.engine (.manc ad ma mb) [] 3 []) s

/-- `macz` (R111). -/
def execMacz (ad : Nat) (s : State) : Out := issue (.macz ad) (fun v => v.engine (.macz ad) [] 3 []) s

/-- `macz.f32` (R111). -/
def execMaczF32 (ad : Nat) (s : State) : Out := issue (.maczF32 ad) (fun v => v.engine (.maczF32 ad) [] 3 []) s

/-- The checks of R340 on n registers from v: the last register, then REGS and HAZARD through the named codes. -/
def groupEarly (v n : Nat) : Early :=
  { illegal := if 63 < v + n - 1 then some 7 else none
    codes := (List.range n).map fun k => v + k }

/-- `mdrn` (R113, R340). -/
def execMdrn (t : FType) (ad v4 md : Nat) (s : State) : Out :=
  issueWith (.mdrn t ad v4 md) (fun v => groupEarly (4 * v4) (drainCount t v.M))
    (fun v => v.engine (.mdrn t ad v4 md) ((List.range (drainCount t v.M)).map fun k => 4 * v4 + k) 8 []) s

/-- POISON of the vector registers that `mtl` reads (R240). -/
def groupPoison (v : View) (codes : List Nat) : Option Trap :=
  let hit := v.s.poison.filterMap fun x => match x with
    | .reg p c i _ => if p = v.pid ∧ codes.contains c then some (c, maskOf [i]) else none
    | _ => none
  match hit with
  | [] => none
  | (c, m) :: r => some { cause := 0x0F, mask := r.foldl (fun a q => a ||| q.2) m, efd := c }

/-- Register bytes that `mtl.in` and `mtl.sb` read at issue. -/
def groupData (v : View) (t v4 : Nat) (sb : Bool) : List (Nat × Byte) :=
  (tileSources v.M t (4 * v4) sb).map fun q =>
    (q.1, BitVec.ofNat 8 (bits (Sparse.read v.p.regs (rkey q.2.1 q.2.2.1)).toNat (8 * q.2.2.2) 8))

/-- A move into a tile from the registers that it read. -/
def moveIn (i : Instr) (t v4 n : Nat) (sb : Bool) (v : View) : Act :=
  match groupPoison v ((List.range n).map fun k => 4 * v4 + k) with
  | some e => .trap v.s e
  | none => v.engine i [] 6 (groupData v t v4 sb)

/-- `mtl.in` (R114, R340). -/
def execMtlIn (t v4 : Nat) (s : State) : Out :=
  issueWith (.mtlIn t v4) (fun v => groupEarly (4 * v4) (16 / v.M)) (fun v => moveIn (.mtlIn t v4) t v4 (16 / v.M) false v) s

/-- `mtl.out` (R114, R340). -/
def execMtlOut (t v4 : Nat) (s : State) : Out :=
  issueWith (.mtlOut t v4) (fun v => groupEarly (4 * v4) (16 / v.M))
    (fun v => v.engine (.mtlOut t v4) ((List.range (16 / v.M)).map fun k => 4 * v4 + k) 6 []) s

/-- `mtl.sb` (R114, R340). -/
def execMtlSb (t v4 : Nat) (s : State) : Out :=
  issueWith (.mtlSb t v4) (fun _ => groupEarly (4 * v4) 1) (fun v => moveIn (.mtlSb t v4) t v4 1 true v) s

/-- `mflg` (R115). -/
def execMflg (ad t : Nat) (s : State) : Out := issue (.mflg ad t) (fun v => v.engine (.mflg ad t) [] 3 []) s

/-- `mtake` (R118): complete at issue; without effect by the holder. -/
def execMtake (s : State) : Out := issue .mtake (fun v => v.withBaton fun s => .next s) s

/-- The pane of the casement that `mpass` names, where it may hold the baton (R118). -/
def passTarget (v : View) (px : Nat) : Option Nat :=
  ((v.s.panesOf v.cid).find? fun q => q.2.px == px && !q.2.exited && !q.2.out).map Prod.fst

/-- `mpass px` (R118, R341) (DEDUCED, log entry 30). -/
def execMpass (px : Nat) (s : State) : Out :=
  issue (.mpass px) (fun v =>
    if (v.s.core v.core).baton ≠ some v.pid ∨ px = v.p.px then .next v.s
    else match passTarget v px with
      | some p => .next (v.s.takeBaton v.core p v.ctx)
      | none => .next (v.s.freeBaton v.core)) s

/-- `mpass.free` (R118). -/
def execMpassFree (s : State) : Out :=
  issue .mpassFree (fun v =>
    .next (if (v.s.core v.core).baton = some v.pid then v.s.freeBaton v.core else v.s)) s

/-! ## Tile loads and stores (R116, R338) -/

/-- Bytes of a row. -/
def tileBytes (sb : Bool) : Nat := if sb then 16 else 256

/-- The rows of a tile move: row, its member's positions, and its address without the offset (R116). -/
def tileRows (v : View) (r : BitVec 256) (ms : Bool) (row0 : Nat) : List Elem :=
  let h := 16 / v.M
  (List.range 16).map fun k =>
    if ms then
      ⟨k, maskOf ((List.range 32).map fun l => posOf l (k / h)), elemAddr r (row0 + k % h) (v.ca.gm * v.M + k / h)⟩
    else ⟨k, v.E, elemAddr r (row0 + k) (v.ca.gm * v.M)⟩

/-- THE CHECKS OF A TILE MOVE (R116, R338), in their order; the rows with their offset (DEDUCED, log entry 29). -/
def tileCheck (v : View) (n : Nat) (ms sb : Bool) (k : Perm) (x : Opnd) : Except Trap (List Elem) :=
  let r := v.p.buf n
  let X := v.scalar x
  let off := bits X 32 32
  let rows := tileRows v r ms (bits X 0 32)
  let es := rows.map fun e => { e with ea := e.ea.map fun a => a + off }
  let low := (es.filterMap Elem.ea).foldl min ((es.filterMap Elem.ea).headD 0)
  if !ms ∧ BufRec.mmode r = 1 then .error { cause := 4, mask := v.E }
  else match checkElems v.s.dev n r k 1 v.E (es.map fun e => { e with ea := e.ea.map fun _ => 0 }) with
    | some t => .error t
    | none =>
      if BufRec.stride r < off + tileBytes sb then .error (boundsTrap n 3 v.E (low % 2 ^ 64))
      else match failTrap (failing es (eaBad v.s.dev r)) fun m a => boundsTrap n 3 m a with
        | some t => .error t
        | none =>
          if off % 64 ≠ 0 then .error { cause := 9, mask := v.E, eaddr := low % 2 ^ 64 }
          else if (remoteNode v.s.dev r).isSome then .error { cause := causePROT, mask := v.E, eaddr := low }
          else .ok es

/-- The request of a tile move: one access per row that moves; rows left out keep their number in `zeros`. -/
def tileRequest (v : View) (i : Instr) (op : MemOp) (n : Nat) (p : CPol) (sb : Bool) (es : List Elem) : MemReq :=
  v.request i op n p
    (es.filterMap fun e => e.ea.map fun a => ⟨e.mask, a, tileBytes sb, e.slot, 0, [], false⟩)
    (es.filterMap fun e => if e.ea.isNone then some e.slot else none)

/-- The place of a row in the tile file. -/
def rowAt (t : Nat) (sb : Bool) (row : Nat) : Nat := if sb then sideAt t + 16 * row else tileAt t + 256 * row

/-- A tile load's reads bound (R148): the bytes with their places, the poisoned places, the latency. -/
def State.bindTile (s : State) (w : Who) (r : MemReq) (t : Nat) (sb : Bool) (locs : List (Acc × List Piece)) :
    List (Nat × Byte) × List Nat × State × Nat :=
  let zeros := r.zeros.flatMap fun row => (List.range (tileBytes sb)).map fun k => (rowAt t sb row + k, (0 : Byte))
  locs.foldl (fun a q =>
    let (v, s1, lat) := a.2.2.1.readPieces w r.pol q.2
    let s2 := s1.recordPieces w.cid false q.2
    let at_ := rowAt t sb q.1.data
    let bs := (toBytes q.1.size v).zipIdx.map fun b => (at_ + b.2, b.1)
    let bad := q.2.flatMap fun p => if s2.readPoisoned w r.pol [p] then
      (List.range p.n).map fun k => at_ + (p.va - q.1.ea % 2 ^ 57) + k else []
    (a.1 ++ bs, a.2.1 ++ bad, s2, max a.2.2.2 lat)) (zeros, [], s, 4)

/-- A queued operation of a core's engine has a memory side that is still to come. -/
def State.tileQueued (s : State) (core : Nat) : Bool :=
  (s.core core).engQ.any fun o => match (s.pend.find o.id).map Pend.work with
    | some (.tile _ _ false) => true
    | _ => false

/-- THE ISSUE OF A TILE MOVE (R116 to R118, R338): its causes, the baton, then the queue; a page fault holds it there. A load binds
at issue where its lines are in L1 and nothing comes before it, else when the engine comes to it (R144, R147). -/
def View.tileMove (v : View) (i : Instr) (r : MemReq) (t : Nat) (sb : Bool) : Act :=
  let f := v.s.locateReq v.ctx r
  let n := ownershipLines v r
  if 0 < n ∧ !(v.s.ctx v.ctx).logRoom n then .trap v.s { cause := 0x0E, mask := v.E }
  else match accessTrap v r f with
    | some e => .trap v.s e
    | none =>
      match f.busy with
      | some g => .wait v.s (.vault g)
      | none =>
        v.withBaton fun s =>
          if 16 ≤ (s.core v.core).engQ.length then .wait v.s .engine
          else if v.countFull .matrix then .wait v.s (.count .matrix)
          else
            let s := { f.s with cores := s.cores }
            let pages := (f.faults ++ behindPages v.s v.uid r.accs).eraseDups
            let s := pages.foldl (fun s g => s.noteFault v.ctx v.core g.1 g.2 (accEngine ||| reqAcc r g.1)) s
            let id := s.nextId
            let ps := f.locs.flatMap Prod.snd
            let s := if pages ≠ [] then v.enqueue s i [] 4 true (.tile r pages false) [] []
              else if r.op.kind = .write then v.enqueue s i [] 50 false (.tile r [] false) [] []
              else if s.tileQueued v.core ∨ !s.bindsNow v.who r.pol ps then
                v.enqueue s i [] (s.serveTime v.core ps) false (.tile r [] false) [] []
              else
                let (bs, bad, s1, lat) := s.bindTile v.who r t sb f.locs
                v.enqueue s1 i [] lat false (.tile r [] true) bs bad
            .next (s.reserve v.ctx id n)

/-- A tile load or store's issue. -/
def tileOp (i : Instr) (op : MemOp) (ms sb : Bool) (t : Nat) (x : Opnd) (n : Nat) (p : CPol) (s : State) : Out :=
  issue i (fun v =>
    match tileCheck v n ms sb (if op = .tileOut then .wr else .rd) x with
    | .error e => .trap v.s e
    | .ok es => v.tileMove i (tileRequest v i op n p sb es) t sb) s

/-- `mld` (R116, R338). -/
def execMld (ms : Bool) (t : TileTy) (d : Nat) (x : Opnd) (n : Nat) (p : CPol) (s : State) : Out :=
  tileOp (.mld ms t d x n p) .tileIn ms false d x n p s

/-- `mld.q4.sb` (R116, R338). -/
def execMldSb (ms : Bool) (d : Nat) (x : Opnd) (n : Nat) (p : CPol) (s : State) : Out :=
  tileOp (.mldSb ms d x n p) .tileIn ms true d x n p s

/-- `mst` (R116, R338). -/
def execMst (ms : Bool) (t : TileTy) (d : Nat) (x : Opnd) (n : Nat) (p : CPol) (s : State) : Out :=
  tileOp (.mst ms t d x n p) .tileOut ms false d x n p s

/-- `mst.q4.sb` (R116, R338). -/
def execMstSb (ms : Bool) (d : Nat) (x : Opnd) (n : Nat) (p : CPol) (s : State) : Out :=
  tileOp (.mstSb ms d x n p) .tileOut ms true d x n p s

/-! ## Row ENGINE_OP_COMPLETE -/

/-- What an operation on registers does: matrix registers, register copies, fstat bits (R107 to R115). -/
def engineApply (mx : MxSt) (o : EngOp) : MxSt × List (Nat × Word) × Nat :=
  let mul := fun (ad ma mb : Nat) (f : MFlags) (u : Mul) =>
    let r := matMul mx o.M ad ma mb f u
    ({ mx with accs := mx.accs.put ad r.1 }, ([] : List (Nat × Word)), r.2)
  match o.i with
  | .mmd ad ma mb f => mul ad ma mb f ⟨.flt .f64, .flt .f64, 64, 32, 0⟩
  | .mms ad ma mb sh f => mul ad ma mb f ⟨.flt .f32, .flt .f32, 32, 64, sh⟩
  | .mmh t ad ma mb sh f => mul ad ma mb f ⟨.flt (halfFmt t), .flt (halfFmt t), 16, 128, sh⟩
  | .mmf t ad ma mb sh f => mul ad ma mb f ⟨(f8Types t).1, (f8Types t).2, 8, 256, sh⟩
  | .mmi t ad ma mb f => mul ad ma mb f ⟨(i8Types t).1, (i8Types t).2, 8, 256, 0⟩
  | .mmq ma mb ta tb ms => ({ mx with pq := matQ4 mx o.M ma mb ⟨ta, tb, ms, false⟩ }, [], 0)
  | .mscl ad ma mb cf =>
    let r := matScale mx ad ma mb cf
    ({ mx with accs := mx.accs.put ad r.1 }, [], r.2)
  | .manc ad ma mb => ({ mx with accs := mx.accs.put ad (matAnchor mx ad ma mb) }, [], 0)
  | .macz ad => ({ mx with accs := mx.accs.put ad ((mx.acc ad).wipe false) }, [], 0)
  | .maczF32 ad => ({ mx with accs := mx.accs.put ad ((mx.acc ad).wipe true) }, [], 0)
  | .mdrn t ad v4 md =>
    let r := matDrain mx o.M ad (4 * v4) t (RMode.ofCode (if md = 4 then o.rm else md))
    (mx, r.1, r.2)
  | .mtlOut t v4 => (mx, tileOutWrites mx o.M t (4 * v4), 0)
  | .mflg ad t => (mx.put ((flagBytes (mx.acc ad)).zipIdx.map fun q => (tileAt t + q.2, q.1)), [], 0)
  | _ => (mx.put o.data, [], 0)

/-- The tile and side of a tile move. -/
def tileOf : Instr → Nat × Bool
  | .mld _ _ d _ _ _ | .mst _ _ d _ _ _ => (d, false)
  | .mldSb _ d _ _ _ | .mstSb _ d _ _ _ => (d, true)
  | _ => (0, false)

/-- An operation leaves the queue; a release that waited for its pane takes effect (R118). -/
def State.popEngine (s : State) (core : Nat) (o : EngOp) : State :=
  let s1 := s.updCore core fun c => { c with engQ := putOff s.now o (c.engQ.filter fun x => x.id ≠ o.id) }
  let c := s1.core core
  if c.releasing ∧ c.baton = some o.pane ∧ c.engQ.all fun x => x.pane != o.pane then s1.freeBaton core else s1

/-- Another context's values and poison cleared from a core's matrix registers before the first operation that is performed for
the baton's new context (R40); one that is dropped leaves that to the next. -/
def State.clearStale (s : State) (core : Nat) : State :=
  if (s.core core).stale then
    (s.updCore core fun c => { c with mx := .clear, stale := false }).setPoison (s.poison.filter fun x => match x with
      | .tile c .. | .side c .. | .acc c .. | .pq c _ => c != core
      | _ => true)
  else s

/-- An operation performed on the core's registers. -/
def State.engineDo (s : State) (core : Nat) (o : EngOp) : State :=
  let s0 := s.clearStale core
  let r := engineApply (s0.core core).mx o
  let s1 := s0.updCore core fun c => { c with mx := r.1 }
  let s2 := (s1.writeResults o.pane r.2.1).updPane o.pane fun p => p.orFstat r.2.2
  if s0.poison.isEmpty then s2 else
    enginePoison { s2 with poison := (s0.poison.filter fun x => s2.poison.contains x) } core o

/-- The chunks of an `mst` from the tile's bytes. -/
def tileChunks (mx : MxSt) (bad : List Nat) (t : Nat) (sb : Bool) (locs : List (Acc × List Piece)) : List (Chunk × Leaf) :=
  locs.flatMap fun q =>
    let at_ := rowAt t sb q.1.data
    q.2.map fun p =>
      let b := at_ + (p.va - q.1.ea % 2 ^ 57)
      (⟨p.pa, p.va, p.n, readSpan mx.tiles b p.n, p.leaf.trk, (List.range p.n).any fun k => bad.contains (b + k)⟩, p.leaf)

/-- The stores of an engine operation performed, then the operation done: it leaves its count as they are accepted (R117), and
the acknowledgement of the registered ones is on its way (R145). They are plain stores for conflict registration, as `rqt`'s are
(DESIGN CHOICE, log entry 61: R99 names what is not a plain store, and neither of these). -/
def State.engineStores (s : State) (core : Nat) (o : EngOp) (p : Pend) (pol : CPol) (cs : List (Chunk × Leaf)) : State :=
  let q := byPolicy pol cs
  ((((s.takeStores (s.whoOf p) p.id q.1 q.2).engineDo core o).finishStores p q.1).popEngine core o)

/-- An operation's memory side in its turn, once its page faults are answered (R226, R230, R338): dropped with a
trap raised later, held again, or done. -/
inductive TileRes where
  | dropped (s : State)
  | held (s : State) (pages : List (Nat × Nat))
  | later (s : State)
  | ready (s : State) (locs : List (Acc × List Piece))

def State.tileVisit (s : State) (p : Pend) (r : MemReq) : TileRes :=
  let f := s.locateReq p.ctx r
  if f.busy.isSome then .later s
  else match pickTrap (f.traps ++ refusals s.dev r.op f.locs) true with
    | some t => .dropped ((f.s.deferTrap p.uid r.word t).retire p)
    | none => match f.faults with
      | [] => .ready f.s f.locs
      | g :: gs =>
        let pages := (g :: gs).eraseDups
        .held (pages.foldl (fun s x => s.noteFault p.ctx p.core x.1 x.2 (accEngine ||| reqAcc r x.1)) f.s) pages

/-- An operation performed, its work retired. -/
def State.engineFinish (s : State) (core : Nat) (o : EngOp) (p : Pend) : State :=
  ((s.engineDo core o).retire p).popEngine core o

/-- An operation tried again in the next ac. -/
def State.engineLater (s : State) (core : Nat) (o : EngOp) : State :=
  s.updCore core fun c => { c with engQ := c.engQ.map fun x => if x.id = o.id then { x with due := s.now + 1 } else x }

/-- A tile move whose turn has come. -/
def State.engineTile (s : State) (core : Nat) (o : EngOp) (p : Pend) (r : MemReq) (bound : Bool) : State :=
  let td := tileOf o.i
  if bound then s.engineFinish core o p
  else match s.tileVisit p r with
    | .dropped s' => s'.popEngine core o
    | .held s' pages => s'.putPend { p with held := true, work := .tile r pages false }
    | .later s' => s'.engineLater core o
    | .ready s' locs =>
      let ps := locs.flatMap Prod.snd
      if r.op.kind = .write then
        let s1 := s'.clearStale core
        s1.engineStores core o p r.pol (tileChunks (s1.core core).mx (s1.badPlaces core) td.1 td.2 locs)
      else if s'.readBehind (s'.whoOf p) ps ∨ s'.ackBefore (s'.whoOf p) r.pol ps then s'.engineLater core o
      else
        let (bs, bad, s1, _) := s'.bindTile (s'.whoOf p) r td.1 td.2 locs
        s1.engineFinish core { o with data := bs, bad := bad } p

/-- The memory side of an operation may be done: a store after its unit's earlier reads and writes (R147, R158). -/
def State.tileMay (s : State) (p : Pend) : Bool :=
  match p.work with
  | .tile r _ false => r.op.kind != .write || s.mayPerform p
  | _ => true

/-- An operation may complete beside an earlier one that has not: they share no register, and are not both tile moves, whose bytes
in memory stay in issue order (R117). -/
def engineBeside (x o : EngOp) : Bool := engineApart x.i o.i && !(pipeOf x.i == 2 && pipeOf o.i == 2)

/-- The first operation of a core's engine queue, behind those given, that has come due, is not held by a page fault, and may be
done. -/
def State.firstDue (s : State) : List EngOp → List EngOp → Option (EngOp × Pend)
  | _, [] => none
  | before, o :: r =>
    match (if before.all fun x => engineBeside x o then s.pend.find o.id else none) with
    | none => s.firstDue (before ++ [o]) r
    | some p => if o.due ≤ s.now ∧ !p.held ∧ s.tileMay p then some (o, p) else s.firstDue (before ++ [o]) r

/-- The operation of a core's engine that completes next (R117). -/
def State.engineDue (s : State) (core : Nat) : Option (EngOp × Pend) := s.firstDue [] (s.core core).engQ

/-- Operations of majors 0x26 to 0x29 as they complete. -/
def State.engineStep (s : State) (core : Nat) (o : EngOp) (p : Pend) : State :=
  match p.work with
  | .tile r _ bound => s.engineTile core o p r bound
  | _ => s.engineFinish core o p

/-! ## Row BATON_GRANT -/

/-- The unit that a freed baton goes to (R118): parked first, then the lower slot. -/
def State.batonNext (s : State) (core : Nat) : Option (Nat × UnitSt) :=
  if (s.core core).baton.isSome ∨ s.now ≤ (s.core core).freedAt then none
  else match (s.batonWaiters core).filter fun q => ((s.panes.find q.2.pane).map fun p => !p.out).getD false &&
      ((s.casOfPane q.2.pane).map fun c => decide (c.phase = .resident ∨ c.phase = .saving ∨ c.phase = .resuming)).getD false with
    | [] => none
    | q :: r => some (r.foldl (fun b x => if parkedBefore s x.2 b.2 then x else b) q)

/-- Row BATON_GRANT (R118, R40) (DEDUCED, log entry 30). -/
def execBatonGrant (core : Nat) (s : State) : Out :=
  match s.batonNext core with
  | none => .refused .notDue
  | some q => .next (s.takeBaton core q.2.pane (((s.launchOfPane q.2.pane).map LaunchSt.ctx).getD 0))

end Sys2Proof.Machine
end

