-- ==== Sys2Proof/Machine/Stack.lean ====
section
/-! DEFINITION. The requantising transpose (R119, R357) and the stack-side matrix-vector units (R120 to R122, R363). Row
STACK_JOB_COMPLETE. -/

namespace Sys2Proof.Machine

/-! ## rqt (R119) -/

/-- The largest magnitude of an output type, and its type number (R119, R67). -/
def q4Max : Q4Ty → Nat
  | .uni => 7 | .e2m1 => 6 | .pow2 => 8 | .hyb => 12
def q4No : Q4Ty → Nat
  | .uni => 0 | .e2m1 => 1 | .pow2 => 2 | .hyb => 3

/-- The four records' rows: role (source codes, source scales, destination codes, destination scales), record, offset, length. -/
structure RqtRole where
  role : Nat
  n : Nat
  row0 : Nat
  off : Nat
  len : Nat
deriving DecidableEq, Repr

def rqtRoles (n X : Nat) : List RqtRole :=
  let r0 := bits X 0 32
  let c0 := bits X 32 32
  [⟨0, n, r0, 16 * c0, 16⟩, ⟨1, n + 1, r0, c0, 1⟩, ⟨2, n + 2, 32 * c0, 16 * (r0 / 32), 16⟩, ⟨3, n + 3, 32 * c0, r0 / 32, 1⟩]

/-- The 32 rows of a role, without their offset. -/
def RqtRole.rows (q : RqtRole) (v : View) : List Elem :=
  (List.range 32).map fun k => ⟨k, v.E, elemAddr (v.p.buf q.n) (q.row0 + k) (v.ca.gm * v.M)⟩

/-- The checks of R116 on one record of `rqt` (R119). -/
def RqtRole.check (q : RqtRole) (v : View) : Option Trap :=
  let r := v.p.buf q.n
  let es := q.rows v
  let low := (es.filterMap Elem.ea).foldl min ((es.filterMap Elem.ea).headD 0) + q.off
  match checkElems v.s.dev q.n r (if q.role < 2 then .rd else .wr) 1 v.E (es.map fun e => { e with ea := e.ea.map fun _ => 0 }) with
  | some t => some t
  | none => if BufRec.stride r < q.off + q.len then some (boundsTrap q.n 3 v.E (low % 2 ^ 64))
    else failTrap (failing (es.map fun e => { e with ea := e.ea.map fun a => a + q.off }) (eaBad v.s.dev r)) fun m a =>
      boundsTrap q.n 3 m a

/-- Every check of `rqt` (R119, R357) (DEDUCED, log entry 29). -/
def rqtTrap (v : View) (n X : Nat) : Option Trap :=
  let qs := rqtRoles n X
  let low := ((qs.head?.bind fun q => ((q.rows v).filterMap Elem.ea).head?).getD 0)
  if qs.any fun q => BufRec.mmode (v.p.buf q.n) == 1 then some { cause := 4, mask := v.E }
  else match qs.findSome? fun q => q.check v with
    | some t => some t
    | none =>
      if bits X 0 32 % 32 ≠ 0 then some { cause := 9, mask := v.E, eaddr := low }
      else if qs.any fun q => (remoteNode v.s.dev (v.p.buf q.n)).isSome then some { cause := causePROT, mask := v.E, eaddr := low }
      else none

/-- One access per row that moves: `data` its role and row, `cmp` 1 for a write. -/
def rqtAccs (v : View) (n X : Nat) : List Acc :=
  (rqtRoles n X).flatMap fun q => (q.rows v).filterMap fun e => e.ea.map fun a =>
    ⟨v.E, a + q.off, q.len, 32 * q.role + e.slot, if q.role < 2 then 0 else 1, [], false⟩

/-- The code of a type nearest to v8 · 2^−e, in eighths, ties to the smaller magnitude (R119 step 4). -/
def nearestQ4 (ty : Nat) (v8 : Int) (e : Nat) : Nat :=
  let dist := fun (c : Nat) => (v8 - q4x8 ty c * 2 ^ e).natAbs
  let best := (List.range 16).foldl (fun b c =>
    if dist c < dist b ∨ (dist c = dist b ∧ (q4x8 ty c).natAbs < (q4x8 ty b).natAbs) then c else b) 0
  if q4x8 ty best = 0 then 0 else best

/-- One new block (R119): 32 codes, the scale byte and the flags, from values in units of 2^−35. -/
def requant (t : Q4Ty) (vs : List Int) : List Nat × Nat × Nat :=
  let ty := q4No t
  if vs.all fun v => decide (v = 0) then (vs.map fun _ => 0, 64 * ty, 0)
  else
    let big := (vs.map Int.natAbs).foldl max 0
    let lim := 8 * q4Max t
    let (e, clamp) := match (List.range 64).find? fun e => decide (big ≤ lim * 2 ^ e) with
      | some e => (e, false)
      | none => (63, true)
    let top : Int := (lim * 2 ^ e : Nat)
    let ws := vs.map fun v => if top < v then top else if v < -top then -top else v
    let cs := ws.map fun v => nearestQ4 ty v e
    let changed := (vs.zip cs).any fun q => decide (q4x8 ty q.2 * 2 ^ e ≠ q.1)
    (cs, 64 * ty + e, (if clamp then flOVF ||| flINX else 0) ||| (if changed then flINX else 0))

/-- Codes packed two to a byte (R67). -/
def packCodes (cs : List Nat) : Nat := packSubs 4 cs

/-- The output type of an `rqt`. -/
def rqtType : Instr → Q4Ty
  | .rqt t .. => t
  | _ => .uni

/-- The square read under the leaf's default policy, transposed, and its writes put in flight under cp2 (R119) (DESIGN CHOICE, log
entry 57). -/
def performRqt (s : State) (w : Who) (r : MemReq) (locs : List (Acc × List Piece)) : Perf :=
  let rd := locs.foldl (fun (a : List (Nat × Nat) × Bool × State × Nat) q =>
    if q.1.cmp = 0 then
      let (v, s1, t) := a.2.2.1.readPieces w .dflt q.2
      (a.1 ++ [(q.1.data, v)], a.2.1 || s1.readPoisoned w .dflt q.2, s1.recordPieces w.cid false q.2, max a.2.2.2 t)
    else a) ([], false, s, 18)
  let got := fun (k : Nat) => ((rd.1.find? fun q => q.1 = k).map Prod.snd).getD 0
  let ty := rqtType r.i
  let blocks := (List.range 32).map fun j => requant ty ((List.range 32).map fun row =>
    let sc := got (32 + row)
    q4x8 (bits sc 6 2) (bits (got row) (4 * j) 4) * 2 ^ bits sc 0 6)
  let val := fun (k : Nat) =>
    let b := blocks.getD (k % 32) ([], 0, 0)
    if k / 32 = 2 then packCodes b.1 else b.2.1
  let cs := locs.flatMap fun q => if q.1.cmp = 0 then [] else q.2.map fun p =>
    ((⟨p.pa, p.va, p.n, bits (val q.1.data) (8 * (p.va - q.1.ea % 2 ^ 57)) (8 * p.n), p.leaf.trk, rd.2.1⟩ : Chunk), p.leaf)
  let t := (cs.map fun c => readLatency s.dev w.core c.1.pa).foldl max 1
  let parts := byPolicy r.pol cs
  ⟨rd.2.2.1, [(.rqt parts.1 parts.2 (blocks.foldl (fun f b => f ||| b.2.2) 0), rd.2.2.2 + t)]⟩

/-- `rqt` (R119, R357): counted in WMX until its last byte is written; it needs no baton. -/
def execRqt (t : Q4Ty) (x : Opnd) (n : Nat) (p : CPol) (s : State) : Out :=
  let i := Instr.rqt t x n p
  issue i (fun v =>
    match rqtTrap v n (v.scalar x) with
    | some e => .trap v.s e
    | none =>
      let r := { v.request i .rqt n p (rqtAccs v n (v.scalar x)) [] with node := none }
      v.access .matrix [] none r (fun s l => performRqt s v.who r l)) s

/-! ## Stack-side jobs (R120 to R122) -/

/-- The fields of a job descriptor (R120 Table 4), from its 16 words. -/
structure Job where
  wrec : BitVec 256
  xrec : BitVec 256
  yrec : BitVec 256
  K : Nat
  nrow : Nat
  G : Nat
  rest : Bool
  cw : Nat
deriving DecidableEq, Repr

def Job.ofWords (ws : List Nat) : Job :=
  let w := wordAt ws
  let rec' := fun (k : Nat) => BufRec.ofWords (w k) (w (k + 1)) (w (k + 2)) (w (k + 3))
  { wrec := rec' 0, xrec := rec' 4, yrec := rec' 8
    K := bits (w 12) 0 32, nrow := bits (w 12) 32 32, G := bits (w 13) 0 8
    rest := bits (w 13) 8 56 != 0 || w 15 != 0
    cw := w 14 }

/-- The weight type and form of a job's instruction. -/
def jobType : Instr → WtTy × Bool
  | .smv t .. => (t, false)
  | .smvw t .. => (t, true)
  | _ => (.rsvd, false)

/-- Bytes of a row of W (R121). -/
def rowLen (t : WtTy) (K : Nat) : Nat :=
  match t with
  | .bf16w => 2 * K | .e4m3w => K | _ => K / 2 + K / 32

/-- Status 1 (R120, R121): a field outside Table 4, or a record malformed or without its permission. -/
def Job.bad (j : Job) (t : WtTy) (add : Bool) : Bool :=
  j.K == 0 || decide (65536 < j.K) || (decide (t = .q4w) && j.K % 32 != 0) || j.nrow == 0 || decide (2 ^ 20 < j.nrow) ||
  j.G == 0 || decide (8 < j.G) || j.rest || bits j.cw 48 15 != 0 || bits j.cw 0 48 % 8 != 0 ||
  BufRec.malformed j.wrec || BufRec.malformed j.xrec || BufRec.malformed j.yrec ||
  !BufRec.rd j.wrec || !BufRec.rd j.xrec || !BufRec.wr j.yrec || (add && !BufRec.rd j.yrec)

/-- Status 4: an index beyond an extent. -/
def Job.beyond (j : Job) : Bool :=
  decide (BufRec.extent j.wrec < j.nrow) || decide (BufRec.extent j.xrec < j.G) || decide (BufRec.extent j.yrec < j.G)

/-- Rows of a record as accesses, `data` the row. -/
def recRows (r : BitVec 256) (m : Mask) (abs n len : Nat) : List Acc :=
  (List.range n).filterMap fun k => (elemAddr r k abs).map fun a => ⟨m, a, len, k, 0, [], false⟩

/-- The completion word as an access, where it is enabled and aligned. -/
def Job.cwAcc (j : Job) (m : Mask) (status : Nat) : List Acc :=
  let a := BufRec.base j.yrec + bits j.cw 0 48
  if bits j.cw 63 1 = 1 ∧ a % 8 = 0 then [⟨m, a, 8, status, 0, [], false⟩] else []

/-- The weight of row data at k: an exact value, none for a special. -/
def weight (t : WtTy) (K row k : Nat) : Option (Int × Int) :=
  match t with
  | .bf16w => MTy.val (.flt .bf16) (bits row (16 * k) 16)
  | .e4m3w => MTy.val (.flt .e4m3) (bits row (8 * k) 8)
  | _ =>
    let sc := bits row (8 * (K / 2 + k / 32)) 8
    some (q4x8 (bits sc 6 2) (bits row (4 * k) 4), (bits sc 0 6 : Nat) - 35)

/-- One element of Y (R121). -/
def jobElement (t : WtTy) (K row xs : Nat) (old : Option Nat) : Nat :=
  let ps := (List.range K).map fun k => (weight t K row k, MTy.val (.flt .f32) (bits xs (32 * k) 32))
  let o := old.map fun c => MTy.val (.flt .f32) c
  if (ps.any fun p => p.1.isNone || p.2.isNone) || o == some none then Fmt.f32.canon
  else
    let s := exactSum (ps.map fun p => match p.1, p.2 with
      | some a, some b => (a.1 * b.1, a.2 + b.2)
      | _, _ => (0, 0))
    match o with
    | some (some y) => let r := dyAdd y.1 y.2 s.1 s.2; round32 r.1 r.2
    | _ => round32 s.1 s.2

/-- The value of pieces at the home (R122: `.dev` reads), and whether one is poisoned. -/
def homePieces (s : State) (ps : List Piece) : Nat :=
  ps.reverse.foldl (fun v p => s.homeRead p.pa p.n + 2 ^ (8 * p.n) * v) 0

/-- Accesses of a job located under a kind, ownership recalled as `.dev` reads do. -/
def State.jobLocate (s : State) (ctx : Nat) (k : AccKind) (accs : List Acc) : Found :=
  let f := s.locate ctx k accs
  { f with s := (f.locs.flatMap Prod.snd).foldl (fun s p => s.recall p.pa p.n) f.s }

/-- Status 2: a byte of W outside the HBM4E stack that holds its first byte. -/
def outsideStack (d : DevSt) (locs : List (Acc × List Piece)) : Bool :=
  let st := fun (p : Piece) => match frameOf d p.pa with
    | .hbm k => some k
    | _ => none
  match locs.flatMap Prod.snd with
  | [] => false
  | p :: r => (st p).isNone || r.any fun q => st q != st p

/-- A piece in the host or a peer window. -/
def offDevice (d : DevSt) (locs : List (Acc × List Piece)) : Bool :=
  locs.any fun q => q.2.any fun p => match frameOf d p.pa with
    | .host | .peer .. => true
    | _ => false

/-- A failure status (R121) (DEDUCED, log entry 31). -/
def jobStatus (n : Nat) : Nat := 2 ^ 63 + n

/-- A job at an end: its status, and Y's writes. -/
structure JobEnd where
  status : Nat
  writes : List Chunk

/-- A completion word that leaves the device sent as a store of the pane, or held back for room in its window (R122, R208). -/
def State.sendWord (s : State) (p : Pend) (r : MemReq) (locs : List (Acc × List Piece)) : State :=
  let rs0 := requestsOf s (s.whoOf p) r (requestParts s p.ctx r locs)
  let x := (s.panes.find p.pane).getD (PaneSt.start 0 0 0 0)
  if (unfit (s.ctx p.ctx) x rs0).isSome then s.putPend { p with due := s.now + 1 }
  else
    let q := (s.updPane p.pane fun x => x.charged rs0).sealRequests rs0
    q.1.putPend { p with work := .remote r q.2, due := s.now + 780 }

/-- The job's end (R121, R122): Y's writes, then its completion word, then the job is gone. A page fault on the word holds the job
with its status known (DEDUCED, log entry 31). -/
def State.endJob (s : State) (p0 : Pend) (j : Job) (words : List Nat) (r : MemReq) (since : Nat) (e : JobEnd) : State :=
  let s := e.writes.foldl (fun s c => s.plainWrite (s.whoOf p0) c) s
  let p := { p0 with held := false, work := .job (words.take 16 ++ [e.status]) r [] since true }
  let cw := j.cwAcc r.xm e.status
  let r' : MemReq := { r with op := .store, node := remoteNode s.dev j.yrec, pol := .dev, accs := cw, zeros := [] }
  if cw = [] then s.retire p
  else if r'.node.isSome then s.sendWord p r' []
  else
    let f := s.jobLocate p.ctx .write cw
    if f.busy.isSome then s.putPend { p with due := s.now + 64 }
    else match f.faults with
      | g :: gs =>
        ((g :: gs).foldl (fun s x => s.noteFault p.ctx p.core x.1 x.2 (accEngine ||| accWrite)) f.s).putPend
          { p with held := true, work := .job (words.take 16 ++ [e.status]) r (g :: gs) since true }
      | [] => match f.locs.flatMap Prod.snd with
        | [] => f.s.retire p
        | q :: _ =>
          if (frameOf s.dev q.pa).local then
            ((f.s.homeWrite p.ctx ⟨q.pa, q.va, 8, e.status, q.leaf.trk, false⟩).testCounter q.pa).retire p
          else f.s.sendWord p r' f.locs

/-- The writes of Y from W, X and the old Y (R121, R240). -/
def jobWrites (s : State) (t : WtTy) (add : Bool) (j : Job) (W X Y : List (Acc × List Piece)) : List Chunk :=
  let rows := W.map fun q => (homePieces s q.2, s.piecesPoisoned q.2)
  (X.zip Y).flatMap fun q =>
    let xs := homePieces s q.1.2
    let bx := s.piecesPoisoned q.1.2
    let old := homePieces s q.2.2
    let by' := add && s.piecesPoisoned q.2.2
    let vals := rows.zipIdx.map fun r => jobElement t j.K r.1.1 xs (if add then some (bits old (32 * r.2) 32) else none)
    let bad := bx || by' || rows.any fun r => r.2
    let data := packSubs 32 vals
    q.2.2.map fun p => ⟨p.pa, p.va, p.n, bits data (8 * (p.va - q.2.1.ea % 2 ^ 57)) (8 * p.n), p.leaf.trk, bad⟩

/-- The stack whose unit runs a job (R121): that of W's first byte, where it translates. -/
def State.jobStack (s : State) (ctx : Nat) (words : List Nat) : Option Nat :=
  match s.xlate ctx .read (BufRec.base (Job.ofWords words).wrec % 2 ^ 57) with
  | .ok pa _ => (match frameOf s.dev pa with
    | .hbm k => some k
    | _ => none)
  | _ => none

/-- No job that arrived earlier at the unit of the same stack is still there (R121). -/
def State.jobTurn (s : State) (p : Pend) (words : List Nat) (since : Nat) : Bool :=
  match s.jobStack p.ctx words with
  | none => true
  | some k => s.pend.vals.all fun q => match q.work with
    | .job ws _ _ t _ => !(decide (t < since) || (t == since && decide (q.id < p.id))) || s.jobStack q.ctx ws != some k
    | _ => true

/-- ONE VISIT OF A STACK-SIDE UNIT to its job (R121): the checks, page faults, then every element and the completion word. A job
replayed after a page fault that then meets a cause fails as one that was refused (R230). -/
def State.jobVisit (s : State) (p : Pend) (words : List Nat) (r : MemReq) (since : Nat) (again : Bool) : State :=
  let w := s.whoOf p
  let j := Job.ofWords words
  let (t, add) := jobType r.i
  let gm := ((s.cas.find w.cid).map CasementSt.gm).getD 0 * ((s.launchOfPane p.pane).map LaunchSt.M).getD 1
  match words[16]? with
  | some st => s.endJob p j words r since ⟨st, []⟩
  | none =>
    if j.bad t add then s.endJob p j words r since ⟨jobStatus 1, []⟩
    else if (remoteNode s.dev j.wrec).isSome ∨ BufRec.mmode j.wrec = 1 then s.endJob p j words r since ⟨jobStatus 2, []⟩
    else
      let fw := s.jobLocate p.ctx .read (recRows j.wrec r.xm gm j.nrow (rowLen t j.K))
      let remote := (remoteNode s.dev j.xrec).isSome || (remoteNode s.dev j.yrec).isSome
      let fx := fw.s.jobLocate p.ctx .read (if remote then [] else recRows j.xrec r.xm gm j.G (4 * j.K))
      let fy := fx.s.jobLocate p.ctx .write (if remote then [] else recRows j.yrec r.xm gm j.G (4 * j.nrow))
      let waits := fw.faults.map (fun g => (g, accRead)) ++ fx.faults.map (fun g => (g, accRead)) ++
        fy.faults.map fun g => (g, if add then accRead ||| accWrite else accWrite)
      if again && !(fw.traps ++ fx.traps ++ fy.traps).isEmpty then fy.s.endJob p j words r since ⟨jobStatus 5, []⟩
      else if (fw.traps.any fun x => x.1 ≠ causePROT) || (fw.faults.isEmpty && outsideStack s.dev fw.locs) then
        fw.s.endJob p j words r since ⟨jobStatus 2, []⟩
      else if fw.busy.isSome ∨ fx.busy.isSome ∨ fy.busy.isSome then s.putPend { p with due := s.now + 64 }
      else if remote ∨ offDevice s.dev fx.locs ∨ offDevice s.dev fy.locs then fy.s.endJob p j words r since ⟨jobStatus 3, []⟩
      else if j.beyond then fy.s.endJob p j words r since ⟨jobStatus 4, []⟩
      else if waits ≠ [] then
        (waits.foldl (fun s g => s.noteFault p.ctx p.core g.1.1 g.1.2 (accEngine ||| g.2)) fy.s).putPend
          { p with held := true, work := .job words r (waits.map Prod.fst).eraseDups since again }
      else if (fw.traps ++ fx.traps ++ fy.traps) ≠ [] then fy.s.endJob p j words r since ⟨jobStatus Config.otherJobFailure.toNat, []⟩
      else
        let s1 := fy.s.recordPieces w.cid false ((fw.locs ++ fx.locs ++ if add then fy.locs else []).flatMap Prod.snd)
        s1.endJob p j words r since ⟨1, jobWrites s t add j fw.locs fx.locs fy.locs⟩

/-- The descriptor read, as a `.dev` access of the unit that runs the job (R129), and the job submitted to the unit of W's stack
(R120) (DEDUCED, log entry 31). -/
def performJob (s : State) (w : Who) (r : MemReq) (locs : List (Acc × List Piece)) : Perf :=
  let rd := match locs with
    | [] => (0, s, 18)
    | q :: _ => s.readPieces w .dev q.2
  let s1 := rd.2.1.recordPieces w.cid false (locs.flatMap Prod.snd)
  ⟨s1, [(.job ((List.range 16).map fun k => bits rd.1 (64 * k) 64) r [] s.now false, rd.2.2 + 64)]⟩

/-- A job's issue (R363). -/
def stackJob (i : Instr) (x : Opnd) (n : Nat) (s : State) : Out :=
  issue i (fun v =>
    match v.resolve i n .rd 128 x with
    | .error t => .trap v.s t
    | .ok es =>
      let low := (es.filterMap Elem.ea).headD 0
      if (remoteNode v.s.dev (v.p.buf n)).isSome then .trap v.s { cause := causePROT, mask := v.E, eaddr := low }
      else
        let r := v.request i .job n .dev (spread es 1 128 fun _ e a => ⟨e.mask, a, 128, 0, 0, [], false⟩) []
        v.access .matrix [] none r (fun s l => performJob s v.who r l)) s

/-- `smv` (R120, R363). -/
def execSmv (t : WtTy) (x : Opnd) (n : Nat) (s : State) : Out := stackJob (.smv t x n) x n s

/-- `smvw` (R120, R363). -/
def execSmvw (t : WtTy) (x : Opnd) (n : Nat) (s : State) : Out := stackJob (.smvw t x n) x n s

/-- Row STACK_JOB_COMPLETE (R121, R122). -/
def execStackJobComplete (id : Nat) (s : State) : Out :=
  match s.pend.find id with
  | none => .refused .notDue
  | some p => match p.work with
    | .job words r _ since again =>
      if s.boundBefore p ∧ p.due ≤ s.now ∧ !p.held ∧ s.jobTurn p words since then .next (s.jobVisit p words r since again)
      else .refused .notDue
    | _ => .refused .notDue

/-- A job whose page fault was refused (R121, R230): it ends with status 5; a refused completion word is not written. -/
def State.refuseJob (s : State) (p : Pend) (words : List Nat) (r : MemReq) (since : Nat) : State :=
  match words[16]? with
  | some _ => s.retire p
  | none => s.endJob p (Job.ofWords words) words r since ⟨jobStatus 5, []⟩

end Sys2Proof.Machine
end

