-- ==== Sys2Proof/Machine/System.lean ====
section
/-! DEFINITION. Special registers (R41 to R44, R364, R367), register growth (R45 to R47, R372), `tyld`, `logm`, and the rows of a
write to ptroot, wpart and dmap (R134, R135, R195, R225). -/

namespace Sys2Proof.Machine

/-! ## Reading (R41, R364) -/

/-- trcst (R203). -/
def trcst (v : View) : Nat :=
  if !v.l.traced then 0
  else (if v.l.full then 1 else 2) * 2 ^ 32 + (if v.ca.recd.wide then 2 ^ 16 else 0) +
    (v.ca.recd.count + v.ca.recd.runs.length) % 2 ^ 16

/-- wpart_g as it reads (R134). -/
def WpartSt.word (w : WpartSt) : Nat := w.vw + (if w.busy then 2 ^ 31 else 0)

/-- The user registers below 0x20 (R41 Table 2). -/
def readUser (v : View) (i : Nat) : Nat :=
  match i with
  | 0x00 => v.p.fmode.toNat
  | 0x01 => v.p.fstat.toNat
  | 0x04 => v.M
  | 0x05 => v.p.px
  | 0x06 => v.ca.gx
  | 0x07 => v.ca.gy
  | 0x08 => v.ca.gz
  | 0x09 => v.ca.gm
  | 0x0A => v.ca.cid
  | 0x0B => v.ca.sid
  | 0x0C => v.core
  | 0x0D => v.core / 16
  | 0x0E => v.s.dev.node
  | 0x0F => v.ctx
  | 0x10 => v.s.now
  | 0x11 => (v.s.core v.core).evs
  | 0x12 => v.u.cstack.length
  | 0x13 => v.u.rstack.length
  | 0x14 => v.p.uhv.toNat
  | 0x15 => v.u.ecause.toNat
  | 0x16 => v.u.epc.toNat
  | 0x17 => v.u.ecw.toNat
  | 0x18 => v.u.efd.toNat
  | 0x19 => v.u.efa.toNat
  | 0x1A => v.u.efb.toNat
  | 0x1C => v.u.eaddr.toNat
  | 0x1D => v.u.erem.toNat
  | 0x1E => v.p.detst.toNat
  | 0x1F => v.p.detaddr.toNat
  | 0x30 => v.p.vcnt
  | 0x31 => v.l.vmax
  | 0x32 => trcst v
  | 0x33 => v.p.slot
  | _ => 0

/-- The privileged registers of context and core copy (R41 Table 2). -/
def readPrivileged (c : CtxSt) (k : CoreSt) (i : Nat) : Nat :=
  match i with
  | 0x40 => c.phv.toNat
  | 0x41 => c.psv.toNat
  | 0x42 => c.ctxcfg.toNat
  | 0x43 => c.wdb.toNat
  | 0x44 => c.wdp.toNat
  | 0x45 => c.logc.toNat
  | 0x46 => c.logbase.toNat
  | 0x47 => c.loglim.toNat
  | 0x48 => k.agelim
  | 0x49 => c.slice.toNat
  | 0x4A => c.fring.toNat
  | 0x4B => c.ptroot.toNat
  | 0x4C => c.detcfg.toNat
  | 0x4D => c.dmap.toNat
  | _ => 0

/-- The vector-copy registers at position q (R364). -/
def readVector (v : View) (i q : Nat) : Nat :=
  match i with
  | 0x02 => q % 32
  | 0x03 => v.ca.gm * v.M + q / 32
  | _ => if bitAt v.u.emask q then 1 else 0

/-- THE VALUE OF A SPECIAL REGISTER at a position; an unlisted index reads 0 (R41). -/
def readSpecial (v : View) (i q : Nat) : Word :=
  w64 (if i = 0x02 ∨ i = 0x03 ∨ i = 0x1B then readVector v i q
    else if 0x20 ≤ i ∧ i < 0x30 then alValue (v.s.ctx v.ctx) v.p (i - 0x20)
    else if i < 0x40 then readUser v i
    else if i < 0x50 then readPrivileged (v.s.ctx v.ctx) (v.s.core v.core) i
    else if i < 0x60 then (Map.getD (v.s.ctx v.ctx).alc (i - 0x50) 0).toNat
    else if i < 0x80 then (v.s.wp (i - 0x60)).word
    else 0)

/-- `srd` (R364): fixed latency. -/
def execSrd (d : Opnd) (i : Nat) (s : State) : Out :=
  let ins := Instr.srd d i
  issue ins (fun v => .next (v.writeD ins d fun q => readSpecial v i q)) s

/-! ## The writes with steps of their own -/

/-- A unit parked on a piece of work that its instruction put in flight; it goes on past the instruction when that ends. -/
def View.parkOnWork (v : View) (s : State) (lat : Nat) (w : Work) : Act :=
  let id := s.nextId
  let s1 := v.launchWork s .other lat false [] w
  .placed (s1.updUnit v.uid fun u => { (u.issued s.now) with park := .work id, parkedAt := s.now })

/-- A unit parked on work that has ended goes on. -/
def State.wake (s : State) (p : Pend) : State :=
  (s.dropPend p.id).updUnit p.uid fun u => if u.park = Park.work p.id then u.pass s.now else u

/-- The bits of ptroot that a write keeps (R225). -/
def ptrootBits (v : Nat) : Word := w64 (bits v 12 40 * 4096 + v % 2)

/-- A write to ptroot (R225): every cached translation dropped, the writer parked (DEDUCED, log entry 53). -/
def View.writePtroot (v : View) (x : Nat) : Act :=
  v.parkOnWork ((v.s.updCtx v.ctx fun c => { c with ptroot := ptrootBits x }).invalidate v.ctx) 2000 .invalidate

/-- Row PTROOT_WRITE (R225). -/
def execPtrootWrite (x : Word) (s : State) : Out := issue (.ptrootWrite x) (fun v => v.writePtroot x.toNat) s

/-- Row TRANSLATION_INVALIDATED (R225). -/
def execTranslationInvalidated (uid : Nat) (s : State) : Out :=
  match s.pend.vals.find? fun q => q.uid = uid ∧ q.work = .invalidate ∧ q.due ≤ s.now with
  | none => .refused .notDue
  | some p => .next ((s.invalidate p.ctx).wake p)

/-- The granules between two vault sizes of a region marked in every context's map (R196, R204). -/
def State.markVault (s : State) (g lo hi : Nat) : State :=
  let gs := (List.range ((hi - lo) * 256)).map fun k => Config.vaultBase + g * 2 ^ 24 + lo * 2 ^ 20 + 4096 * k
  s.ctxs.foldl (fun s c => gs.foldl (fun s a => s.markGranule c.1 a) s) s

/-- A write to wpart_g (R134, R135). -/
def State.writeWpart (s : State) (g x : Nat) : State :=
  let w := s.wp g
  let b := min (x % 32) 16
  if w.busy ∨ b = w.vw ∨ s.dev.fencedWays.contains g then s
  else
    let (s, id) := s.fresh
    let s1 := s.setWpart (s.wpart.put g ⟨b, true, w.vw⟩)
    (s1.markVault g (min w.vw b) (max w.vw b)).putPend
      ⟨id, 0, 0, 0, 0, 0, .other, 0, s.now, s.now + 1000, false, 0, .convert g w.vw b⟩

/-- Row WPART_WRITE (R135). -/
def execWpartWrite (g : Nat) (x : Word) (s : State) : Out :=
  issue (.wpartWrite g x) (fun v => .next (v.s.writeWpart g x.toNat)) s

/-- The bytes of a physical range back to what nothing has written, with their registrations and poison (R135, R255). -/
def State.eraseRange (s : State) (lo hi : Nat) : State :=
  { s with
    mem := s.mem.filter fun c => !(decide (lo ≤ c.1) && decide (c.1 < hi))
    owner := s.owner.filter fun q => !(decide (lo ≤ q.1 * 8) && decide (q.1 * 8 < hi))
    poison := s.poison.filter fun x => match x with
      | .line a => !(decide (lo ≤ a * 64) && decide (a * 64 < hi))
      | _ => true
    cores := s.cores.map fun q => (q.1, { q.2 with
      l1valid := q.2.l1valid.filter fun w => !(decide (lo ≤ w * 8) && decide (w * 8 < hi))
      l1 := q.2.l1.filter fun x => !(decide (lo ≤ x.1 * 8) && decide (x.1 * 8 < hi)) })
    shadows := s.shadows.filter fun x => !(decide (lo ≤ x.word * 8) && decide (x.word * 8 < hi)) }

/-- A write in flight to a physical range, made before the range was being converted (R136). -/
def State.writesInto (s : State) (lo hi : Nat) : Bool :=
  s.pend.vals.any fun q => q.core != accessUnit && (q.work.chunks ++ (match q.work with
    | .count c => [c]
    | _ => [])).any fun c => decide (lo ≤ c.pa) && decide (c.pa < hi)

/-- The vault bytes that a change of VW from a to b moves. -/
def vaultSpan (g a b : Nat) : Nat × Nat :=
  (Config.vaultBase + g * 2 ^ 24 + min a b * 2 ^ 20, Config.vaultBase + g * 2 ^ 24 + max a b * 2 ^ 20)

/-- Row WPART_CONVERSION_DONE (R135): the moved bytes read 0, and BUSY clears. -/
def execWpartConversionDone (g : Nat) (s : State) : Out :=
  match s.pend.vals.find? fun q => decide (q.due ≤ s.now) && (match q.work with
      | .convert g' a b => g' == g && !s.writesInto (vaultSpan g a b).1 (vaultSpan g a b).2
      | _ => false) with
  | some p => match p.work with
    | .convert _ a b =>
      let r := vaultSpan g a b
      let s1 := (s.dropPend p.id).eraseRange r.1 r.2
      .next (s1.setWpart (s1.wpart.put g { s1.wp g with busy := false }))
    | _ => .refused .notDue
  | none => .refused .notDue

/-- The bits of dmap that a write keeps (R195). -/
def dmapBits (v : Nat) : Nat := bits v 12 40 * 4096 + v % 2

/-- Both maps lie wholly in populated HBM4E frames (R195). -/
def mapsFit (d : DevSt) (base : Nat) : Bool :=
  (List.range (2 * d.dmapBytes / 4096)).all fun k => match frameOf d (base + 4096 * k) with
    | .hbm _ => true
    | _ => false

/-- A write to dmap (R195): an enable parks its writer until both maps are clear (DEDUCED, log entry 53). -/
def View.writeDmap (v : View) (x : Nat) : Act :=
  let c := v.s.ctx v.ctx
  let on := c.dmap.toNat % 2 = 1
  if x % 2 = 1 then
    if on then .next v.s
    else if mapsFit v.s.dev (bits x 12 40 * 4096) then
      v.parkOnWork v.s (v.s.dev.dmapBytes / 64) (.mapsClear v.ctx (dmapBits x))
    else .next v.s
  else if on ∧ c.tracer.isSome then .next v.s
  else .next (v.s.updCtx v.ctx fun c => { c.keep 0x4D c.dmap with dmap := w64 (dmapBits x) })

/-- Row DMAP_ENABLE (R195). -/
def execDmapEnable (x : Word) (s : State) : Out := issue (.dmapEnable x) (fun v => v.writeDmap x.toNat) s

/-- Row DMAP_DISABLE (R195). -/
def execDmapDisable (x : Word) (s : State) : Out := issue (.dmapDisable x) (fun v => v.writeDmap x.toNat) s

/-- Row DMAP_MAPS_CLEAR (R195): both maps are clear, map 0 is current, and EN reads 1; a second enable that ends while EN is 1
leaves the maps where they are (DEDUCED, log entry 53). -/
def execDmapMapsClear (ctx : Nat) (s : State) : Out :=
  match s.pend.vals.find? fun q => decide (q.due ≤ s.now) && (match q.work with
      | .mapsClear c _ => c == ctx
      | _ => false) with
  | some p => match p.work with
    | .mapsClear _ x =>
      if (s.ctx ctx).dmap.toNat % 2 = 1 then .next (s.wake p) else
      let a := bits x 12 40 * 4096
      let s1 := (s.eraseRange a (a + 2 * s.dev.dmapBytes)).updCtx ctx fun c =>
        { c.keep 0x4D c.dmap with dmap := w64 x, current := 0 }
      .next (s1.wake p)
    | _ => .refused .notDue
  | none => .refused .notDue

/-- Row DIRTY_MAP_CLEARED (R197): the map that was frozen is clear. -/
def execDirtyMapCleared (ctx : Nat) (s : State) : Out :=
  match s.pend.vals.find? fun q => decide (q.due ≤ s.now) && (match q.work with
      | .frozenClear c _ => c == ctx
      | _ => false) with
  | some p => match p.work with
    | .frozenClear _ a =>
      .next (((s.eraseRange a (a + s.dev.dmapBytes)).dropPend p.id).updCtx ctx fun c => { c with clearing := false })
    | _ => .refused .notDue
  | none => .refused .notDue

/-! ## Writing (R41, R367) -/

/-- The pane's registers (R42, R43, R99): reserved bits dropped, detst cleared by 1s (DEDUCED, log entry 54). -/
def PaneSt.writeReg (p : PaneSt) (i x : Nat) : PaneSt :=
  match i with
  | 0x00 => { p with fmode := w64 (x &&& 0x1F1F) }
  | 0x01 => { p with fstat := w64 (x &&& 0xFFF) }
  | 0x14 => { p with uhv := w64 x }
  | 0x1E => { p with detst := p.detst &&& ~~~w64 x }
  | _ => p

/-- The unit's one writable register: epc (R233). -/
def UnitSt.writeReg (u : UnitSt) (i x : Nat) : UnitSt :=
  if i = 0x16 then { u with epc := w64 (bits x 59 4 * 2 ^ 59 + x % 2 ^ 57) } else u

/-- The context's registers but ptroot and dmap, each with its field map (R60, R99, R181, R211, R228, R233, R243); watchdog
limits, slice and allowance windows act from the next ac (DEDUCED, log entry 54). -/
def CtxSt.writeReg (c : CtxSt) (i x : Nat) : CtxSt :=
  match i with
  | 0x40 => { c with phv := w64 (bits x 2 55 * 4) }
  | 0x41 => { c with psv := w64 (bits x 2 55 * 4) }
  | 0x42 => { c with ctxcfg := w64 (x % 4) }
  | 0x43 => { c.keep 0x43 c.wdb with wdb := w64 (x % 2 ^ 32) }
  | 0x44 => { c.keep 0x44 c.wdp with wdp := w64 (x % 2 ^ 32) }
  | 0x45 => { c with logc := w64 (bits x 32 32 * 2 ^ 32 + x % 32) }
  | 0x46 => { c with logbase := w64 (bits x 12 45 * 4096) }
  | 0x47 => { c with loglim := w64 (x % 2 ^ 32) }
  | 0x49 => { c.keep 0x49 c.slice with slice := w64 (x % 2 ^ 32) }
  | 0x4A => { c with fring := w64 (bits x 6 51 * 64) }
  | 0x4C => { c with detcfg := w64 (x % 4) }
  | i =>
    if 0x50 ≤ i ∧ i < 0x60 then
      { c.keep i (c.alc.getD (i - 0x50) 0) with alc := c.alc.put (i - 0x50) (w64 (bits x 45 19 * 2 ^ 45 + bits x 32 10 * 2 ^ 32 + x % 2 ^ 24)) }
    else c

/-- THE WRITE OF A SPECIAL REGISTER (R41, R367); a read-only or unlisted index takes none. -/
def View.writeSpecial (v : View) (i x : Nat) : Act :=
  if i = 0x4B then v.writePtroot x
  else if i = 0x4D then v.writeDmap x
  else if 0x60 ≤ i ∧ i < 0x80 then .next (v.s.writeWpart (i - 0x60) x)
  else if i = 0x48 then .next (v.s.updCore v.core fun c => { c with agelim := x % 256 })
  else if 0x40 ≤ i then .next (v.s.updCtx v.ctx fun c => c.writeReg i x)
  else .next ((v.s.updPane v.pid fun p => p.writeReg i x).updUnit v.uid fun u => u.writeReg i x)

/-- `swr` (R367): acts once when its unit has an active position. -/
def execSwr (i : Nat) (a : Opnd) (s : State) : Out := issue (.swr i a) (fun v => v.writeSpecial i (v.scalar a)) s

/-- `logm` (R246): a marker entry while EN and MARK are 1. -/
def execLogm (a : Opnd) (k : Nat) (s : State) : Out :=
  issue (.logm a k) (fun v =>
    let c := v.s.ctx v.ctx
    if !c.logFlag 4 then .next v.s
    else if !c.logRoom 1 then .trap v.s { cause := 0x0E, mask := v.E }
    else .next (v.s.logEntry v.ctx v.core 0x07 k (v.scalar a))) s

/-- `tyld` (R371): the seat given up, the unit at the tail of its pane's queue. -/
def execTyld (s : State) : Out :=
  issue .tyld (fun v => .placed (v.s.updUnit v.uid fun u =>
    { (u.advance 1 v.s.now).issued v.s.now with seated := false, queuedAt := v.s.now })) s

/-! ## Register growth (R45 to R47, R372) -/

/-- The panes in residence on a core, with their launch. -/
def State.panesOn (s : State) (core : Nat) : List (Nat × PaneSt × LaunchSt) :=
  s.panes.filterMap fun q => match s.cas.find q.2.cas with
    | none => none
    | some c => if c.core = core ∧ c.resident then (s.launches.find c.lid).map fun l => (q.1, q.2, l) else none

/-- Bytes of a core's vector register file in use (R30, R45). -/
def State.vectorUse (s : State) (core : Nat) : Nat :=
  ((s.panesOn core).map fun q => if q.2.1.out then 0 else q.2.1.vcnt * 256 * q.2.2.M).foldl (· + ·) 0

/-- Free bytes of a core's vector register file; `seen` leaves out what this ac has freed (R46). -/
def State.vectorFree (s : State) (core : Nat) (seen : Bool) : Nat :=
  let c := s.core core
  2 ^ 21 - s.vectorUse core - (if seen ∧ c.roomAt = s.now then c.freed else 0)

/-- Room of the vector register file freed from the next ac. -/
def State.freeRoom (s : State) (core n : Nat) : State :=
  s.updCore core fun c => { c with roomAt := s.now, freed := (if c.roomAt = s.now then c.freed else 0) + n }

/-- Units blocked in `vgrow` on a core, oldest first by `parkedBefore` (R46). -/
def State.vgrowWaiters (s : State) (core : Nat) : List (Nat × UnitSt) :=
  s.units.filter fun q => (match q.2.park with
    | .vgrow _ => true
    | _ => false) && ((s.casOfPane q.2.pane).map fun c => decide (c.core = core) && c.resident).getD false

/-- The first of a list of parked units. -/
def State.firstParked (s : State) : List (Nat × UnitSt) → Option (Nat × UnitSt)
  | [] => none
  | q :: r => some (r.foldl (fun b x => if parkedBefore s x.2 b.2 then x else b) q)

/-- A register count that R45 refuses. -/
def badCount (l : LaunchSt) (n : Nat) : Bool := decide (n % 8 ≠ 0) || decide (n < 8) || decide (l.vmax < n)

/-- `vgrow` (R45): granted at once, or blocked behind every request already blocked. -/
def execVgrow (n : Opnd) (s : State) : Out :=
  issue (.vgrow n) (fun v =>
    let k := v.scalar n
    if badCount v.l k then .trap v.s { cause := 0x18, mask := v.E, efd := k }
    else if k ≤ v.p.vcnt then .next v.s
    else if (v.s.vgrowWaiters v.core).isEmpty ∧ (k - v.p.vcnt) * 256 * v.M ≤ v.s.vectorFree v.core true then
      .next (v.withPane { v.p with vcnt := k })
    else .placed (v.s.updUnit v.uid fun u =>
      { u.issued v.s.now with park := .vgrow k, parkedAt := v.s.now, seated := false })) s

/-- A register of the pane that a variable-latency write of another unit still awaits (R265, R372). -/
def State.awaited (s : State) (pid uid c : Nat) : Option (Nat × Nat) :=
  match s.pend.vals.find? fun q => q.pane == pid && q.uid != uid && (match q.work with
      | .regs ws _ _ _ => ws.any fun w => w.1 / 256 == c
      | .logged r _ => r.accs.any fun a => a.keys.any fun k => k / 256 == c
      | .reads r _ => r.accs.any fun a => a.keys.any fun k => k / 256 == c
      | .remote r _ => r.accs.any fun a => a.keys.any fun k => k / 256 == c
      | .wadr ws => ws.any fun w => w.key / 256 == c
      | _ => false) with
  | some q => some (q.kind.hazard, q.clause)
  | none =>
    ((s.units.filter fun q => q.2.pane == pid && q.1 != uid).findSome? fun q =>
      q.2.uncov.find? fun x => x.code == c && decide (x.kind = .matrix) && !s.resultsWritten q.1).map fun x =>
        (x.kind.hazard, x.clause)

/-- The hazard of a discarded register (R45, R372). -/
def vshrHazard (v : View) (k : Nat) : Option Trap :=
  (((List.range (v.p.vcnt - k)).map fun j => k + j).findSome? fun c =>
    match hazardOn v c with
    | some h => some h
    | none => (v.s.awaited v.pid v.uid c).map fun h => (c, h.1, h.2)).map fun h =>
      { cause := 6, mask := v.E, efd := h.1 % 128 + h.2.1 * 256, efa := h.2.2 }

/-- A pane's registers from v_n up discarded: they read 0 when they are declared again (R45). -/
def PaneSt.shrink (p : PaneSt) (n : Nat) : PaneSt :=
  { p with
    vcnt := n
    regs := p.regs.filter fun q => !(decide (n ≤ q.1 / 256) && decide (q.1 / 256 < 64)) }

/-- `vshr` (R45): the discarded registers' room is free from the next ac. -/
def execVshr (n : Opnd) (s : State) : Out :=
  issue (.vshr n) (fun v =>
    let k := v.scalar n
    if badCount v.l k then .trap v.s { cause := 0x18, mask := v.E, efd := k }
    else if v.p.vcnt ≤ k then .next v.s
    else match vshrHazard v k with
      | some t => .trap v.s t
      | none =>
        let s1 := (v.withPane (v.p.shrink k)).freeRoom v.core ((v.p.vcnt - k) * 256 * v.M)
        .next (if s1.poison.isEmpty then s1 else s1.setPoison (s1.poison.filter fun x => match x with
          | .reg p c _ _ => !(p == v.pid && decide (k ≤ c) && decide (c < 64))
          | _ => true))) s

/-- The oldest blocked request that now fits, tested against its pane's present count (R46, R372). -/
def State.vgrowNext (s : State) (core : Nat) : Option (Nat × UnitSt × Nat) :=
  match s.firstParked (s.vgrowWaiters core) with
  | none => none
  | some q => match q.2.park, s.panes.find q.2.pane, s.launchOfPane q.2.pane with
    | .vgrow n, some p, some l =>
      if n ≤ p.vcnt ∨ (n - p.vcnt) * 256 * l.M ≤ s.vectorFree core true then some (q.1, q.2, n) else none
    | _, _, _ => none

/-- Row VGROW_GRANT (R46): the oldest request granted whole; its unit queues for a seat. -/
def execVgrowGrant (core : Nat) (s : State) : Out :=
  match s.vgrowNext core with
  | none => .refused .notDue
  | some (uid, u, n) =>
    .next ((s.updPane u.pane fun p => { p with vcnt := max n p.vcnt }).updUnit uid fun u =>
      { u.pass s.now with seated := false, queuedAt := s.now })

end Sys2Proof.Machine
end

