-- ==== Sys2Proof/Machine/Save.lean ====
section
/-! DEFINITION. Pre-emption (R23, R47, R237), `psave` and `prest` (R238, R350), and the rows ENGINE_OP_COMPLETE, VGROW_DEADLOCK
and RESUMPTION. -/

namespace Sys2Proof.Machine

/-! ## Requesting a pre-emption (R237 step 1) -/

/-- A casement's whole sash may be pre-empted: it is resident, and no watchdog has fired in it (DEDUCED, log entry 38). -/
def State.canPreempt (s : State) (cid : Nat) : Bool :=
  match s.cas.find cid with
  | none => false
  | some ca => (s.sashOf ca).all fun q => decide (q.2.phase = .resident) && !q.2.fired

/-- A pre-emption of a casement's whole sash requested: its units stop (R23). A sash that is not wholly resident keeps on
(DEDUCED, log entry 38). -/
def State.requestPreempt (s : State) (cid : Nat) : State :=
  match s.cas.find cid with
  | none => s
  | some ca =>
    if s.canPreempt cid then
      (s.sashOf ca).foldl (fun s q => s.updCas q.1 fun c => { c with phase := .stopping, preAt := s.now }) s
    else s

/-- A pre-emption in a context with psv = 0 ends the context with cause PREEMPT (R237, R241). -/
def State.preemptOrEnd (s : State) (cid : Nat) : State :=
  match s.cas.find cid with
  | none => s
  | some ca =>
    let ctx := s.ctxOfCas ca
    if (s.ctx ctx).psv = 0 then
      s.terminate ctx 0x13 (((s.units.vals.find? fun u => (s.panesOf cid).any fun q => q.1 = u.pane).map fun u =>
        u.epc.toNat).getD 0)
    else s.requestPreempt cid

/-- Work that the save of a casement waits for: everything but commands, and waits that are issued again (R158, R237)
(DEDUCED, log entry 38). -/
def Work.heldBack : Work → Bool
  | .halo .. | .coll .. | .ctwt .. | .wadr _ | .frozenClear .. | .convert .. => false
  | _ => true

/-- No unit of a casement stands within an instruction that a pre-emption lets complete (R322). -/
def State.casBetween (s : State) (cid : Nat) : Bool :=
  let pids := (s.panesOf cid).map Prod.fst
  s.units.all fun q => !(pids.contains q.2.pane && q.2.completing)

/-- Everything that a stopped casement has issued is complete (R237 step 1) (DEDUCED, log entry 38). -/
def State.casQuiet (s : State) (cid : Nat) : Bool :=
  let pids := (s.panesOf cid).map Prod.fst
  s.pend.vals.all fun q => !(pids.contains q.pane && q.work.heldBack)

/-- A unit as hidden state holds it: a wait that is issued again is ready. -/
def UnitSt.held (u : UnitSt) : UnitSt :=
  { u with park := match u.park with
    | .join e => .join e
    | .bar => .bar
    | .sbar => .sbar
    | .stopped => .stopped
    | _ => .ready }

/-- The hidden state of a pane (R237 step 2) (DEDUCED, log entry 39). -/
def State.hiddenOf (s : State) (pid : Nat) (p : PaneSt) : Hidden where
  units := (s.unitsOf pid).map fun q => q.2.held
  preds := p.preds
  staging := p.staging
  fmode := p.fmode
  fstat := p.fstat
  uhv := p.uhv
  detst := p.detst
  detaddr := p.detaddr
  nextSeq := p.nextSeq
  openB := p.openB

/-- The one unit that runs a pane's save or restore routine (R237): PREEMPT at psv with efd 0 or 1 (DEDUCED, log entry 39). -/
def routineUnit (pid psv now efd M : Nat) : UnitSt :=
  { UnitSt.start pid 0 psv now (fullMask M) with
    level := if efd = 0 then .save else .resume
    sup := true
    ecause := 0x13
    efd := w64 efd }

/-- A pane enters its save routine (R237 step 2) (DEDUCED, log entry 39). -/
def State.enterSave (s : State) (ctx M pid : Nat) : State :=
  match s.panes.find pid with
  | none => s
  | some p =>
    if p.out then s else
    let h := s.hiddenOf pid p
    let (s, id) := s.fresh
    let s1 := (s.setUnits (s.units.filter fun q => q.2.pane ≠ pid)).setPend (s.pend.filter fun q =>
      !(q.2.pane == pid && (match q.2.work with
        | .ctwt .. => true
        | .wadr _ => true
        | _ => false)))
    (s1.putPane pid { p with preds := [], staging := [], openB := [], nextSeq := 1, saved := false, hidden := some h }).putUnit id
      (routineUnit pid (s.ctx ctx).psv.toNat s.now 0 M)

/-- Every pane of a stopped sash enters the routine; for the units put aside the pre-emption acts as `fence` (R158) (DEDUCED, log
entry 38). -/
def State.saveSash (s : State) (ca : CasementSt) : State :=
  match s.launches.find ca.lid with
  | none => s
  | some l => (s.sashOf ca).foldl (fun s q =>
      (((s.panesOf q.1).foldl (fun s p => s.enterSave l.ctx l.M p.1) s).acquire q.2.core).updCas q.1 fun c =>
        { c with phase := .saving }) s

/-- The units of a casement that have written through a host window since their last fence (R158, R316). -/
def State.unplaced (s : State) (cid : Nat) : List Nat :=
  ((s.panesOf cid).flatMap fun p => (s.unitsOf p.1).filter fun q => q.2.hostPorts ≠ 0).map Prod.fst

/-! ## Leaving residency (R237 step 4) -/

/-- The slice count of a context on a core that a casement has left (R181): gone with its last casement there, else begun
again after a pre-emption. -/
def State.sliceLeave (s : State) (core ctx : Nat) (again : Bool) : State :=
  if s.cas.any fun q => q.2.core == core && q.2.resident && s.ctxOfCas q.2 == ctx then
    (if again then s.updCore core fun c => { c with slices := c.slices.put ctx s.now } else s)
  else s.updCore core fun c => { c with slices := c.slices.del ctx }

/-- A casement leaves residency: its footprint is free from the next ac; its hidden state lives in its images. -/
def State.leave (s : State) (cid : Nat) (ca : CasementSt) : State :=
  let M := ((s.launches.find ca.lid).map LaunchSt.M).getD 1
  let ps := s.panesOf cid
  let n := (ps.map fun q => if q.2.out then 0 else q.2.vcnt * 256 * M).foldl (· + ·) 0
  let s1 := ps.foldl (fun s q => s.updPane q.1 fun p => { p with hidden := none }) s
  (s1.updCas cid fun c => { c with phase := .away, leftAt := s.now, ran := c.ran + (s.now - c.admitAt) }).freeRoom ca.core n
    |>.sliceLeave ca.core (s.ctxOfCas ca) true

/-- Every pane of a casement has ended its save routine. -/
def State.casSaved (s : State) (cid : Nat) : Bool := (s.panesOf cid).all fun q => q.2.saved || q.2.out

/-- What the pre-emptions under way do at the end of an ac: the fence of stopped sashes places their host writes, then they enter
their routines; saved sashes leave. -/
def State.preemptStep (s : State) : State :=
  s.cas.foldl (fun s q =>
    match s.cas.find q.1 with
    | none => s
    | some ca =>
      let sash := s.sashOf ca
      if ca.phase = .stopping ∧ sash.all fun x => decide (x.2.phase = .stopping) && s.casQuiet x.1 && s.casBetween x.1 then
        (match sash.flatMap fun x => s.unplaced x.1 with
          | [] => s.saveSash ca
          | us => us.foldl (fun s k => s.placePorts k) s)
      else if ca.phase = .saving ∧ sash.all fun x => decide (x.2.phase = .saving) && s.casSaved x.1 then
        sash.foldl (fun s x => s.leave x.1 x.2) s
      else s) s

/-! ## Row VGROW_DEADLOCK (R47) -/

/-- A pane blocked in `vgrow`: a unit of it is, and every other unit of it stands in `vgrow`, at a `join` or at a barrier, where
only another unit could free it (DESIGN CHOICE, log entry 58: R47 does not say when a pane of several units is blocked). -/
def State.paneBlocked (s : State) (pid : Nat) : Bool :=
  ((s.unitsOf pid).any fun q => match q.2.park with
    | .vgrow _ => true
    | _ => false) &&
  (s.unitsOf pid).all fun q => match q.2.park with
    | .vgrow _ | .join _ | .bar | .sbar => true
    | _ => false

/-- The state of R47 on a core: the casements with a blocked pane, where nothing else can run. -/
def State.deadlocked (s : State) (core : Nat) : List (Nat × CasementSt) :=
  let here := s.cas.filter fun q => q.2.core = core ∧ q.2.resident
  let panes := (here.flatMap fun q => s.panesOf q.1).filter fun q => !q.2.exited && !q.2.out
  if (s.core core).roomAt = s.now ∨ (s.vgrowNext core).isSome ∨ here.any (fun q => decide (q.2.phase ≠ .resident)) ∨
      !(panes.all fun q => s.paneBlocked q.1) then []
  else here.filter fun q => (s.panesOf q.1).any fun p => s.paneBlocked p.1

/-- The lowest slot of a casement. -/
def State.lowSlot (s : State) (cid : Nat) : Nat :=
  match (s.panesOf cid).map fun q => q.2.slot with
  | [] => 0
  | a :: r => r.foldl min a

/-- The youngest of a list of casements: admitted last, then the higher lowest slot. -/
def State.youngest (s : State) : List (Nat × CasementSt) → Option Nat
  | [] => none
  | q :: r => some (r.foldl (fun b x =>
      if b.2.admitAt < x.2.admitAt ∨ (b.2.admitAt = x.2.admitAt ∧ s.lowSlot b.1 < s.lowSlot x.1) then x else b) q).1

/-- The casement that R47 pre-empts on a core: the youngest with a blocked pane, while its sash can be pre-empted or its context
ends. -/
def State.vgrowVictim (s : State) (core : Nat) : Option Nat :=
  (s.youngest (s.deadlocked core)).filter fun cid => s.canPreempt cid ||
    (match s.cas.find cid with
      | none => false
      | some ca => (s.ctx (s.ctxOfCas ca)).psv == 0)

/-- Row VGROW_DEADLOCK (R47): the youngest casement with a blocked pane is pre-empted. -/
def execVgrowDeadlock (core : Nat) (s : State) : Out :=
  match s.vgrowVictim core with
  | none => .refused .notDue
  | some cid => .next (s.preemptOrEnd cid)

/-! ## Row RESUMPTION (R237 step 5) -/

/-- The first pane of a casement, and its first unit. -/
def State.firstUnit (s : State) (cid : Nat) : Option (Nat × Nat) :=
  match (s.panesOf cid).find? fun q => q.2.px = 0 with
  | none => none
  | some p => ((s.unitsOf p.1).head?).map fun u => (p.1, u.1)

/-- The placement-map write of an admission (R180): a `.dev` store charged to the casement's first pane, taken in this ac as from
the operand log, so that it waits, faults or leaves the device like any store (DEDUCED, log entry 34). -/
def State.pmapWrite (s : State) (cid : Nat) (l : LaunchSt) : State :=
  match s.cas.find cid, s.firstUnit cid with
  | some c, some (pid, uid) =>
    if l.pmap = 0 then s
    else
      let (s, id) := s.fresh
      let m := fullMask l.M
      let a : Acc := ⟨m, (l.pmap + 2 * c.linear) % 2 ^ 57, 2, c.core + min c.admits 255 * 256, 0, [], false⟩
      s.putPend ⟨id, uid, pid, l.ctx, c.core, l.entryPc, .other, 0, s.now, s.now, false, 0,
        .logged ⟨.store, .nop, 0, l.entryPc, 0, 0, none, .dev, [a], [], m, 0⟩ []⟩
  | _, _ => s

/-- A pane of a re-admitted casement starts at psv with efd = 1: every register reads 0, lane store and predicates too
(DEDUCED, log entry 39). -/
def State.resumePane (s : State) (ctx M pid : Nat) : State :=
  match s.panes.find pid with
  | none => s
  | some p =>
    if !p.saved then s else
    let (s, id) := s.fresh
    (s.putPane pid { PaneSt.start p.cas p.px p.slot p.vcnt with
      charge := p.charge
      batchFails := p.batchFails
      exited := p.exited
      lastExit := p.lastExit }).putUnit id (routineUnit pid (s.ctx ctx).psv.toNat s.now 1 M)

/-- Row RESUMPTION (R237): the panes of a re-admitted casement start their restore routine, as after `acq` (R158), and
their placement is written (R180); with psv = 0 by now the context ends. -/
def execResumption (cas : Nat) (s : State) : Out :=
  match s.cas.find cas with
  | none => .refused .notDue
  | some ca => match s.launches.find ca.lid with
    | none => .refused .notDue
    | some l =>
      if ca.phase = .resuming ∧ (s.panesOf cas).any fun q => q.2.saved then
        .next (if (s.ctx l.ctx).psv = 0 then s.terminate l.ctx 0x13 0
          else (((s.panesOf cas).foldl (fun s q => s.resumePane l.ctx l.M q.1) s).acquire ca.core).pmapWrite cas l)
      else .refused .notDue

/-! ## psave and prest (R238, R350) -/

/-- The unit runs the save routine, for saving or for restoring (R237). -/
def inRoutine (v : View) : Bool := decide (v.u.level = .save) || decide (v.u.level = .resume)

/-- ILLEGAL reason 7 outside the save routine (R350). -/
def routineEarly (v : View) : Early := { illegal := if inRoutine v then none else some 7 }

/-- PARTIAL of a matrix form outside the save routine (R350). -/
def matrixEarly (v : View) : Early := { full := !inRoutine v }

/-- The image's place (R238, R350): the checks of R127 with 4,096-byte alignment, and PROT for another node's record. -/
def imagePlace (v : View) (i : Instr) (n : Nat) (k : Perm) (x : Opnd) : Except Trap (List Elem) :=
  match v.resolve i n k 4096 x with
  | .error t => .error t
  | .ok es =>
    if (remoteNode v.s.dev (v.p.buf n)).isSome then
      .error { cause := causePROT, mask := v.E, eaddr := (es.filterMap fun e => e.ea).headD 0 }
    else .ok es

/-- A request for an image at its place. -/
def imageRequest (v : View) (i : Instr) (op : MemOp) (n len data : Nat) (bad : Bool) (es : List Elem) : MemReq :=
  v.request i op n .dflt (spread es 1 len fun _ e a => ⟨e.mask, a, len, data, 0, [], bad⟩) []

/-- A `psave` that is a store of the unit: the image is made, then stored. -/
def saveImage (v : View) (i : Instr) (part len n : Nat) (b : ImgBody) (bad : Bool) (x : Opnd) : Act :=
  match imagePlace v i n .wr x with
  | .error t => .trap v.s t
  | .ok es =>
    let m := v.s.newImage part len b
    let v' : View := { v with s := m.1 }
    let r := imageRequest v i (.save part) n len m.2 bad es
    match v'.access .store [] none r (fun s l => performStore s v.who .dflt l) with
    | .wait _ w => .wait v.s w
    | .trap _ t => .trap v.s t
    | a => a

/-- `psave.pane` (R238): the hidden state that the pane's pre-emption put aside, with fstat and fmode. -/
def execPsavePane (x : Opnd) (n : Nat) (s : State) : Out :=
  let i := Instr.psavePane x n
  issueWith i routineEarly (fun v =>
    let h := v.p.hidden.getD (v.s.hiddenOf v.pid v.p)
    saveImage v i 0 (imageLen 0 0) n (.pane { h with fmode := v.p.fmode, fstat := v.p.fstat }) false x) s

/-- A slot of the casement that waits for an image. -/
def View.anyBusySlot (v : View) : Option Nat :=
  (List.range v.l.lslots).find? fun z => !v.s.waitOver v.uid v.u (.slot z)

/-- `psave.lx` (R238, R86): every declared slot with its pending carries; no fold point. -/
def execPsaveLx (x : Opnd) (n : Nat) (s : State) : Out :=
  let i := Instr.psaveLx x n
  issue i (fun v =>
    match v.anyBusySlot with
    | some z => .wait v.s (.slot z)
    | none =>
      saveImage v i 2 (imageLen 2 v.l.lslots) n (.lx v.ca.longs) (v.s.poison.any fun y => match y with
        | .limb c _ _ => c == v.cid
        | _ => false) x) s

/-- A `prest` that is a load of the unit; `park` where it is a transfer. -/
def restoreImage (v : View) (i : Instr) (part len n : Nat) (park : Option (Nat → Park)) (x : Opnd) : Act :=
  match imagePlace v i n .rd x with
  | .error t => .trap v.s t
  | .ok es =>
    let r := imageRequest v i (.restore part) n len 0 false es
    v.access .load [] park r (fun s l => performRestore s v.who r part len l)

/-- `prest.pane` (R238, R350): releases, waits for every earlier instruction of the unit, then replaces the pane. -/
def execPrestPane (x : Opnd) (n : Nat) (s : State) : Out :=
  let i := Instr.prestPane x n
  issueWith i routineEarly (fun v => v.release fun s =>
    if !s.drained v.uid v.u then .wait s .drain
    else restoreImage v i 0 (imageLen 0 0) n (some .work) x) s

/-- `prest.lx` (R238, R350). -/
def execPrestLx (x : Opnd) (n : Nat) (s : State) : Out :=
  let i := Instr.prestLx x n
  issue i (fun v =>
    match v.anyBusySlot with
    | some z => .wait v.s (.slot z)
    | none => restoreImage v i 2 (imageLen 2 v.l.lslots) n none x) s

/-- `psave.mx` (R238, R350): an engine operation that needs the baton. -/
def execPsaveMx (x : Opnd) (n : Nat) (s : State) : Out :=
  let i := Instr.psaveMx x n
  issueWith i matrixEarly (fun v =>
    match imagePlace v i n .wr x with
    | .error t => .trap v.s t
    | .ok es => v.tileMove i (imageRequest v i (.save 1) n (imageLen 1 0) 0 false es) 0 false) s

/-- `prest.mx` (R238, R350): an engine operation that needs the baton. -/
def execPrestMx (x : Opnd) (n : Nat) (s : State) : Out :=
  let i := Instr.prestMx x n
  issueWith i matrixEarly (fun v =>
    match imagePlace v i n .rd x with
    | .error t => .trap v.s t
    | .ok es => v.tileMove i (imageRequest v i (.restore 1) n (imageLen 1 0) 0 false es) 0 false) s

/-! ## Row ENGINE_OP_COMPLETE (R117, R237) -/

/-- The matrix registers as an operation finds them: cleared where the baton came from another context (R40). -/
def State.mxSeen (s : State) (core : Nat) : MxSt := if (s.core core).stale then .clear else (s.core core).mx

/-- A held or delayed head operation: its trap deferred, its pages noted, or tried again. -/
def State.engineHold (s : State) (core : Nat) (o : EngOp) (p : Pend) (r : MemReq) (t : TileRes) : State :=
  match t with
  | .dropped s' => s'.popEngine core o
  | .held s' pages => s'.putPend { p with held := true, work := .tile r pages false }
  | .later s' => s'.engineLater core o
  | .ready s' _ => s'

/-- `psave.mx` in its turn: its image made and stored. -/
def State.engineSave (s : State) (core : Nat) (o : EngOp) (p : Pend) (r : MemReq) : State :=
  match s.tileVisit p r with
  | .ready s' locs =>
    let m := s'.newImage 1 (imageLen 1 0) (.mx (s'.mxSeen core))
    let bad := !(s'.core core).stale && m.1.poison.any fun x => match x with
      | .tile c .. | .side c .. | .acc c .. | .pq c _ => c == core
      | _ => false
    let cs := locs.flatMap fun q => chunksOf bad m.2 q.2
    m.1.engineStores core o p r.pol cs
  | t => s.engineHold core o p r t

/-- `prest.mx`: the image found among those written, and installed; else the context terminates. -/
def State.engineInstall (s : State) (core : Nat) (o : EngOp) (p : Pend) (bs : List Byte) (bad : Bool) : State :=
  (((s.engineDo core { o with data := [], bad := [] }).retire p).popEngine core o).install p (s.imageOf 1 (imageLen 1 0) bs) bad

/-- `prest.mx` in its turn. -/
def State.engineRestore (s : State) (core : Nat) (o : EngOp) (p : Pend) (r : MemReq) (bound : Bool) : State :=
  if bound then s.engineInstall core o p (o.data.map Prod.snd) (o.bad != [])
  else match s.tileVisit p r with
    | .ready s' locs =>
      let ps := locs.flatMap Prod.snd
      if s'.readBehind (s'.whoOf p) ps ∨ s'.ackBefore (s'.whoOf p) r.pol ps then s'.engineLater core o
      else
        let x := s'.bindTile (s'.whoOf p) r 0 false locs
        x.2.2.1.engineInstall core o p (x.1.map Prod.snd) (x.2.1 != [])
    | t => s.engineHold core o p r t

/-- Row ENGINE_OP_COMPLETE (R117, R238): the due operation of a core's engine is performed and leaves the WMX count. -/
def execEngineOpComplete (core : Nat) (s : State) : Out :=
  match s.engineDue core with
  | none => .refused .notDue
  | some (o, p) => .next (match o.i, p.work with
    | .psaveMx .., .tile r _ _ => s.engineSave core o p r
    | .prestMx .., .tile r _ bound => s.engineRestore core o p r bound
    | _, _ => s.engineStep core o p)

end Sys2Proof.Machine
end

