-- ==== Sys2Proof/Machine/Trace.lean ====
section
/-! DEFINITION. The dependence trace: `dtst`, `trec`, `trec.wide` (R202, R308, R370), signatures (R95), the trace buffer and
dirty maps of a launch (R191 to R199). -/

namespace Sys2Proof.Machine

/-! ## Granules (R202, R308) -/

/-- The granule that a trace instruction names: translated, though no access is made, so neither AP nor a control window nor a
vault's size refuses it (R202, R308, R370). -/
def State.xlateGranule (s : State) (ctx va : Nat) : Xlate :=
  let place := fun (l : Leaf) =>
    if frameOf s.dev (l.pa va) = .none then Xlate.trap causeFATAL else .ok (l.pa va) l
  let fresh := match walk s.dev s.mem (s.ctx ctx).ptroot.toNat va with
    | .leaf l => place l
    | .pageFault => .pageFault 0
    | .fatal => .trap causeFATAL
  if (s.ctx ctx).ptroot.toNat % 2 = 0 then .trap causeFATAL
  else match s.tlb.find (tlbKey ctx va) with
    | some e => match place ⟨e / 4, e % 4⟩ with
      | .ok pa l => .ok pa l
      | _ => fresh
    | none => fresh

/-- One address located. -/
def Found.granule (ctx : Nat) (f : Found) (a : Acc) : Found :=
  let va := a.ea % 2 ^ 57
  match f.s.xlateGranule ctx va with
  | .pageFault r => { f with faults := f.faults ++ [(pageOf va, r)], locs := f.locs ++ [(a, [])] }
  | .trap c => { f with traps := f.traps ++ [(c, va, a.mask)], locs := f.locs ++ [(a, [])] }
  | .ok pa l => { f with s := f.s.cache ctx va l, locs := f.locs ++ [(a, [⟨va, 1, pa, l⟩])] }

/-- Every address of a trace instruction located (DEDUCED, log entry 21). -/
def State.locateTrace (s : State) (ctx : Nat) (accs : List Acc) : Found := accs.foldl (Found.granule ctx) { s := s }

/-- The bit of a local granule in a context's frozen map (R197, R202). -/
def State.frozenBit (s : State) (ctx pa : Nat) : Bool :=
  let c := s.ctx ctx
  if (frameOf s.dev pa).local then
    let i := trackIndex s.dev pa
    let a := bits c.dmap.toNat 12 40 * 4096 + (1 - c.current) * s.dev.dmapBytes + i / 8
    bits (s.mem.readByte a).toNat (i % 8) 1 == 1
  else false

/-- The launch of a casement runs as an incremental relaunch (R198). -/
def State.incremental (s : State) (cid : Nat) : Bool :=
  match (s.cas.find cid).bind fun c => s.launches.find c.lid with
  | some l => l.traced && !l.full
  | none => false

/-- A frame of the host or a peer window. -/
def Frame.away : Frame → Bool
  | .host | .peer .. => true
  | _ => false

/-- What `dtst` gives for one place (R202 Table 5) (DEDUCED, log entry 21). -/
def State.dtstValue (s : State) (w : Who) (p : Piece) : Nat :=
  if !s.incremental w.cid || (frameOf s.dev p.pa).away || s.frozenBit w.ctx p.pa then 1 else 0

/-- `dtst` on its places: recorded, tested; another node's record is a remote address (R202). -/
def performDtst (s : State) (w : Who) (r : MemReq) (locs : List (Acc × List Piece)) : Perf :=
  let here := locs.flatMap fun q => q.2.flatMap fun p => q.1.keys.map fun k => (k, w64 (s.dtstValue w p))
  let far := if r.node.isSome then r.accs.flatMap fun a => a.keys.map fun k => (k, w64 1) else []
  let s1 := s.recordPieces w.cid false (locs.flatMap Prod.snd)
  ⟨if r.node.isSome ∧ r.accs ≠ [] then s1.makeWide w.cid else s1, [(.regs (zeroWrites r ++ here ++ far) [] [] 0, 40)]⟩

/-- `trec` on its places: recorded whatever TRK is (R202). -/
def performTrec (s : State) (w : Who) (r : MemReq) (locs : List (Acc × List Piece)) : Perf :=
  let s1 := s.recordPieces w.cid true (locs.flatMap Prod.snd)
  ⟨if r.node.isSome ∧ r.accs ≠ [] then s1.makeWide w.cid else s1, []⟩

/-- A TRACE INSTRUCTION AFTER THE CHECKS OF R127: its places found, page faults logged, else performed. -/
def View.traceOp (v : View) (k : Kind) (codes : List Nat) (r : MemReq) (perf : Performer) : Act :=
  let f := if r.node.isSome then { s := v.s } else v.s.locateTrace v.ctx r.accs
  match pickTrap f.traps false with
  | some t => .trap v.s t
  | none =>
    if v.countFull k then .wait v.s (.count k)
    else match f.faults.eraseDups with
      | [] =>
        let p := perf f.s f.locs
        if k = .load then v.flyAll p.s k codes 0 none p.works else .next p.s
      | pages =>
        if 512 ≤ v.s.logUse v.core then .wait v.s .opLog
        else if v.countFull .load then .wait v.s (.count .load)
        else .next (v.launchWork (pages.foldl (fun s g => s.noteFault v.ctx v.core g.1 g.2 accRead) f.s) .load 0 true codes
          (.logged r pages))

/-- `dtst` (R308): a Load-kind result. -/
def execDtst (d x : Opnd) (n : Nat) (s : State) : Out :=
  let i := Instr.dtst d x n
  issue i (fun v =>
    match v.resolve i n .rd 1 x with
    | .error t => .trap v.s t
    | .ok es0 =>
      let es := v.inOrder i.cls es0
      let accs := spread es 1 1 fun _ e a => ⟨e.mask, a, 1, 0, 0, if d.isReg then [rkey d.code e.slot] else [], false⟩
      let r := v.request i .dtst n .dflt accs (if d.isReg then missedKeys es d.code 1 else [])
      v.traceOp .load (destCodes d 1) r (fun s l => performDtst s v.who r l)) s

/-- `trec` (R370): no result, no count. -/
def execTrec (x : Opnd) (n : Nat) (s : State) : Out :=
  let i := Instr.trec x n
  issue i (fun v =>
    match v.resolve i n .rd 1 x with
    | .error t => .trap v.s t
    | .ok es0 =>
      let accs := spread (v.inOrder i.cls es0) 1 1 fun _ e a => ⟨e.mask, a, 1, 0, 0, [], false⟩
      let r := v.request i .trec n .dflt accs []
      v.traceOp .other [] r (fun s l => performTrec s v.who r l)) s

/-- `trec.wide` (R202, R370): whatever the unit's mask. -/
def execTrecWide (s : State) : Out := issue .trecWide (fun v => .next (v.s.makeWide v.cid)) s

/-! ## SHA-256, as the signature of R95 takes it (FIPS 180-4) -/

/-- The integer root of degree k of x, found bit by bit downward from bit n. -/
def rootBelow (k x : Nat) : Nat → Nat → Nat
  | 0, r => r
  | n + 1, r => rootBelow k x n (if (r + 2 ^ n) ^ k ≤ x then r + 2 ^ n else r)

/-- The first 32 bits of the fraction of a prime's root of degree k. -/
def shaFraction (k p : Nat) : BitVec 32 := BitVec.ofNat 32 (rootBelow k (p * 2 ^ (32 * k)) 40 0)

/-- The primes below 312: sixty-four of them. -/
def shaPrimes : List Nat := (List.range 312).filter fun n => decide (2 ≤ n) && (List.range 18).all fun d =>
  decide (d < 2) || decide (n ≤ d) || n % d != 0

/-- The working variables, which are also the digest's words. -/
structure ShaVars where
  a : BitVec 32
  b : BitVec 32
  c : BitVec 32
  d : BitVec 32
  e : BitVec 32
  f : BitVec 32
  g : BitVec 32
  h : BitVec 32

/-- Words as working variables. -/
def ShaVars.ofList (w : Nat → BitVec 32) : ShaVars := ⟨w 0, w 1, w 2, w 3, w 4, w 5, w 6, w 7⟩

/-- The initial digest: the square roots of the first eight primes. -/
def ShaVars.start : ShaVars := .ofList fun k => shaFraction 2 (shaPrimes.getD k 2)

/-- The words of a digest in order. -/
def ShaVars.words (v : ShaVars) : List (BitVec 32) := [v.a, v.b, v.c, v.d, v.e, v.f, v.g, v.h]

/-- The exclusive or of a word's rotations by three amounts. -/
def rot3 (x : BitVec 32) (i j k : Nat) : BitVec 32 := x.rotateRight i ^^^ x.rotateRight j ^^^ x.rotateRight k

/-- One round with its constant plus its schedule word. -/
def ShaVars.round (v : ShaVars) (kw : BitVec 32) : ShaVars :=
  let picked := v.g ^^^ (v.e &&& (v.f ^^^ v.g))
  let voted := (v.a &&& v.b) ||| (v.c &&& (v.a ||| v.b))
  let t := v.h + rot3 v.e 6 11 25 + picked + kw
  ⟨t + rot3 v.a 2 13 22 + voted, v.a, v.b, v.c, v.d + t, v.e, v.f, v.g⟩

/-- The schedule word sixteen places after the first of a window of sixteen words. -/
def shaNext (w : List (BitVec 32)) : BitVec 32 :=
  let x := w.getD 1 0
  let y := w.getD 14 0
  w.getD 0 0 + (x.rotateRight 7 ^^^ x.rotateRight 18 ^^^ (x >>> 3)) + w.getD 9 0 +
    (y.rotateRight 17 ^^^ y.rotateRight 19 ^^^ (y >>> 10))

/-- Word k of a block, most significant byte first. -/
def shaWord (block : List Byte) (k : Nat) : BitVec 32 := BitVec.ofNat 32 (ofBytes ((block.drop (4 * k)).take 4).reverse)

/-- One block taken into the digest: a round for each prime, over a window of the schedule that moves on by one word. -/
def ShaVars.block (v : ShaVars) (block : List Byte) : ShaVars :=
  let r := (shaPrimes.foldl (fun (x : ShaVars × List (BitVec 32)) p =>
    (x.1.round (shaFraction 3 p + x.2.getD 0 0), x.2.tail ++ [shaNext x.2])) (v, (List.range 16).map (shaWord block))).1
  .ofList fun k => v.words.getD k 0 + r.words.getD k 0

/-- A message padded to whole 64-byte blocks. -/
def shaPad (m : List Byte) : List Byte :=
  m ++ [0x80] ++ List.replicate ((119 - m.length % 64) % 64) 0 ++ (toBytes 8 (8 * m.length)).reverse

/-- n blocks of a padded message taken in order. -/
def ShaVars.blocks : Nat → ShaVars → List Byte → ShaVars
  | 0, v, _ => v
  | n + 1, v, m => ShaVars.blocks n (v.block (m.take 64)) (m.drop 64)

/-- SHA-256 of a byte string, as 32 bytes. -/
def sha256 (m : List Byte) : List Byte :=
  let p := shaPad m
  (ShaVars.blocks (p.length / 64) ShaVars.start p).words.flatMap fun w => (toBytes 4 w.toNat).reverse

/-! ## The signature (R93, R95) -/

/-- Bytes at a virtual address of a context; none where one does not translate as readable. -/
def State.devBytes (s : State) (ctx va n : Nat) : Option (List Byte) := (s.devRead ctx va n).map fun v => toBytes n v

/-- The kernel descriptor of a launch: its two words (R93). -/
def State.descriptor (s : State) (l : LaunchSt) : Option (Nat × Nat) :=
  match s.devRead l.ctx ((l.entryPc + 2 ^ 57 - 16) % 2 ^ 57) 16 with
  | some v => some (bits v 0 64, bits v 64 64)
  | none => none

/-- A descriptor's word 1 is malformed (R93). -/
def badDescriptor (w : Nat) : Bool := bits w 32 32 != 0 || bits w 4 12 != 0 || decide (4096 < bits w 16 16)

/-- The signature block of R95 Table 5. -/
def signatureBlock (l : LaunchSt) (codeHash argHash shapes : Nat) : List Byte :=
  toBytes 8 codeHash ++ toBytes 8 argHash ++ toBytes 8 l.X ++ toBytes 4 l.Y ++ toBytes 4 l.Z ++ toBytes 4 l.B ++
    toBytes 2 l.M ++ toBytes 2 l.P ++ toBytes 2 l.SX ++ toBytes 2 l.SY ++ toBytes 1 shapes ++
    toBytes 1 (if l.det then 1 else 0) ++ toBytes 18 0

/-- A launch's signature (R95); a launch without a kernel descriptor has a free value. -/
def State.signature (s : State) (lid : Nat) (l : LaunchSt) : Nat :=
  if l.det ∨ l.trace then
    let d := (s.descriptor l).getD (0, 0)
    let n := bits d.2 16 16
    let argHash := if n = 0 then 0 else ofBytes ((sha256 ((s.devBytes l.ctx l.args n).getD [])).take 8)
    ofBytes ((sha256 (signatureBlock l d.1 argHash (bits d.2 0 4))).take 8)
  else (Config.plainSignature lid).toNat

/-! ## The trace buffer (R191, R199) -/

/-- A word of the header written by the device: no dirty bit (R193). -/
def State.headerPut (s : State) (l : LaunchSt) (k v : Nat) : State :=
  (s.devWrite l.ctx (l.traceBuf + 8 * k) 8 v false).getD s

/-- A word of the header. -/
def State.headerWord (s : State) (l : LaunchSt) (k : Nat) : Nat := (s.devReadWord l.ctx (l.traceBuf + 8 * k)).getD 0

/-- The lines of a span read by the device (R9): their owners are recalled, as by any `.dev` read. -/
def State.devRecallSpan (s : State) (ctx va n : Nat) : State :=
  (linesOf (n / 64 + 2) va n).foldl (fun s q => s.devRecall ctx (q.1 % 2 ^ 57) q.2) s

/-- The header read by the device. -/
def State.headerRead (s : State) (l : LaunchSt) : State := if l.trace then s.devRecallSpan l.ctx l.traceBuf 64 else s

/-- The descriptor, the argument bytes and the header read by the device as a record is checked (R9, R176). -/
def State.recordRead (s : State) (l : LaunchSt) : State :=
  if l.det ∨ l.trace then
    let n := ((s.descriptor l).map fun d => bits d.2 16 16).getD 0
    ((s.devRecallSpan l.ctx ((l.entryPc + 2 ^ 57 - 16) % 2 ^ 57) 16).devRecallSpan l.ctx l.args n).headerRead l
  else s

/-- The grid size (R21). -/
def LaunchSt.grid (l : LaunchSt) : Nat := l.X * l.Y * l.Z * l.B

/-- A casement's recorder at retirement: its open runs, oldest first, then the status word (R192, R194). -/
def State.flushRecorder (s : State) (cid : Nat) : State :=
  match s.cas.find cid with
  | none => s
  | some ca => match s.launches.find ca.lid with
    | none => s
    | some l =>
      if !l.traced then s
      else
        let s1 := ca.recd.runs.foldl (fun s r =>
          if ((s.cas.find cid).map fun c => c.recd.full).getD true then s else s.writeRun cid r) s
        let s2 := s1.updCas cid fun c => { c with recd := { c.recd with runs := [] } }
        match s2.cas.find cid with
        | none => s2
        | some c => s2.slotStore l.ctx ca.core ca.lid (slotAddr l (s2.slotWidth l) ca.linear 0) 8
            ((if c.recd.wide then 2 ^ 63 else 0) + c.recd.count) false

/-- An entry of a slot covers a granule whose bit is set in the frozen map (R198). -/
def State.entryHit (s : State) (ctx e : Nat) : Bool :=
  (List.range (bits e 48 16)).any fun k => s.frozenBit ctx ((bits e 0 48 + k) * 4096)

/-- A casement is selected by an incremental relaunch (R198): wide, or an entry of it is dirty. -/
def State.selected (s : State) (l : LaunchSt) (w linear : Nat) : Bool :=
  let st := (s.devReadWord l.ctx (slotAddr l w linear 0)).getD (2 ^ 63)
  bits st 63 1 == 1 || (List.range (min (bits st 0 16) (w - 1))).any fun k =>
    s.entryHit l.ctx ((s.devReadWord l.ctx (slotAddr l w linear (k + 1))).getD 0)

/-- A relaunch runs in full (R198); a traced launch that is no relaunch always does. -/
def State.runsFull (s : State) (l : LaunchSt) (sig : Nat) : Bool :=
  decide (l.kind ≠ .relaunch) || s.headerWord l 6 % 2 == 0 || s.headerWord l 0 != sig ||
    s.headerWord l 3 != (s.ctx l.ctx).dgen || !l.indep

/-- THE TRACED START (R197): the maps change places, DGEN grows, and GEN, VALID and FULL are written. -/
def State.tracedStart (s : State) (lid : Nat) (l : LaunchSt) (full : Bool) : State :=
  let s1 := (s.headerRead l).updCtx l.ctx fun c => { c with
    current := 1 - c.current
    frozen := some lid
    tracer := some lid
    dgen := (c.dgen + 1) % 2 ^ 64 }
  (s1.headerPut l 3 (s1.ctx l.ctx).dgen).headerPut l 6 (if full then 2 else 0)

/-- The end of a traced launch (R197): its frozen map is cleared in the background. -/
def State.tracedEnd (s : State) (lid ctx : Nat) : State :=
  if (s.ctx ctx).tracer = some lid then
    let (s, id) := (s.updCtx ctx fun c => { c with tracer := none, frozen := none, clearing := true }).fresh
    s.putPend ⟨id, 0, 0, ctx, 0, 0, .other, 0, s.now, s.now + s.dev.dmapBytes / 128, false, 0,
      .frozenClear ctx (s.mapBase ctx (1 - (s.ctx ctx).current))⟩
  else s

/-- The header of a completed traced launch (R199). -/
def State.traceHeader (s : State) (l : LaunchSt) : State :=
  if !l.traced then s
  else
    let s1 := ((s.headerPut l 0 l.sig).headerPut l 1 (l.grid % 2 ^ 48)).headerPut l 4 (l.reran % 2 ^ 48)
    ((s1.headerPut l 5 (l.wideCnt % 2 ^ 48)).headerPut l 6 ((if l.full then 2 else 0) + if l.dropped then 0 else 1)).headerPut
      l 7 0

end Sys2Proof.Machine
end

