-- ==== Sys2Proof/Machine/Launch.lean ====
section
/-! DEFINITION. Launches: `glaunch`, `glaunch.nb`, `tlaunch`, `rerun` (R182, R183, R200, R318), launch ports and queues (R173 to
R175), the firmware's checks and refusals (R31, R176, R185, R193). Rows HOST_LAUNCH, PENDING_MOVE, LAUNCH_CHECK, TASK_CHECK,
TASK_READY. -/

namespace Sys2Proof.Machine

/-! ## Footprints (R30, R31) -/

/-- Room of a core, or what a casement takes of it (R30 Table 3). -/
structure Foot where
  slots : Nat
  vec : Nat
  shr : Nat
  scr : Nat
  lane : Nat
  longs : Nat
deriving DecidableEq, Repr

def Foot.zero : Foot := ⟨0, 0, 0, 0, 0, 0⟩
/-- The capacity of a core. -/
def Foot.core : Foot := ⟨64, 2 ^ 21, 2 ^ 18, 2 ^ 20, 2 ^ 20, 16384⟩
def Foot.add (a b : Foot) : Foot :=
  ⟨a.slots + b.slots, a.vec + b.vec, a.shr + b.shr, a.scr + b.scr, a.lane + b.lane, a.longs + b.longs⟩
def Foot.le (a b : Foot) : Bool :=
  decide (a.slots ≤ b.slots) && decide (a.vec ≤ b.vec) && decide (a.shr ≤ b.shr) && decide (a.scr ≤ b.scr) &&
    decide (a.lane ≤ b.lane) && decide (a.longs ≤ b.longs)

/-- A casement's footprint with n vector registers declared (R30). -/
def LaunchSt.foot (l : LaunchSt) (n : Nat) : Foot :=
  ⟨l.P, l.P * n * 256 * l.M, l.P * l.W * 256, l.scrBytes, l.P * 32 * l.M * l.L, l.slotRun⟩

/-- How many times a footprint goes into an empty core. -/
def Foot.times (f : Foot) : Nat :=
  let q := fun (a b d : Nat) => if b = 0 then d else min d (a / b)
  let c := Foot.core
  q c.longs f.longs (q c.lane f.lane (q c.scr f.scr (q c.shr f.shr (q c.vec f.vec (q c.slots f.slots 64)))))

/-- The enabled cores of a die (R11). -/
def DevSt.dieCores (d : DevSt) (k : Nat) : List Nat := d.cores.filter fun c => c / 16 = k

/-- The launch can be placed on the cores now enabled (R31). -/
def LaunchSt.placeable (l : LaunchSt) (d : DevSt) : Bool :=
  (l.foot l.vmax).le Foot.core && (List.range 8).any fun k =>
    decide (min l.SX l.X * min l.SY l.Y ≤ (d.dieCores k).length * (l.foot l.V).times)

/-! ## Checks of a record (R175, R176, R184, R185, R193) -/

/-- A must-be-0 field is nonzero, or an address of Table 2 is misaligned (code 0x01). -/
def LaunchSt.badFields (l : LaunchSt) : Bool :=
  let w := wordAt l.words
  let top := fun (k : Nat) => bits (w k) 57 7 != 0
  let declBad := fun (a b : Nat) =>
    bits a 49 7 != 0 || bits a 21 4 != 0 || bits a 0 7 != 0 || bits b 47 17 != 0 || bits b 21 11 != 0
  if l.isTask then
    [0, 1, 5, 7, 9, 11, 13, 14].any top || bits (w 2) 62 2 != 0 || bits (w 2) 8 48 != 0 || bits (w 2) 0 6 != 0 ||
      declBad (w 3) (w 4) || bits (w 15) 32 32 != 0 || l.entryPc % 4 != 0
  else
    [0, 1, 6, 7, 8, 10, 11].any top || bits (w 3) 62 2 != 0 || bits (w 3) 8 28 != 0 || bits (w 3) 3 3 != 0 ||
      declBad (w 4) (w 5) || w 12 != 0 || w 13 != 0 || w 14 != 0 || l.entryPc % 4 != 0 || l.cwAddr % 8 != 0 ||
      l.parent % 8 != 0

/-- A declaration breaks Table 3 (code 0x05). -/
def LaunchSt.badDecl (l : LaunchSt) : Bool :=
  l.V % 8 != 0 || decide (l.V < 8) || decide (64 < l.V) || l.vmax % 8 != 0 || decide (l.vmax < l.V) || decide (64 < l.vmax) ||
    decide (32 < l.W) || decide (30 < l.S) || decide (2 ^ 20 < l.scr) || l.L % 64 != 0 || decide (4096 < l.L) ||
    decide (16384 < l.lslots)

/-- The leaves of a span that the device can reach locally under a kind of access; none where one byte fails (R9). -/
def State.spanLeaves (s : State) (ctx : Nat) (k : AccKind) : Nat → Nat → Nat → Option (List Leaf)
  | 0, _, _ => some []
  | f + 1, va, n =>
    if n = 0 then some []
    else match s.devXlate ctx k (va % 2 ^ 57) with
      | none => none
      | some (pa, l) =>
        if (frameOf s.dev pa).local ∨ k = .read then
          let step := 65536 - va % 65536
          if n ≤ step then some [l]
          else (State.spanLeaves s ctx k f (va + step) (n - step)).map fun r => l :: r
        else none

/-- A span the device can reach. -/
def State.spanOk (s : State) (ctx : Nat) (k : AccKind) (va n : Nat) : Bool := (s.spanLeaves ctx k (n / 65536 + 2) va n).isSome

/-- An address of a record translates with the access it needs (R176): as the leaf allows, in a window too (R188, R219). -/
def State.wordPlace (s : State) (ctx : Nat) (k : AccKind) (va : Nat) : Option (Nat × Leaf) :=
  match s.xlate ctx k va with
  | .ok pa l => if s.devReaches pa || (frameOf s.dev pa).away then some (pa, l) else none
  | _ => none

/-- The place of a sequence counter (R186): an aligned word on a memory-side HBM4E page; none where it is not one. -/
def State.counterPlace (s : State) (ctx : Nat) (k : AccKind) (va : Nat) : Option (Nat × Leaf) :=
  if va % 8 ≠ 0 then none
  else match s.devXlate ctx k va with
    | some (pa, l) => (match frameOf s.dev pa with
      | .hbm _ => if l.ap = 1 then some (pa, l) else none
      | _ => none)
    | none => none

/-- The counters of a task, used ones only, with their thresholds (R184). -/
def LaunchSt.counters (l : LaunchSt) : List (Nat × Nat) :=
  if l.isTask then
    ((List.range 4).map fun k => (bits (wordAt l.words (5 + 2 * k)) 0 57, wordAt l.words (6 + 2 * k))).filter fun q => q.1 != 0
  else []

/-- The bytes of a launch's trace buffer (R191). -/
def State.traceSpan (s : State) (l : LaunchSt) : Nat := 64 + 8 * l.grid * s.slotWidth l

/-- SLOTW or a reserved bit of the header's word 2 is out of range (R193). -/
def State.badSlotWord (s : State) (l : LaunchSt) : Bool :=
  let w := s.headerWord l 2
  bits w 17 47 != 0 || decide (bits w 0 17 < 2) || decide (65536 < bits w 0 17)

/-- An address does not translate with the access it needs (code 0x08) (DEDUCED, log entry 33). -/
def State.badAddress (s : State) (l : LaunchSt) : Bool :=
  let arglen := if l.det ∨ l.trace then ((s.descriptor l).map fun d => bits d.2 16 16).getD 0 else 0
  let write := fun (va : Nat) => va != 0 && (s.wordPlace l.ctx .write va).isNone
  (match s.fetchWord l.ctx l.entryPc with
    | .ok .. => false
    | _ => true) ||
  write l.pmap || write l.cwAddr || write l.swapBase ||
  (l.parent != 0 && (s.counterPlace l.ctx .atomic l.parent).isNone) ||
  (l.counters.any fun q => (s.counterPlace l.ctx .read q.1).isNone) ||
  !s.spanOk l.ctx .read l.args arglen ||
  (l.trace && (!s.spanOk l.ctx .write (l.traceBuf / 64 * 64) 64 ||
    (l.traceBuf % 64 == 0 && !s.badSlotWord l && !s.spanOk l.ctx .write l.traceBuf (s.traceSpan l))))

/-- The trace buffer fails R193 (code 0x0A). -/
def State.badTrace (s : State) (l : LaunchSt) : Bool :=
  if !l.trace then decide (l.kind = .relaunch)
  else
    l.traceBuf % 64 != 0 || s.badSlotWord l || (s.ctx l.ctx).dmap.toNat % 2 == 0 ||
    ((s.spanLeaves l.ctx .write (s.traceSpan l / 65536 + 2) l.traceBuf (s.traceSpan l)).getD []).any Leaf.trk ||
    s.launches.any fun q => q.2.ctx == l.ctx && q.2.traced && q.2.started &&
      decide (l.traceBuf < q.2.traceBuf + s.traceSpan q.2) && decide (q.2.traceBuf < l.traceBuf + s.traceSpan l)

/-- THE CHECKS OF A RECORD in the order of R176 Table 3: the code of the first that fails (DEDUCED, log entry 33). -/
def State.checkRecord (s : State) (l : LaunchSt) : Option Nat :=
  if l.badFields then some 0x01
  else if l.N % l.M ≠ 0 then some 0x02
  else if !l.isTask && (decide (l.X = 0) || decide (2 ^ 31 < l.X) || decide (2 ^ 48 ≤ l.grid)) then some 0x03
  else if 16 < l.SX * l.SY then some 0x04
  else if l.badDecl then some 0x05
  else if !l.placeable s.dev then some 0x06
  else if (l.det || l.trace) && (match s.descriptor l with
      | some d => badDescriptor d.2
      | none => true) then some 0x07
  else if s.badAddress l then some 0x08
  else if s.badTrace l then some 0x0A
  else none

/-! ## Words the device writes for a launch (R176, R186, R188) -/

/-- The bytes of a number written at an address, line by line; a part that does not translate is left out. -/
def State.devParts (s : State) (ctx va n v : Nat) : State :=
  (linesOf (n / 64 + 2) va n).foldl (fun s q =>
    (s.devWrite ctx (q.1 % 2 ^ 57) q.2 (bits v (8 * (q.1 - va)) (8 * q.2)) true).getD s) s

/-- A completion word of the device's own that leaves by a window (R188, R205, R219): to this node by its inbound path, to another
node sealed by the station of its offset, to the host at the address of the context's binding; without a key, a station or a
binding it fails and is dropped (DEDUCED, log entry 36). -/
def State.cwAway (s : State) (ctx pa v : Nat) : State :=
  match frameOf s.dev pa with
  | .peer node off =>
    if node = s.dev.node then
      match s.inboundAt .store .store true off 8 v 0 with
      | some (st, _, s') => s'.inboundRecord st (rkindCode .store) node off 0 false
      | none => s
    else if reachable s.dev node then
      (s.sealTo node ((stationOf s.dev.stations node off).getD 0)).1.updDev fun d => { d with
        answers := d.answers ++ [⟨2 ^ 33 + node, [off, v]⟩] }
    else s
  | .host =>
    let port := bits pa 44 2
    match bindingOf s.dev ctx port with
    | some b => s.updDev fun d => { d with
        answers := d.answers ++ [⟨2 ^ 34 + 4 * ctx + port, [(b.hbase + pa % 2 ^ 44) % 2 ^ 64, v]⟩] }
    | none => s
  | _ => s

/-- A completion word written at its home, or sent where it lies in a window (R188); a refusal's word at a misaligned address is
written at that address, where that is a writable page (R176) (DEDUCED, log entry 33). -/
def State.cwStore (s : State) (ctx va v : Nat) : State :=
  if va = 0 then s
  else if va % 8 ≠ 0 then s.devParts ctx va 8 v
  else match s.wordPlace ctx .write va with
    | none => s
    | some (pa, l) =>
      if (frameOf s.dev pa).away then s.cwAway ctx pa v
      else if (frameOf s.dev pa).local then
        if s.converting pa then s.devLater ctx ⟨pa, va, 8, v, l.trk, false⟩
        else ((s.homeWrite ctx ⟨pa, va, 8, v, l.trk, false⟩).testCounter pa).noteReply pa
      else s

/-- A parent or completion counter incremented (R188). -/
def State.parentAdd (s : State) (ctx va : Nat) : State :=
  if va = 0 then s
  else match s.counterPlace ctx .atomic va with
    | some (pa, l) => s.increment ctx ⟨pa, va, 8, 1, l.trk, false⟩
    | none => s

/-- A parent or completion counter that hears of a failure: (word + 1) or bit 63 (R176, R185, R242) (DEDUCED, log entry 35). -/
def State.parentFail (s : State) (ctx va : Nat) : State :=
  if va = 0 then s
  else match s.counterPlace ctx .atomic va with
    | some (pa, l) =>
      ((s.homeWrite ctx ⟨pa, va, 8, (s.homeRead pa 8 + 1) % 2 ^ 64 ||| 2 ^ 63, l.trk, false⟩).testCounter pa).noteReply pa
    | none => s

/-- A refusal reported where R176 and R185 say; a task has neither status counts nor a completion word. -/
def State.reportRefusal (s : State) (l : LaunchSt) (code : Nat) : State :=
  if l.isTask then
    (s.parentFail l.ctx l.parent).record l.ctx [0x03 * 2 ^ 56 + code, l.tag, 0, 0]
  else
    let s1 := s.updCtx l.ctx fun c => { c with refused := (c.refused + 1) % 2 ^ 64, lastReason := code }
    ((s1.cwStore l.ctx l.cwAddr (2 ^ 63 + code)).parentFail l.ctx l.parent).record l.ctx [0x02 * 2 ^ 56 + code, l.tag, 0, 0]

/-- A record refused: it leaves the queue or table (DEDUCED, log entry 33). -/
def State.refuse (s : State) (lid code : Nat) : State :=
  match s.launches.find lid with
  | none => s
  | some l => (s.setLaunches (s.launches.del lid)).reportRefusal l code

/-! ## The launch queue and the task table (R173, R174, R185) -/

/-- The records of a context in its launch queue, or in its task table. -/
def State.queueOf (s : State) (ctx : Nat) (task : Bool) : List (Nat × LaunchSt) :=
  s.launches.filter fun q => q.2.ctx = ctx ∧ q.2.isTask = task

/-- The queue or table holds as many as it can. -/
def State.queueFull (s : State) (ctx : Nat) (task : Bool) : Bool :=
  decide ((if task then 4096 else 64) ≤ (s.queueOf ctx task).length)

/-- A record as it enters: nothing checked, nothing bound. -/
def LaunchSt.arrive (ctx : Nat) (kind : LKind) (words : List Nat) : LaunchSt where
  ctx := ctx
  kind := kind
  words := words
  entry := 0
  phase := .queued
  ready := false
  todo := []
  skipped := []
  retired := 0
  size := 1
  sig := 0
  gen := 0
  full := true
  reran := 0
  shapes := 0
  wideCnt := 0
  dropped := false
  started := false
  logHeld := false

/-- The lowest number that a list lacks, below n. -/
def lowestFree (n : Nat) (used : List Nat) : Nat := ((List.range n).find? fun k => !used.contains k).getD n

/-- A record takes an entry; a launch beyond 64 is refused at once with 0x09 (R174, R176). -/
def State.enqueue (s : State) (ctx : Nat) (kind : LKind) (words : List Nat) : State :=
  let l := LaunchSt.arrive ctx kind words
  if s.queueFull ctx l.isTask then s.reportRefusal l 0x09
  else
    let (s, id) := s.fresh
    let l' := { l with
      entry := lowestFree 4096 ((s.queueOf ctx l.isTask).map fun q => q.2.entry)
      size := if l.isTask then 1 else l.grid }
    (s.putLaunch id l').updCtx ctx fun c => if l.isTask then c else { c with accepted := (c.accepted + 1) % 2 ^ 64 }

/-! ## Row HOST_LAUNCH (R173, R174) -/

/-- The record that stands in a launch port (DESIGN CHOICE, log entry 6). -/
def CtxSt.port (c : CtxSt) (k : Nat) : List Nat := (List.range 16).map fun i => readSpan c.ports (128 * k + 8 * i) 8

/-- The bytes of a write that fall in a port, written. -/
def CtxSt.portWrite (c : CtxSt) (k off : Nat) (data : List Byte) : CtxSt :=
  let qs := data.zipIdx.filter fun q => decide (off + q.2 < 128)
  { c with ports := qs.foldl (fun m q => Sparse.write m (128 * k + off + q.2) q.1) c.ports }

/-- A write at an offset of a launch port: it latches the record where it covers a byte of 120 to 127 (R174). -/
def State.launchPort (s : State) (ctx port off : Nat) (data : List Byte) : State :=
  let last := decide (off < 128) && decide (120 < off + data.length) && !data.isEmpty
  match s.ctxs.find ctx with
  | none =>
    if last then s.updDev fun d => { d with refusedUndef := d.refusedUndef.put ctx (d.refusedUndef.getD ctx 0 + 1) } else s
  | some c =>
    let c' := c.portWrite port off data
    let s1 := s.putCtx ctx c'
    if last then s1.enqueue ctx .launch (c'.port port) else s1

/-- A write into a control window (R173): split by 4 KiB page in ascending order; pages that are no launch port take nothing. -/
def State.controlWrite (s : State) (ctx : Nat) : Nat → Nat → List Byte → State
  | 0, _, _ => s
  | f + 1, off, data =>
    let n := 4096 - off % 4096
    let s1 := if off / 4096 < 16 then s.launchPort ctx (off / 4096) (off % 4096) (data.take n) else s
    if data.length ≤ n then s1 else State.controlWrite s1 ctx f (off + n) (data.drop n)

/-- Row HOST_LAUNCH (R174): an RDMA write performed at a launch port. -/
def execHostLaunch (ctx port off : Nat) (data : List Byte) (s : State) : Out :=
  .next (s.launchPort ctx port off data)

/-! ## Device-side launches (R182, R183, R200, R318) -/

/-- Predicate p0 as `glaunch.nb` leaves it (R182). -/
def View.setP0 (v : View) (s : State) (ok : Bool) : State :=
  s.updPane v.pid fun p => p.setPred 0 v.E (if ok then ~~~(0 : Mask) else 0)

/-- The pending queue has no entry for this unit (R183): four are held, or another unit waits for one. -/
def View.pendingFull (v : View) : Bool :=
  decide (4 ≤ v.ca.pendQ.length) ||
    (decide (v.u.park ≠ .wait .pendingQueue) && v.s.units.any fun q =>
      q.1 != v.uid && decide (q.2.park = .wait .pendingQueue) && ((v.s.panes.find q.2.pane).map PaneSt.cas) == some v.cid)

/-- The record's 128 bytes read (R182). -/
def performRecord (s : State) (w : Who) (r : MemReq) (id : Nat) (locs : List (Acc × List Piece)) : Perf :=
  let rd := match locs with
    | [] => (0, s, 18)
    | q :: _ => s.readPieces w r.pol q.2
  ⟨rd.2.1, [(.record id ((List.range 16).map fun k => bits rd.1 (64 * k) 64), rd.2.2)]⟩

/-- THE MOULD OF A DEVICE-SIDE LAUNCH (R182, R318): checks, release, claim, then the record's fetch as a load of the unit. -/
def launchOp (i : Instr) (form : Nat) (nb : Bool) (x : Opnd) (n : Nat) (s : State) : Out :=
  issue i (fun v =>
    match v.resolve i n .rd 128 x with
    | .error t => .trap v.s t
    | .ok es => v.release fun s =>
      if v.pendingFull then (if nb then .next (v.setP0 s false) else .wait s .pendingQueue)
      else
        let (s1, id) := s.fresh
        let s2 := s1.updCas v.cid fun c => { c with pendQ := c.pendQ ++ [⟨id, form, [], 0⟩] }
        let v' : View := { v with s := if nb then v.setP0 s2 true else s2 }
        let r := v.request i (.record id) n .dflt
          (spread es 1 128 fun _ e a => ⟨e.mask, a, 128, 0, 0, [], false⟩) []
        match v'.access .load [] none r (fun s l => performRecord s v'.who r id l) with
        | .wait _ w => .wait v.s w
        | .trap _ t => .trap v.s t
        | a => a) s

/-- `glaunch` (R182, R318). -/
def execGlaunch (x : Opnd) (n : Nat) (s : State) : Out := launchOp (.glaunch x n) 0 false x n s

/-- `glaunch.nb` (R182, R318). -/
def execGlaunchNb (x : Opnd) (n : Nat) (s : State) : Out := launchOp (.glaunchNb x n) 1 true x n s

/-- `tlaunch` (R182, R369). -/
def execTlaunch (x : Opnd) (n : Nat) (s : State) : Out := launchOp (.tlaunch x n) 2 false x n s

/-- `rerun` (R200, R355). -/
def execRerun (x : Opnd) (n : Nat) (s : State) : Out := launchOp (.rerun x n) 3 false x n s

/-! ## Row PENDING_MOVE (R183) -/

/-- The entry of a pending queue whose record arrived first, among those that may move. -/
def firstArrived (may : PendRec → Bool) : List PendRec → Option PendRec
  | [] => none
  | e :: r =>
    let rest := firstArrived may r
    if e.words = [] ∨ !may e then rest
    else match rest with
      | some x => if x.at_ < e.at_ then some x else some e
      | none => some e

/-- The entry of a casement that moves next: its destination has room (R183). -/
def State.movable (s : State) (ca : CasementSt) : Option PendRec :=
  firstArrived (fun e => !s.queueFull (s.ctxOfCas ca) (e.form == 2)) ca.pendQ

/-- The casement whose movable entry arrived first (R183). -/
def State.nextMove (s : State) : Option Nat :=
  ((s.cas.filterMap fun q => (s.movable q.2).map fun e => (q.1, e.at_)).foldl (fun (a : Option (Nat × Nat)) q =>
    match a with
    | some b => if q.2 < b.2 then some q else a
    | none => some q) none).map Prod.fst

/-- Row PENDING_MOVE (R183): a record goes to its context's launch queue or task table. -/
def execPendingMove (cas : Nat) (s : State) : Out :=
  match s.cas.find cas with
  | none => .refused .notDue
  | some ca => match s.movable ca with
    | none => .refused .notDue
    | some e =>
      .next ((s.updCas cas fun c => { c with pendQ := c.pendQ.filter fun x => x.id ≠ e.id }).enqueue (s.ctxOfCas ca)
        (if e.form = 2 then .task else if e.form = 3 then .relaunch else .launch) e.words)

/-! ## Rows LAUNCH_CHECK and TASK_CHECK (R176, R185) -/

/-- The sashes of a launch by (a, b, gz, gm), in ascending linear index of their cid 0. -/
def LaunchSt.sashes (l : LaunchSt) : List (Nat × Nat × Nat × Nat) :=
  (List.range l.B).flatMap fun gm => (List.range l.Z).flatMap fun gz => (List.range l.SB).flatMap fun b =>
    (List.range l.SA).map fun a => (a, b, gz, gm)

/-- The linear index of a casement (R21). -/
def LaunchSt.linearOf (l : LaunchSt) (gx gy gz gm : Nat) : Nat := gx + l.X * (gy + l.Y * (gz + l.Z * gm))

/-- The smallest power of two not below n, by doubling. -/
def pow2Above : Nat → Nat → Nat → Nat
  | 0, _, p => p
  | f + 1, n, p => if n ≤ p then p else pow2Above f n (2 * p)

/-- The key of a sash under DET as one number (R96). -/
def LaunchSt.sashKey (l : LaunchSt) (q : Nat × Nat × Nat × Nat) : Nat :=
  let n := pow2Above 40 (max l.SA l.SB) 1
  (q.2.2.2 * l.Z + q.2.2.1) * (n * n) + hilbertIndex n q.1 q.2.1

/-- A pair put in its place by key. -/
def insertKey (q : Nat × Nat) : List (Nat × Nat) → List (Nat × Nat)
  | [] => [q]
  | x :: r => if q.1 < x.1 then q :: x :: r else x :: insertKey q r

/-- The sashes to bind, by the linear index of cid 0, in binding order (R177, R96). -/
def LaunchSt.order (l : LaunchSt) : List Nat :=
  if l.isTask then [0]
  else
    let corner := fun (q : Nat × Nat × Nat × Nat) => l.linearOf (l.SX * q.1) (l.SY * q.2.1) q.2.2.1 q.2.2.2
    if l.det then
      ((l.sashes.map fun q => (l.sashKey q, corner q)).foldl (fun r q => insertKey q r) []).map Prod.snd
    else l.sashes.map corner

/-- The oldest unchecked record of a context. -/
def State.unchecked (s : State) (ctx : Nat) (task : Bool) : Option (Nat × LaunchSt) :=
  (s.queueOf ctx task).find? fun q => q.2.phase = .queued

/-- A record checked: refused with its code, or accepted with its sashes to bind. -/
def State.check (s : State) (q : Nat × LaunchSt) : State :=
  match s.checkRecord q.2 with
  | some code => (s.recordRead q.2).refuse q.1 code
  | none => (s.recordRead q.2).putLaunch q.1 { q.2 with
      phase := .accepted
      todo := q.2.order
      shapes := ((s.descriptor q.2).map fun d => bits d.2 0 4).getD 0 }

/-- Row LAUNCH_CHECK (R176). -/
def execLaunchCheck (ctx : Nat) (s : State) : Out :=
  match s.unchecked ctx false with
  | none => .refused .notDue
  | some q => .next (s.check q)

/-- Row TASK_CHECK (R185). -/
def execTaskCheck (ctx : Nat) (s : State) : Out :=
  match s.unchecked ctx true with
  | none => .refused .notDue
  | some q => .next (s.check q)

/-! ## Row TASK_READY (R185) -/

/-- Every used counter holds at least its threshold, compared unsigned. -/
def State.thresholdsMet (s : State) (l : LaunchSt) : Bool :=
  l.counters.all fun q => match s.counterPlace l.ctx .read q.1 with
    | some (pa, _) => decide (q.2 ≤ s.homeRead pa 8)
    | none => false

/-- Row TASK_READY (R185): a task of the table whose thresholds are met is ready to be bound. -/
def execTaskReady (ctx task : Nat) (s : State) : Out :=
  match (s.queueOf ctx true).find? fun q => q.2.entry = task with
  | none => .refused .notDue
  | some q =>
    if q.2.phase = .accepted ∧ s.thresholdsMet q.2 then
      .next (s.putLaunch q.1 { q.2 with phase := .running, ready := true, started := true })
    else .refused .notDue

end Sys2Proof.Machine
end

