-- ==== Sys2Proof/Machine/Bind.lean ====
section
/-! DEFINITION. Policy and dispatch: binding (R177, R178), the traced start and relaunch selection (R197 to R199), admission
(R32, R179, R180), time slices (R181). Rows BIND, ADMISSION, SLICE_EXPIRY. -/

namespace Sys2Proof.Machine

/-! ## Room of a core (R30, R32, R46) -/

/-- A casement that still takes its footprint: what has left is free from the next ac (R35, R237). -/
def State.occupies (s : State) (c : CasementSt) : Bool :=
  c.resident || ((decide (c.phase = .away) || decide (c.phase = .retired)) && c.leftAt == s.now)

/-- The casements that take room on a core, with their launches. -/
def State.occupants (s : State) (core : Nat) : List (Nat × CasementSt × LaunchSt) :=
  s.cas.filterMap fun q =>
    if q.2.core = core ∧ s.occupies q.2 then (s.launches.find q.2.lid).map fun l => (q.1, q.2, l) else none

/-- The panes of a casement that hold their slots and register files (R187). -/
def State.inPanes (s : State) (cid : Nat) : List (Nat × PaneSt) :=
  (s.panesOf cid).filter fun q => !q.2.out || q.2.outAt == s.now

/-- The slots in use on a core. -/
def State.usedSlots (s : State) (core : Nat) : List Nat :=
  (s.occupants core).flatMap fun q => (s.inPanes q.1).map fun p => p.2.slot

/-- What is in use on a core. -/
def State.use (s : State) (core : Nat) : Foot :=
  let os := s.occupants core
  let sum := fun (f : Nat × CasementSt × LaunchSt → Nat) => (os.map f).foldl (· + ·) 0
  ⟨(s.usedSlots core).length, 2 ^ 21 - s.vectorFree core true, sum fun q => (s.inPanes q.1).length * q.2.2.W * 256,
    sum fun q => q.2.2.scrBytes, sum fun q => q.2.2.P * 32 * q.2.2.M * q.2.2.L, sum fun q => q.2.2.slotRun⟩

/-- A free run of n long slots on a core (R32, R132): the lowest (DESIGN CHOICE, log entry 59: R32 does not say which one). -/
def State.freeRun (s : State) (core n : Nat) : Option Nat :=
  let used := (s.occupants core).map fun q => (q.2.1.run, q.2.2.slotRun)
  let ok := fun (a : Nat) => decide (a + n ≤ 16384) && used.all fun u => decide (a + n ≤ u.1) || decide (u.1 + u.2 ≤ a) || u.2 == 0
  if n = 0 then some 0
  else match (0 :: used.map fun u => u.1 + u.2).filter ok with
    | [] => none
    | a :: r => some (r.foldl min a)

/-- The footprint of a casement to resume: its panes at their saved vcnt (R237). -/
def State.savedFoot (s : State) (cid : Nat) (l : LaunchSt) : Foot :=
  let ps := (s.panesOf cid).filter fun q => !q.2.out
  { l.foot l.V with
    slots := ps.length
    vec := (ps.map fun q => q.2.vcnt * 256 * l.M).foldl (· + ·) 0
    shr := ps.length * l.W * 256 }

/-- The footprints that a bind record asks for, casement by casement. -/
def State.recFoots (s : State) (b : BindRec) : List Foot :=
  match s.launches.find b.lid with
  | none => []
  | some l => b.cas.map fun c => if b.kind = 3 then s.savedFoot c l else l.foot l.V

/-- Every bind record outstanding. -/
def State.boundRecs (s : State) : List BindRec := s.cores.vals.flatMap CoreSt.table

/-- Footprints of the records already bound to a core (R177). -/
def State.boundOn (s : State) (core : Nat) : Foot :=
  s.boundRecs.foldl (fun f b => ((b.cores.zip (s.recFoots b)).filter fun q => q.1 = core).foldl (fun f q => f.add q.2) f) .zero

/-- Bind records outstanding on a core (R177) (DEDUCED, log entry 32). -/
def State.outstanding (s : State) (core : Nat) : Nat := (s.boundRecs.filter fun b => b.cores.contains core).length

/-- Cores of one die for footprints in order: each the lowest-numbered with room left (R177). -/
def State.placeAll (s : State) (cores : List Nat) : List Foot → List (Nat × Foot) → Option (List Nat)
  | [], _ => some []
  | f :: r, taken =>
    let room := fun (c : Nat) => decide (s.outstanding c < 32) &&
      (((taken.filter fun q => q.1 = c).foldl (fun a q => a.add q.2) ((s.use c).add (s.boundOn c))).add f).le Foot.core
    match cores.find? room with
    | none => none
    | some c => (State.placeAll s cores r ((c, f) :: taken)).map fun cs => c :: cs

/-- A die and cores for footprints, dies tried round-robin (R177). -/
def State.placeDie (s : State) (fs : List Foot) : Option (Nat × List Nat) :=
  (List.range 8).findSome? fun k =>
    let d := (s.dev.die + k) % 8
    (s.placeAll (s.dev.dieCores d) fs []).map fun cs => (d, cs)

/-! ## What is to bind (R177) -/

/-- The casements of a sash by linear index, in cid order, without those skipped (R22, R199). -/
def LaunchSt.members (l : LaunchSt) (linear : Nat) : List Nat :=
  if l.isTask then [0] else
  ((List.range l.SY).flatMap fun dy => (List.range l.SX).filterMap fun dx =>
    if linear % l.X + dx < l.X ∧ linear / l.X % l.Y + dy < l.Y then some (linear + dx + l.X * dy) else none).filter
      fun k => !l.skipped.contains k

/-- cid of a casement (R22). -/
def LaunchSt.cidOf (l : LaunchSt) (linear : Nat) : Nat :=
  linear % l.X % l.SX + l.SX * (linear / l.X % l.Y % l.SY)

/-- The sash coordinates of a casement. -/
def LaunchSt.sashOf (l : LaunchSt) (linear : Nat) : Nat × Nat × Nat × Nat :=
  (linear % l.X / l.SX, linear / l.X % l.Y / l.SY, linear / l.X / l.Y % l.Z, linear / l.X / l.Y / l.Z)

/-- The linear index of cid 0 of a casement's sash. -/
def LaunchSt.cornerOf (l : LaunchSt) (linear : Nat) : Nat :=
  linear - linear % l.X % l.SX - l.X * (linear / l.X % l.Y % l.SY)

/-- A sash that has left residency whole and is not bound again (R177, R237): its casements. -/
def State.awaySash (s : State) (lid : Nat) : Option (List (Nat × CasementSt)) :=
  let mine := s.cas.filter fun q => q.2.lid = lid ∧ q.2.phase = .away ∧ !s.boundRecs.any fun b => b.kind == 3 && b.cas.contains q.1
  match mine.filter fun q => (s.sashOf q.2).all fun x => decide (x.2.phase = .away) with
  | [] => none
  | q :: _ => some (mine.filter fun x => x.2.sid = q.2.sid)

/-- A traced start must wait (R197): the other map is frozen or clearing. -/
def State.startBlocked (s : State) (l : LaunchSt) : Bool :=
  l.traced && ((s.ctx l.ctx).frozen.isSome || (s.ctx l.ctx).clearing)

/-- A launch or task with something to bind. -/
def State.hasWork (s : State) (lid : Nat) (l : LaunchSt) : Bool :=
  match l.phase with
  | .accepted => !l.isTask
  | .running => (s.awaySash lid).isSome || !l.todo.isEmpty
  | _ => false

/-- What the firmware does next. -/
inductive BindAct where
  | start (lid : Nat)
  | place (lid die : Nat) (b : BindRec)
deriving DecidableEq, Repr

/-- The bind record of casements on cores (R178). -/
def bindRec (lid : Nat) (l : LaunchSt) (kind linear : Nat) (cas cores : List Nat) : BindRec where
  kind := kind
  ctx := l.ctx
  pri := l.pri
  entry := l.entry
  linear := if l.isTask then 0 else linear
  map := if kind = 1 then ((cas.zip cores).map fun q => (q.2 % 16) * 16 ^ (l.cidOf q.1)).foldl (· + ·) 0
    else if kind = 2 then l.entry else 0
  lid := lid
  cas := cas
  cores := cores

/-- What can be done for a launch now; none where it must wait. A traced start takes place before anything else of its ac (R197,
R204). -/
def State.bindFor (s : State) (lid : Nat) (l : LaunchSt) : Option BindAct :=
  if l.phase = .accepted then (if s.startBlocked l ∨ (l.traced ∧ !s.opening) then none else some (.start lid))
  else match s.awaySash lid with
    | some qs =>
      match s.placeDie (qs.map fun q => s.savedFoot q.1 l) with
      | some (d, cs) => some (.place lid d (bindRec lid l 3 (l.cornerOf ((qs.head?.map fun q => q.2.linear).getD 0))
          (qs.map Prod.fst) cs))
      | none => none
    | none => match l.todo with
      | [] => none
      | k :: _ => match s.placeDie ((l.members k).map fun _ => l.foot l.V) with
        | some (d, cs) =>
          some (.place lid d (bindRec lid l (if l.isTask then 2 else if 1 < l.SX * l.SY then 1 else 0) k (l.members k) cs))
        | none => none

/-- A traced start is next: it comes before the writes of the ac (R197, R204). -/
def BindAct.starts (s : State) (a : BindAct) : Bool :=
  match a with
  | .start lid => ((s.launches.find lid).map LaunchSt.traced).getD false
  | .place .. => false

/-- The next thing to bind at a priority for a context, in queue order: the first with work, or nothing where it must wait
(DEDUCED, log entry 32). -/
def State.bindIn (s : State) (ctx pri : Nat) : Option BindAct :=
  match s.launches.find? fun q => q.2.ctx == ctx && q.2.pri == pri && s.hasWork q.1 q.2 with
  | none => none
  | some q => s.bindFor q.1 q.2

/-- THE POLICY ORDER (R177): descending PRI, contexts round-robin (DEDUCED, log entry 32). -/
def State.nextBind (s : State) : Option BindAct :=
  [3, 2, 1, 0].findSome? fun pri => (List.range 64).findSome? fun k => s.bindIn ((s.dev.lastCtx + 1 + k) % 64) pri

/-! ## The start of a launch (R95, R197, R198, R243) -/

/-- The log's launch entry, held where it does not fit (R243, R245). -/
def State.logLaunch (s : State) (lid : Nat) (l : LaunchSt) (sig : Nat) : State :=
  let c := s.ctx l.ctx
  if !c.logOn then s
  else if c.logRoom 1 then s.logEntry l.ctx 255 0x01 sig l.tag
  else s.updLaunch lid fun l => { l with logHeld := true }

/-- A launch begins to bind: signature, relaunch decision, traced start and selection (DEDUCED, log entries 32, 37). -/
def State.startLaunch (s : State) (lid : Nat) (l : LaunchSt) : State :=
  let sig := s.signature lid l
  let full := !l.traced || s.runsFull l sig
  let s0 := if l.traced then s.tracedStart lid l full else s
  let w := s0.slotWidth l
  let s1 := if full then s0 else s0.devRecallSpan l.ctx (l.traceBuf + 64) (8 * l.grid * w)
  let skipped := if full then [] else (List.range l.grid).filter fun k => !s1.selected l w k
  let l' := { l with
    phase := .running
    started := true
    sig := sig
    gen := (s1.ctx l.ctx).dgen
    full := full
    skipped := skipped
    retired := skipped.length
    reran := l.size - skipped.length
    todo := l.todo.filter fun k => !({ l with skipped := skipped }.members k).isEmpty }
  (s1.putLaunch lid l').logLaunch lid l' sig

/-! ## Row BIND (R177) -/

/-- The lowest-numbered core that a record names (R178). -/
def BindRec.anchor (b : BindRec) : Nat :=
  match b.cores with
  | [] => 0
  | c :: r => r.foldl min c

/-- Row BIND (R177, R197, R198): a traced or other launch starts, or a bind record is written to its anchor's table (DEDUCED,
log entry 32). -/
def execBind (s : State) : Out :=
  match s.nextBind with
  | none => .refused .notDue
  | some (.start lid) => .next (match s.launches.find lid with
    | some l => s.startLaunch lid l
    | none => s)
  | some (.place lid die b) =>
    let s1 := s.updCore b.anchor fun c => { c with table := c.table ++ [b] }
    let s2 := if b.kind = 3 then s1 else s1.updLaunch lid fun l => { l with todo := l.todo.tail }
    .next (s2.updDev fun d => { d with die := (die + 1) % 8, lastCtx := b.ctx })

/-! ## Admission (R32, R179, R180) -/

/-- A swapped-out pane of the core whose wait has ended comes back before any record is admitted (R187). -/
def State.returning (s : State) (core : Nat) : Bool :=
  s.panes.any fun q => q.2.out && ((s.cas.find q.2.cas).map fun c => decide (c.core = core) && decide (c.phase = .resident)).getD false &&
    (s.unitsOf q.1).any fun u => match u.2.park with
      | .ctwt _ => false
      | _ => true

/-- Slots and the long run for a footprint on a core in this ac; none where it does not fit (R32). -/
def State.fits (s : State) (core : Nat) (f : Foot) : Option (List Nat × Nat) :=
  if !((s.use core).add f).le Foot.core ∨ s.returning core then none
  else (s.freeRun core f.longs).map fun r =>
    let used := s.usedSlots core
    (((List.range 64).filter fun k => !used.contains k).take f.slots, r)

/-- A casement at its first admission (R21, R22, R184). -/
def LaunchSt.casement (l : LaunchSt) (lid linear core run now order : Nat) : CasementSt :=
  let q := l.sashOf linear
  { lid := lid
    linear := linear
    gx := if l.isTask then l.tag % 2 ^ 32 else linear % l.X
    gy := if l.isTask then 0 else linear / l.X % l.Y
    gz := if l.isTask then 0 else q.2.2.1
    gm := if l.isTask then 0 else q.2.2.2
    cid := if l.isTask then 0 else l.cidOf linear
    sid := if l.isTask then 0 else q.1 + l.SA * (q.2.1 + l.SB * (q.2.2.1 + l.Z * q.2.2.2))
    core := core
    phase := .resident
    order := order
    admitAt := now
    leftAt := 0
    admits := 1
    ran := 0
    preAt := 0
    scratch := []
    longs := []
    run := run
    pendQ := []
    recd := ⟨[], 0, false, false⟩
    ords := []
    barStart := none
    barPc := 0
    sbarStart := none
    sbarPc := 0
    fired := false }

/-- A pane with its first unit, at the launch's entry with every position active (R20, R231). -/
def State.addPane (s : State) (cid : Nat) (l : LaunchSt) (q : Nat × Nat) : State :=
  let (s, pid) := s.fresh
  let (s, uid) := s.fresh
  (s.putPane pid (PaneSt.start cid q.1 q.2 l.V)).putUnit uid (UnitSt.start pid 0 l.entryPc s.now (fullMask l.M))

/-- The slice count of a context starts on a core where it had no casement (R181). -/
def State.sliceEnter (s : State) (core ctx : Nat) : State :=
  if ((s.core core).slices.find ctx).isSome then s
  else s.updCore core fun c => { c with slices := c.slices.put ctx s.now }

/-- A new casement admitted to a core, where it fits; what happened before its launch it sees (R155). -/
def State.admitNew (s : State) (lid : Nat) (l : LaunchSt) (linear core : Nat) : Option State :=
  (s.fits core (l.foot l.V)).map fun r =>
    let (s, cid) := s.fresh
    let s1 := s.putCasement cid (l.casement lid linear core r.2 s.now cid)
    let s2 := (r.1.zipIdx.map fun q => (q.2, q.1)).foldl (fun s q => s.addPane cid l q) s1
    ((s2.sliceEnter core l.ctx).acquire core).pmapWrite cid l

/-- A pre-empted casement admitted again (R237): scratch, long slots and every lane store read 0 (R130, R131), its panes take new
slots; without a pane to restore it runs on (DEDUCED, log entry 34). -/
def State.admitAgain (s : State) (l : LaunchSt) (cid core : Nat) : Option State :=
  (s.fits core (s.savedFoot cid l)).map fun r =>
    let ps := (s.panesOf cid).filter fun q => !q.2.out
    let s1 := s.updCas cid fun c => { c with
      core := core, phase := .resuming, order := s.nextId, admitAt := s.now, admits := c.admits + 1
      scratch := [], longs := [], run := r.2 }
    let pids := (s.panesOf cid).map Prod.fst
    let s2 := ((ps.zip r.1).foldl (fun s q => s.updPane q.1.1 fun p => { p with slot := q.2 })
      (pids.foldl (fun s k => s.updPane k fun p => { p with lanes := [] }) s1.fresh.1))
    let s3 := if s2.poison.isEmpty then s2 else s2.setPoison (s2.poison.filter fun x => match x with
      | .scratch c _ => c != cid
      | .limb c _ _ => c != cid
      | .reg p _ _ _ => !ps.any fun q => q.1 == p
      | .lane p _ _ => !pids.contains p
      | _ => true)
    let s4 := (s3.sliceEnter core l.ctx).acquire core
    if ps.any fun q => q.2.saved then s4 else (s4.checkRestored cid).pmapWrite cid l

/-- Every casement of a record admitted in one step, or none (R32). -/
def State.admitAll (s : State) (b : BindRec) (l : LaunchSt) : List (Nat × Nat) → Option State
  | [] => some s
  | q :: r =>
    match (if b.kind = 3 then s.admitAgain l q.1 q.2 else s.admitNew b.lid l q.1 q.2) with
    | none => none
    | some s' => State.admitAll s' b l r

/-- A sash of a DET launch with a lower key waits for admission (R97). -/
def State.detWaits (s : State) (b : BindRec) (l : LaunchSt) : Bool :=
  let key := fun (k : Nat) => l.sashKey (l.sashOf k)
  l.det && (s.boundRecs.any (fun x => x.lid == b.lid && decide (key x.linear < key b.linear)) ||
    l.todo.any (fun k => decide (key k < key b.linear)) ||
    s.cas.any fun q => q.2.lid == b.lid && decide (q.2.phase = .away) && decide (key q.2.linear < key b.linear))

/-- A record that is admitted as a whole sash on one die (R179 step 1). -/
def State.isSashRec (s : State) (b : BindRec) : Bool :=
  b.kind == 1 || (b.kind == 3 && ((s.launches.find b.lid).map fun l => decide (1 < l.SX * l.SY)).getD false)

/-- The outcome of trying one record. -/
def State.tryRec (s : State) (b : BindRec) : Option State :=
  match s.launches.find b.lid with
  | none => none
  | some l => if s.detWaits b l then none else s.admitAll b l (b.cas.zip b.cores)

/-- The first record of a core's table, from the head, that is admitted: its place, itself, and the state (R179). -/
def State.tryTable (s : State) (core : Nat) (sash : Bool) : Option (Nat × BindRec × State) :=
  let c := s.core core
  let open_ := if c.agelim ≤ c.headPass then c.table.take 1 else c.table
  open_.zipIdx.findSome? fun q =>
    if s.isSashRec q.1 = sash then (s.tryRec q.1).map fun s' => (q.2, q.1, s') else none

/-- The words of a bind record (R178 Table 4). -/
def BindRec.word0 (b : BindRec) : Nat :=
  b.kind * 2 ^ 62 + b.ctx * 2 ^ 56 + b.pri * 2 ^ 54 + (if b.kind = 2 then 0 else b.entry % 64) * 2 ^ 48 + b.linear % 2 ^ 48

/-- The bind entry of the log (R243, R245): held where it does not fit, and LOGFULL before the first pane's entry (DEDUCED,
log entry 34). -/
def State.logBind (s : State) (core : Nat) (b : BindRec) : State :=
  let c := s.ctx b.ctx
  if !c.logFlag 1 then s
  else if c.logRoom 1 then s.logEntry b.ctx core 0x02 b.word0 b.map
  else
    let uid := if b.kind = 3 then none else
      ((s.cas.filter fun q => q.2.lid == b.lid && decide (q.2.linear = b.linear)).head?.bind fun q => s.firstUnit q.1).map Prod.snd
    let s1 := s.updCtx b.ctx fun c => { c with heldBinds := c.heldBinds ++ [⟨core, b.word0, b.map, uid.getD 0⟩] }
    match uid with
    | none => s1
    | some u => s1.updUnit u fun x => { x with
        logHeld := true
        defer := x.defer ++ [⟨0x0E, 0, 0, 0, x.xm, 0, s.now⟩] }

/-- An admitted record leaves its table: the head's pass count (R179 step 3). -/
def State.admitted (s : State) (core k : Nat) (b : BindRec) (own : Bool) : State :=
  (s.updCore core fun c => { c with
    table := c.table.eraseIdx k
    headPass := if k = 0 then 0 else c.headPass + 1
    admAt := if own then some s.now else c.admAt }).logBind core b

/-- The sash records are still to be tried in this ac (R179 step 1): no core has admitted from its own table. -/
def State.sashStep (s : State) : Bool := s.dev.cores.all fun c => (s.core c).admAt != some s.now

/-- The core whose table admits next (R179): sash records first, in anchor order, then each core's own. -/
def State.admissionNext (s : State) : Option Nat :=
  match s.dev.cores.find? fun c => s.sashStep && (s.tryTable c true).isSome with
  | some c => some c
  | none => s.dev.cores.find? fun c => decide ((s.core c).admAt ≠ some s.now) && (s.tryTable c false).isSome

/-- Row ADMISSION (R179): one record of a core's table admitted. -/
def execAdmission (core : Nat) (s : State) : Out :=
  match (if s.sashStep then s.tryTable core true else none) with
  | some (k, b, s') => .next (s'.admitted core k b false)
  | none =>
    if (s.core core).admAt = some s.now then .refused .notDue
    else match s.tryTable core false with
      | some (k, b, s') => .next (s'.admitted core k b true)
      | none => .refused .notDue

/-! ## Row SLICE_EXPIRY (R181) -/

/-- The casements of a context that run on a core. -/
def State.residents (s : State) (core ctx : Nat) : List (Nat × CasementSt) :=
  s.cas.filter fun q => q.2.core = core ∧ q.2.resident ∧ s.ctxOfCas q.2 = ctx

/-- The slice of a context has expired on a core, another context's record of no lower priority waits there, and some casement of
the context can be pre-empted. -/
def State.sliceOver (s : State) (core ctx : Nat) : Bool :=
  let c := s.ctx ctx
  let here := s.residents core ctx
  let top := here.foldl (fun p q => max p (((s.launches.find q.2.lid).map LaunchSt.pri).getD 0)) 0
  let lim := bits (c.acting 0x49 c.slice).toNat 0 32
  match (s.core core).slices.find ctx with
  | none => false
  | some t =>
    lim != 0 && c.psv != 0 && decide (lim * 2 ^ 16 < s.now - t) && (here.any fun q => s.canPreempt q.1) &&
      (s.core core).table.any fun b => b.ctx != ctx && decide (top ≤ b.pri)

/-- Row SLICE_EXPIRY (R181): every casement of the context on the core is pre-empted, with its whole sash. -/
def execSliceExpiry (core ctx : Nat) (s : State) : Out :=
  if s.sliceOver core ctx then .next ((s.residents core ctx).foldl (fun s q => s.requestPreempt q.1) s)
  else .refused .notDue

end Sys2Proof.Machine
end

