-- ==== Sys2Proof/Machine/Control.lean ====
section
/-! DEFINITION. Control transfers, divergence and reconvergence, traps and their return (R50 to R57, R236, R291 to R299,
R309 to R311, R324 to R326, R353, R368). -/

namespace Sys2Proof.Machine

/-! ## Targets and causes -/

/-- Header + 4 × a signed word offset of n bits (R50). -/
def target (pc n off : Nat) : Nat := wrap 57 ((pc : Int) + 4 * signed n off)

/-- RSTACK: nothing changes (R51, R56, R57). -/
def rstackTrap (v : View) : Act := .trap v.s { cause := 0x17, mask := v.E }

/-- LOGFULL: n entries do not fit beside those written and reserved (R245) (DEDUCED, log entry 14). -/
def logFull (v : View) (n : Nat) : Bool := (v.s.ctx v.ctx).logFlag 2 && !(v.s.ctx v.ctx).logRoom n

/-- The LOGFULL trap. -/
def logTrap (v : View) : Act := .trap v.s { cause := 0x0E, mask := v.E }

/-! ## Uniform transfers (R52) -/

/-- `bany` (R291): taken if p is 1 in any active position. -/
def execBany (p off : Nat) (s : State) : Out :=
  issue (.bany p off) (fun v =>
    if v.E &&& v.p.pred p ≠ 0 then .jump v.s (target v.u.pc 20 off) else .next v.s) s

/-- `ball` (R291): taken if p is 1 in every active position. -/
def execBall (p off : Nat) (s : State) : Out :=
  issue (.ball p off) (fun v =>
    if v.E &&& ~~~v.p.pred p = 0 then .jump v.s (target v.u.pc 20 off) else .next v.s) s

/-- `jmp` (R324): always taken. -/
def execJmp (off : Nat) (s : State) : Out := issue (.jmp off) (fun v => .jump v.s (target v.u.pc 20 off)) s

/-- A call to an address: the word after the clause pushed (R51, R298). -/
def callTo (v : View) (pc : Nat) : Act :=
  .jump (v.s.updUnit v.uid fun u => { u with cstack := u.fallThrough :: u.cstack }) pc

/-- `call` (R298). -/
def execCall (off : Nat) (s : State) : Out :=
  issue (.call off) (fun v =>
    if 32 ≤ v.u.cstack.length then rstackTrap v else callTo v (target v.u.pc 20 off)) s

/-- `ret` (R51): to the top return address. -/
def execRet (s : State) : Out :=
  issue .ret (fun v => match v.u.cstack with
    | [] => rstackTrap v
    | pc :: r =>
      if (v.u.rstack.head?.map fun e => e.depth == v.u.cstack.length).getD false then rstackTrap v
      else .jump (v.s.updUnit v.uid fun u => { u with cstack := r }) pc) s

/-- The value of a target operand at each active position, in order of lane, then member (R53). -/
def targetValues (v : View) (a : Opnd) : List (Nat × Nat) :=
  (laneOrder v.E).map fun q => (q, (v.p.readAt zext a q).toNat)

/-- The positions whose target differs from the first active position's (R53). -/
def disagreeing (v : View) (a : Opnd) : List Nat :=
  match targetValues v a with
  | [] => []
  | (_, t) :: r => (r.filter fun q => q.2 ≠ t).map Prod.fst

/-- An indirect transfer: DISAGREE, then ALIGN, then `k` with the target (R53). -/
def indirect (v : View) (a : Opnd) (k : Nat → Act) : Act :=
  let T := match targetValues v a with
    | [] => (v.p.readAt zext a 0).toNat
    | (_, t) :: _ => t
  if disagreeing v a ≠ [] then .trap v.s { cause := 4, mask := maskOf (disagreeing v a) }
  else if T % 4 ≠ 0 then .trap v.s { cause := 9, mask := v.E, eaddr := T % 2 ^ 57 }
  else k (T % 2 ^ 57)

/-- `jmpi` (R325). -/
def execJmpi (a : Opnd) (s : State) : Out := issue (.jmpi a) (fun v => indirect v a fun t => .jump v.s t) s

/-- `calli` (R299): RSTACK, then the target's causes. -/
def execCalli (a : Opnd) (s : State) : Out :=
  issue (.calli a) (fun v =>
    if 32 ≤ v.u.cstack.length then rstackTrap v else indirect v a fun t => callTo v t) s

/-! ## Divergence (R54, R55) -/

/-- The unit's results of earlier splits covered (R265). -/
def State.coverAll (s : State) (uid : Nat) : State := s.updUnit uid fun u => { u with uncov := [] }

/-- `bdiv` (R54, R293): the smaller set detaches, the taken one on a tie (DEDUCED, log entry 14). -/
def execBdiv (p off : Nat) (s : State) : Out :=
  issue (.bdiv p off) (fun v =>
    let T := v.E &&& v.p.pred p
    let F := v.E &&& ~~~v.p.pred p
    let pc := target v.u.pc 20 off
    if logFull v 1 then logTrap v
    else if T = 0 then .next v.s
    else if F = 0 then .jump v.s pc
    else if !v.s.resultsWritten v.uid then .wait v.s .results
    else if countOf T ≤ countOf F then .next (v.detach v.s T fun u => u.endClause pc v.s.now)
    else .jump (v.detach v.s F fun u => u.advance 1 v.s.now) pc) s

/-- The groups of `bmw` with their targets, in pair order; the group that no pair matches is last (R55). -/
def bmwGroups (v : View) (pairs : List BmwPair) : List (Mask × Nat) :=
  let r := pairs.foldl (fun (a : Mask × List (Mask × Nat)) q =>
    let m := if q.pred = 63 then a.1 else a.1 &&& v.p.pred q.pred
    (a.1 &&& ~~~m, a.2 ++ [(m, target v.u.pc 26 q.off)])) (v.E, [])
  r.2 ++ [(r.1, v.u.fallThrough)]

/-- The target of a unit with no active position: the else arm's, or the word after the clause (R55). -/
def bmwNoMatch (v : View) (pairs : List BmwPair) : Nat :=
  match pairs.find? fun q => q.pred = 63 with
  | some q => target v.u.pc 26 q.off
  | none => v.u.fallThrough

/-- The largest group, the first of equals. -/
def largestGroup (g : Mask × Nat) (gs : List (Mask × Nat)) : Mask × Nat :=
  gs.foldl (fun b x => if countOf b.1 < countOf x.1 then x else b) g

/-- `bmw` (R55, R294): one group stays, the others detach in pair order (DEDUCED, log entry 14). -/
def execBmw (n : Nat) (pairs : List BmwPair) (s : State) : Out :=
  issue (.bmw n pairs) (fun v =>
    if logFull v n then logTrap v
    else match (bmwGroups v pairs).filter fun g => g.1 ≠ 0 with
      | [] => .jump v.s (bmwNoMatch v pairs)
      | [g] => .jump v.s g.2
      | g :: r =>
        if !v.s.resultsWritten v.uid then .wait v.s .results
        else
          let stay := largestGroup g r
          .jump (((g :: r).filter fun x => x ≠ stay).foldl (fun s x => v.detach s x.1 fun u => u.endClause x.2 v.s.now) v.s) stay.2) s

/-! ## Reconvergence (R56, R57) -/

/-- `rcv` (R353): the join clause and the call depth pushed. -/
def execRcv (off : Nat) (s : State) : Out :=
  issue (.rcv off) (fun v =>
    if 32 ≤ v.u.rstack.length then rstackTrap v
    else
      let (s, id) := v.s.fresh
      .next (s.updUnit v.uid fun u =>
        { u with rstack := ⟨id, target u.pc 20 off, u.cstack.length⟩ :: u.rstack })) s

/-- `join` (R326): parks the unit; the last arrival of the group merges it (DEDUCED, log entry 14). -/
def execJoin (s : State) : Out :=
  issueWith .join (fun v => { illegal := if v.u.idx ≠ 1 then some 7 else none }) (fun v => match v.u.rstack with
      | [] => rstackTrap v
      | e :: _ =>
        if e.join ≠ v.u.pc ∨ e.depth ≠ v.u.cstack.length then rstackTrap v
        else if logFull v 1 then logTrap v
        else if !v.s.resultsWritten v.uid then .wait v.s .results
        else
          let n := if (v.s.ctx v.ctx).logFlag 2 then 1 else 0
          let s := v.s.updUnit v.uid fun u => { u.issued v.s.now with
            park := .join e.id, parkedAt := v.s.now, seated := false, resv := u.resv + n }
          let s := if n = 0 then s else s.updCtx v.ctx fun c => { c with reserved := c.reserved + n }
          .placed (s.tryMerge v.pid e.id)) s

/-! ## Ends, traps and returns -/

/-- The lanes of the unit's whole domain whose open batch cannot be sealed yet (R163). -/
def blockedLanes (v : View) (m : Mask) : List Nat :=
  (openLanes v.p m).filter fun l => 8 ≤ v.s.sealedOf v.pid l

/-- `exit` (R311): releases, seals the domain's batches, and ends the unit. -/
def execExit (s : State) : Out :=
  issueWith .exit (fun v => { illegal := if v.u.level = .save ∨ v.u.level = .resume then some 7 else none })
    (fun v => v.release fun s =>
      if v.u.level = .watchdog then .placed (s.terminate v.ctx (v.u.ecause.toNat % 256) v.u.epc.toNat)
      else if blockedLanes v v.u.domain ≠ [] then .wait s (.seal (blockedLanes v v.u.domain))
      else .placed ((s.sealLanes v.uid v.pid v.ctx v.core (openLanes v.p v.u.domain)).endUnit v.uid)) s

/-- `nop` (R347). -/
def execNop (s : State) : Out := issue .nop (fun v => .next v.s) s

/-- `trap k` (R236, R368): UTRAP with efd = k. -/
def execTrap (k : Nat) (s : State) : Out := issue (.trap k) (fun v => v.raise 0x11 v.E k 0) s

/-- `sys k` (R236, R368): SYSCALL with efd = k. -/
def execSys (k : Nat) (s : State) : Out := issue (.sys k) (fun v => v.raise 0x12 v.E k 0) s

/-- `brk` (R236, R368): BREAK. -/
def execBrk (s : State) : Out := issue .brk (fun v => v.raise 0x14 v.E 0 0) s

/-- A pane's save routine has ended (step 4 of R237): its routine unit is gone, and the baton leaves it. -/
def State.savePane (s : State) (uid pid core : Nat) : State :=
  ((s.setUnits (s.units.del uid)).updPane pid fun p => { p with saved := true }).releaseBaton core pid

/-- `eret` (R309, R310): leaves the innermost handler level; a held LOGFULL waits at the resumed point, behind a deferred FPX whose
handler comes first. At the end of a save routine its stores are performed first (R158, R237) (DEDUCED, log entry 38). -/
def execEret (s : State) : Out :=
  issueWith .eret (fun v => { illegal := if v.u.level = .none then some 7 else none }) (fun v => match v.u.level with
    | .watchdog | .resume => .placed (v.s.terminate v.ctx (v.u.ecause.toNat % 256) v.u.epc.toNat)
    | .save => if !v.s.allPerformed v.uid then .wait v.s .performed else .placed (v.s.savePane v.uid v.pid v.core)
    | _ =>
      let s := (v.s.updUnit v.uid fun u => u.issued v.s.now).leaveHandler v.uid
      .placed (if v.u.logHeld then s.updUnit v.uid fun u => if u.dueDeferred.isSome then u else { u with
          defer := u.defer ++ [⟨0x0E, 0, 0, 0, u.xm, 0, v.s.now⟩] } else s)) s

end Sys2Proof.Machine
end

