-- ==== Sys2Proof/Machine/FloatOps.lean ====
section
/-! DEFINITION. Vector floating-point meanings: majors 0x08 to 0x0B (R72 to R74, R312 to R315). -/

namespace Sys2Proof.Machine

/-! ## Shared forms -/

/-- The mode of the pane at issue (R44). -/
abbrev View.mode (v : View) : FMode := FMode.ofWord v.p.fmode

/-- The loop of R313: each slot's sub-elements by `op`, then FPX or the results and flags. -/
def fpEach (i : Instr) (t : FType) (d : Opnd) (op : Nat → Nat → FRes) (v : View) : Act :=
  v.finishFp i d ((v.slots i).map fun q =>
    let r := joinSubs (fbits t) ((List.range (64 / fbits t)).map fun e => op q e)
    ⟨q, w64 r.1, r.2⟩)

/-- A binary operation of R313. -/
def fp2 (i : Instr) (t : FType) (f : Fmt → FMode → Nat → Nat → FRes) (d a b : Opnd) (v : View) : Act :=
  fpEach i t d (fun q e => f (Fmt.ofType t) v.mode (sub (fbits t) e (v.rd i a q)) (sub (fbits t) e (v.rd i b q))) v

/-- A unary operation of R313. -/
def fp1 (i : Instr) (t : FType) (f : Fmt → FMode → Nat → FRes) (d a : Opnd) (v : View) : Act :=
  fpEach i t d (fun q e => f (Fmt.ofType t) v.mode (sub (fbits t) e (v.rd i a q))) v

/-- A fused operation of R313, with d read first. -/
def fp3 (i : Instr) (t : FType) (negP negD : Bool) (d a b : Opnd) (v : View) : Act :=
  fpEach i t d (fun q e => fpFma (Fmt.ofType t) v.mode negP negD (sub (fbits t) e (v.rd i a q))
    (sub (fbits t) e (v.rd i b q)) (sub (fbits t) e (v.rd i d q))) v

/-- A bit operation's result: no flag. -/
def bitRes (c : Nat) : FRes := ⟨c, 0, false⟩

/-- The sign bit of a format's code as a number. -/
def Fmt.signBit (f : Fmt) : Nat := 2 ^ (f.eb + f.fb)

/-! ## Majors 0x08 and 0x09 -/

/-- `fadd` (R72, R313). -/
def execFadd (t : FType) (d a b : Opnd) (s : State) : Out :=
  issue (.fadd t d a b) (fp2 (.fadd t d a b) t (fun f m x y => fpAdd f m false x y) d a b) s

/-- `fsub` (R72, R313). -/
def execFsub (t : FType) (d a b : Opnd) (s : State) : Out :=
  issue (.fsub t d a b) (fp2 (.fsub t d a b) t (fun f m x y => fpAdd f m true x y) d a b) s

/-- `fmul` (R72, R313). -/
def execFmul (t : FType) (d a b : Opnd) (s : State) : Out :=
  issue (.fmul t d a b) (fp2 (.fmul t d a b) t fpMul d a b) s

/-- `ffma` (R72, R313): a × b + d, one rounding. -/
def execFfma (t : FType) (d a b : Opnd) (s : State) : Out :=
  issue (.ffma t d a b) (fp3 (.ffma t d a b) t false false d a b) s

/-- `ffms` (R72, R313): a × b − d, one rounding. -/
def execFfms (t : FType) (d a b : Opnd) (s : State) : Out :=
  issue (.ffms t d a b) (fp3 (.ffms t d a b) t false true d a b) s

/-- `fnma` (R72, R313): −(a × b) + d, one rounding. -/
def execFnma (t : FType) (d a b : Opnd) (s : State) : Out :=
  issue (.fnma t d a b) (fp3 (.fnma t d a b) t true false d a b) s

/-- `fmin` (R72, R313): minimumNumber. -/
def execFmin (t : FType) (d a b : Opnd) (s : State) : Out :=
  issue (.fmin t d a b) (fp2 (.fmin t d a b) t (fun f m x y => fpMinMax f m false x y) d a b) s

/-- `fmax` (R72, R313): maximumNumber. -/
def execFmax (t : FType) (d a b : Opnd) (s : State) : Out :=
  issue (.fmax t d a b) (fp2 (.fmax t d a b) t (fun f m x y => fpMinMax f m true x y) d a b) s

/-- `fabs` (R72): the sign bit cleared. -/
def execFabs (t : FType) (d a : Opnd) (s : State) : Out :=
  issue (.fabs t d a) (fp1 (.fabs t d a) t (fun f _ x => bitRes (x % f.signBit)) d a) s

/-- `fneg` (R72): the sign bit inverted. -/
def execFneg (t : FType) (d a : Opnd) (s : State) : Out :=
  issue (.fneg t d a) (fp1 (.fneg t d a) t (fun f _ x => bitRes (x ^^^ f.signBit)) d a) s

/-- `fscl` (R72, R313): b is a signed integer of the element width, never flushed. -/
def execFscl (t : FType) (d a b : Opnd) (s : State) : Out :=
  issue (.fscl t d a b) (fp2 (.fscl t d a b) t (fun f m x y => fpScl f m x (signed (fbits t) y)) d a b) s

/-- `frnd` (R72, R313): rounded to an integral value under RM. -/
def execFrnd (t : FType) (d a : Opnd) (s : State) : Out :=
  issue (.frnd t d a) (fp1 (.frnd t d a) t fpRnd d a) s

/-- `fclass` (R72): the class bits, zero-extended into the element. -/
def execFclass (t : FType) (d a : Opnd) (s : State) : Out :=
  issue (.fclass t d a) (fp1 (.fclass t d a) t (fun f _ x => bitRes (fpClass f x)) d a) s

/-- `fcpys` (R72): magnitude of a, sign of b. -/
def execFcpys (t : FType) (d a b : Opnd) (s : State) : Out :=
  issue (.fcpys t d a b)
    (fp2 (.fcpys t d a b) t (fun f _ x y => bitRes (x % f.signBit + y / f.signBit * f.signBit)) d a b) s

/-! ## Comparison (R73, R314) -/

/-- `fcmp` (R314): sub-element [0] decides the bit of each active position. -/
def execFcmp (c : FCond) (t : FType) (p : Nat) (a b : Opnd) (s : State) : Out :=
  let i := Instr.fcmp c t p a b
  issue i (fun v =>
    let r := fun q => fpCmp (Fmt.ofType t) v.mode c (sub (fbits t) 0 (v.rd i a q)) (sub (fbits t) 0 (v.rd i b q))
    let rs := (positions v.E).map fun q => SlotRes.mk q 0 (r q).2
    if allFlags rs &&& v.mode.te ≠ 0 then fpxTrap v .vec v.mode.te rs
    else .next (v.withPane ((v.p.setPred p v.E (maskOf ((positions v.E).filter fun q => (r q).1))).orFstat
      (allFlags rs)))) s

/-! ## Conversion (R74, R315) -/

/-- Source width, destination width, and the conversion of one sub-element (R74 Table 4). -/
def cvtOp (c : CvtCode) : Nat × Nat × (FMode → Nat → FRes) :=
  match c with
  | .f32f64 => (64, 32, fun m x => fpConv .f64 .f32 m x)
  | .f64f32 => (32, 64, fun m x => fpConv .f32 .f64 m x)
  | .bf16f32 => (32, 16, fun m x => fpConv .f32 .bf16 m x)
  | .f32bf16 => (16, 32, fun m x => fpConv .bf16 .f32 m x)
  | .f16f32 => (32, 16, fun m x => fpConv .f32 .f16 m x)
  | .f32f16 => (16, 32, fun m x => fpConv .f16 .f32 m x)
  | .e4m3sat => (32, 8, fun m x => fpE4m3 m false x)
  | .e4m3nan => (32, 8, fun m x => fpE4m3 m true x)
  | .f32e4m3 => (8, 32, fun m x => fpConv .e4m3 .f32 m x)
  | .e5m2f32 => (32, 8, fun m x => fpConv .f32 .e5m2 m x)
  | .f32e5m2 => (8, 32, fun m x => fpConv .e5m2 .f32 m x)
  | .i64f64 => (64, 64, fun m x => fpToInt .f64 m true 64 x)
  | .f64i64 => (64, 64, fun m x => fpOfInt .f64 m (signed 64 x))
  | .ui64f64 => (64, 64, fun m x => fpToInt .f64 m false 64 x)
  | .f64ui64 => (64, 64, fun m x => fpOfInt .f64 m x)
  | .i32f32 => (32, 32, fun m x => fpToInt .f32 m true 32 x)
  | .f32i32 => (32, 32, fun m x => fpOfInt .f32 m (signed 32 x))
  | .i32f64 => (64, 32, fun m x => fpToInt .f64 m true 32 x)
  | .f32i8x8 => (8, 32, fun m x => fpOfInt .f32 m (signed 8 x))
  | .q4f32 => (32, 4, fun m x => fpToQ4 m x)

/-- The converted sub-elements from number `lo` on, joined (R74). -/
def cvtCopy (c : CvtCode) (m : FMode) (lo : Nat) (a : Word) : Nat × Nat :=
  let (sw, dw, f) := cvtOp c
  joinSubs dw ((List.range (min (64 / sw) (64 / dw))).map fun e => f m (sub sw (lo + e) a))

/-- `fcvt` (R74, R315); code 18 writes d and d + 1. -/
def execFcvt (c : CvtCode) (d a : Opnd) (s : State) : Out :=
  let i := Instr.fcvt c d a
  issue i (fun v =>
    let res := fun lo => (v.slots i).map fun q => let r := cvtCopy c v.mode lo (v.rd i a q); SlotRes.mk q (w64 r.1) r.2
    if c = .f32i8x8 then
      let ws := ((res 0).map fun r => (rkey d.code r.slot, r.val)) ++
        ((res 2).map fun r => (rkey (d.code + 1) r.slot, r.val))
      .next (v.cleaned (v.withPane (v.p.writeKeys ws)) (ws.map Prod.fst))
    else v.finishFp i d (res 0)) s

end Sys2Proof.Machine
end

