-- ==== Sys2Proof/Machine/CrossLane.lean ====
section
/-! DEFINITION. Member-dimension and cross-lane meanings: majors 0x0E and 0x0F (R335, R336, R343, R344). -/

namespace Sys2Proof.Machine

/-! ## Reductions over a list of values -/

/-- The reduction of a form. -/
inductive RedOp where
  | add | min | max | spr
deriving DecidableEq, Repr

/-- The exact sum of values that are finite, as a signed dyadic. -/
def sumFin (vs : List FV) : Int × Int :=
  vs.foldl (fun a v => match v with
    | .fin ng mm e => dyAdd a.1 a.2 (sgnM ng mm) e
    | _ => a) (0, 0)

/-- The sign of an exact zero sum (R336): that of every value when all are zeros of one sign, else by RM. -/
def sumZeroSign (rm : RMode) (vs : List FV) : Bool :=
  let zero := fun (s : Bool) (v : FV) => match v with
    | .fin ng mm _ => mm == 0 && ng == s
    | _ => false
  if vs.all (zero true) then true else if vs.all (zero false) then false else decide (rm = .rdn)

/-- Reduce of add (R336): the exact sum rounded once; the first NaN in list order. -/
def redAdd (f : Fmt) (m : FMode) (xs0 : List Nat) : FRes :=
  let xs := xs0.map (f.input m)
  let ins := xs.map fun c => (f, c)
  let vs := xs.map f.val
  if xs.any f.isNaN then ⟨nanOf f m ins, snanFlag ins, false⟩
  else if vs.contains (.inf false) then
    if vs.contains (.inf true) then ⟨f.canon, flINV, false⟩ else ⟨f.infCode false, 0, false⟩
  else if vs.contains (.inf true) then ⟨f.infCode true, 0, false⟩
  else
    let (v, e) := sumFin vs
    f.roundInt m.rm m.flushOut (sumZeroSign m.rm vs) v e

/-- The minimumNumber or maximumNumber of a list, −0 below +0 (R336). -/
def redMinMax (f : Fmt) (m : FMode) (mx : Bool) (xs : List Nat) : FRes :=
  let ins := xs.map fun c => (f, c)
  match xs.filter fun c => !f.isNaN c with
  | [] => ⟨nanOf f m ins, snanFlag ins, false⟩
  | x :: r => ⟨r.foldl (fun a b => if ltV true (f.val b) (f.val a) != mx then b else a) x, snanFlag ins, false⟩

/-- Max − Min of a list, one rounding (R344). -/
def redSpr (f : Fmt) (m : FMode) (xs : List Nat) : FRes :=
  if xs.all f.isNaN then ⟨f.canon, snanFlag (xs.map fun c => (f, c)), false⟩
  else
    let hi := redMinMax f m true xs
    let lo := redMinMax f m false xs
    let r := fpAdd f m true hi.code lo.code
    { r with flags := r.flags ||| hi.flags ||| lo.flags }

/-- A reduction of integers of n bits: add and Max − Min wrap, min and max are signed (R336, R344). -/
def redInt (n : Nat) (op : RedOp) (xs : List Nat) : Nat :=
  let vs := xs.map (signed n)
  let hi := vs.foldl max (vs.headD 0)
  let lo := vs.foldl min (vs.headD 0)
  wrap n (match op with
    | .add => vs.foldl (· + ·) 0
    | .min => lo
    | .max => hi
    | .spr => hi - lo)

/-- A reduction of one type's sub-elements. -/
def redSub (op : RedOp) (t : RType) (m : FMode) (xs : List Nat) : FRes :=
  let fl := fun (f : Fmt) => match op with
    | .add => redAdd f m xs
    | .min => redMinMax f m false xs
    | .max => redMinMax f m true xs
    | .spr => redSpr f m xs
  match t with
  | .f64 => fl .f64
  | .f32 => fl .f32
  | .i64 => ⟨redInt 64 op xs, 0, false⟩
  | .i32 => ⟨redInt 32 op xs, 0, false⟩

/-- A reduction of whole copies, sub-element by sub-element: value and flags. -/
def redCopies (op : RedOp) (t : RType) (m : FMode) (xs : List Word) : Nat × Nat :=
  joinSubs (rbits t) ((List.range (64 / rbits t)).map fun e => redSub op t m (xs.map fun x => sub (rbits t) e x))

/-- The format of a floating-point reduction type. -/
def redFmt : RType → Option Fmt
  | .f64 => some .f64 | .f32 => some .f32 | _ => none

/-! ## Participants -/

/-- The active positions of a lane, in ascending member (R344). -/
def memberOf (E : Mask) (l : Nat) : List Nat :=
  ((List.range 8).map fun m => posOf l m).filter fun q => bitAt E q

/-- The indices whose values take part with slot q of a cross-lane instruction, in ascending lane (R336). -/
def laneMates (c : Cls) (E : Mask) (q : Nat) : List Nat :=
  match c with
  | .vec => ((List.range 32).map fun l => posOf l (q / 32)).filter fun p => bitAt E p
  | _ => slotsOf .shr E

/-- A lane or position lies in the unit's domain. -/
def inDomain (c : Cls) (D : Mask) (q : Nat) : Bool :=
  match c with
  | .vec => bitAt D q
  | _ => (slotsOf .shr D).contains q

/-- Slot results of a reduction over the indices `src` gives each slot. -/
def reduceSlots (v : View) (i : Instr) (op : RedOp) (t : RType) (a : Opnd) (src : Nat → List Nat) : List SlotRes :=
  (v.slots i).map fun q =>
    let r := redCopies op t v.mode ((src q).map fun p => v.rd i a p)
    ⟨q, w64 r.1, r.2⟩

/-- `mred` and `mspr` (R344): each lane's active members. -/
def memberReduce (i : Instr) (op : RedOp) (t : RType) (d a : Opnd) (v : View) : Act :=
  v.finishFp i d (reduceSlots v i op t a fun q => memberOf v.E (q % 32))

/-- `lred` (R336): the participating lanes. -/
def laneReduce (i : Instr) (op : RedOp) (t : RType) (d a : Opnd) (v : View) : Act :=
  v.finishFp i d (reduceSlots v i op t a fun q => laneMates i.cls v.E q)

/-- Src of R344: the value at (l, k), 0 outside the domain; a narrower a is a plain copy. -/
def memberSrc (v : View) (i : Instr) (a : Opnd) (q k : Nat) : Word :=
  if a.code < 64 then
    let p := posOf (q % 32) k
    if bitAt v.u.domain p then v.rd i a p else 0
  else v.rd i a q

/-- Src of R336: lane k of the slot's member, 0 outside the domain. -/
def laneSrc (v : View) (i : Instr) (a : Opnd) (q k : Nat) : Word :=
  let p := if i.cls = .vec then posOf k (q / 32) else k
  if inDomain i.cls v.u.domain p then v.rd i a p else 0

/-! ## Major 0x0E -/

/-- `mbc` (R344): one member's value to every active member of the lane. -/
def execMbc (d a b : Opnd) (s : State) : Out :=
  let i := Instr.mbc d a b
  issue i (fun v => .next (v.writeD i d fun q => memberSrc v i a q ((v.rd i b 0).toNat % v.M))) s

/-- `mshf` (R344): each position's own choice of member. -/
def execMshf (d a b : Opnd) (s : State) : Out :=
  let i := Instr.mshf d a b
  issue i (fun v => .next (v.writeD i d fun q => memberSrc v i a q ((v.rd i b q).toNat % v.M))) s

/-- `mred.add` (R344). -/
def execMredAdd (t : RType) (d a : Opnd) (s : State) : Out :=
  issue (.mredAdd t d a) (memberReduce (.mredAdd t d a) .add t d a) s
/-- `mred.min` (R344). -/
def execMredMin (t : RType) (d a : Opnd) (s : State) : Out :=
  issue (.mredMin t d a) (memberReduce (.mredMin t d a) .min t d a) s
/-- `mred.max` (R344). -/
def execMredMax (t : RType) (d a : Opnd) (s : State) : Out :=
  issue (.mredMax t d a) (memberReduce (.mredMax t d a) .max t d a) s
/-- `mspr` (R344): Max − Min. -/
def execMspr (t : RType) (d a : Opnd) (s : State) : Out :=
  issue (.mspr t d a) (memberReduce (.mspr t d a) .spr t d a) s

/-- x stands before y in the order of `msort` (R344). -/
def sortBefore (t : RType) (x y : Nat) : Bool :=
  match redFmt t with
  | none => decide (signed (rbits t) x < signed (rbits t) y)
  | some f => !f.isNaN x && (f.isNaN y || ltV true (f.val x) (f.val y))

/-- A value put behind every value that it does not precede. -/
def insertSorted (t : RType) (x : Nat) : List Nat → List Nat
  | [] => [x]
  | y :: r => if sortBefore t x y then x :: y :: r else y :: insertSorted t x r

/-- The stable ascending sort of `msort`. -/
def sortVals (t : RType) (xs : List Nat) : List Nat := xs.foldl (fun a x => insertSorted t x a) []

/-- INV for a signalling NaN among sub-elements (R336, R344). -/
def snanSub (t : RType) (xs : List Nat) : Nat :=
  match redFmt t with
  | none => 0
  | some f => snanFlag (xs.map fun c => (f, c))

/-- `msort` (R344): each lane's values sorted into its active members, sub-element by sub-element. -/
def execMsort (t : RType) (d a : Opnd) (s : State) : Out :=
  let i := Instr.msort t d a
  let w := rbits t
  issue i (fun v => v.finishFp i d ((v.slots i).map fun q =>
    let ps := memberOf v.E (q % 32)
    let rank := (ps.filter fun p => p < q).length
    let r := joinSubs w ((List.range (64 / w)).map fun e =>
      let xs := ps.map fun p => sub w e (v.rd i a p)
      ⟨(sortVals t xs).getD rank 0, snanSub t xs, false⟩)
    ⟨q, w64 r.1, r.2⟩)) s

/-- One element of `mrank` (R344): how many values that are not NaN lie below y; all ones for a NaN y. -/
def rankSub (t : RType) (xs : List Nat) (y : Nat) : FRes :=
  match redFmt t with
  | none => ⟨(xs.filter fun x => decide (signed (rbits t) x < signed (rbits t) y)).length, 0, false⟩
  | some f =>
    ⟨if f.isNaN y then 2 ^ rbits t - 1 else (xs.filter fun x => !f.isNaN x && ltV false (f.val x) (f.val y)).length,
      snanSub t (xs ++ [y]), false⟩

/-- `mrank` (R344). -/
def execMrank (t : RType) (d a b : Opnd) (s : State) : Out :=
  let i := Instr.mrank t d a b
  let w := rbits t
  issue i (fun v => v.finishFp i d ((v.slots i).map fun q =>
    let r := joinSubs w ((List.range (64 / w)).map fun e =>
      rankSub t ((memberOf v.E (q % 32)).map fun p => sub w e (v.rd i a p)) (sub w e (v.rd i b q)))
    ⟨q, w64 r.1, r.2⟩)) s

/-! ## Major 0x0F -/

/-- `lshf` (R336): each slot's own choice of lane. -/
def execLshf (d a b : Opnd) (s : State) : Out :=
  let i := Instr.lshf d a b
  issue i (fun v => .next (v.writeD i d fun q => laneSrc v i a q ((v.rd i b q).toNat % 32))) s

/-- `lbc` (R336): one lane's value to every slot. -/
def execLbc (d a b : Opnd) (s : State) : Out :=
  let i := Instr.lbc d a b
  issue i (fun v => .next (v.writeD i d fun q => laneSrc v i a q ((v.rd i b 0).toNat % 32))) s

/-- `lred.add` (R336). -/
def execLredAdd (t : RType) (d a : Opnd) (s : State) : Out :=
  issue (.lredAdd t d a) (laneReduce (.lredAdd t d a) .add t d a) s
/-- `lred.min` (R336) (DEDUCED, log entry 20). -/
def execLredMin (t : RType) (d a : Opnd) (s : State) : Out :=
  issue (.lredMin t d a) (laneReduce (.lredMin t d a) .min t d a) s
/-- `lred.max` (R336). -/
def execLredMax (t : RType) (d a : Opnd) (s : State) : Out :=
  issue (.lredMax t d a) (laneReduce (.lredMax t d a) .max t d a) s

/-- `lscan` (R336): the sum of the participating lanes up to the slot's own. -/
def execLscan (t : RType) (d a : Opnd) (s : State) : Out :=
  let i := Instr.lscan t d a
  issue i (fun v => v.finishFp i d (reduceSlots v i .add t a fun q =>
    (laneMates i.cls v.E q).filter fun p => p % 32 ≤ q % 32)) s

end Sys2Proof.Machine
end

