-- ==== Sys2Proof/Machine/Engines.lean ====
section
/-! DEFINITION. The command queues (R165, R352), the halo engine (R167), the collective engine (R168, R169, R375) and
completion words (R166). Rows HALO_COMMAND_COMPLETE, COLLECTIVE_COMMAND_COMPLETE, COLLECTIVE_PARTIAL_STATE. -/

namespace Sys2Proof.Machine

/-! ## Fields -/

/-- Words of a command of staging register q (R352). -/
def cmdLength (q : Nat) : Nat := if q < 2 then 5 else 6

/-- An OP allowed on staging register q (R167, R169). -/
def opAllowed (q w0 : Nat) : Bool :=
  let op := bits w0 56 8
  if q < 2 then op == 1 else decide (0x10 ≤ op) && decide (op ≤ 0x16)

/-- The reason of a command's field fault (R165): 3 for a must-be-0 field, 7 for another value out of range (DEDUCED, log
entry 27). -/
def fieldFault (q : Nat) (ws : List Nat) : Option Nat :=
  let w := wordAt ws
  if q < 2 then
    let scr := fun (on buf : Nat) => bits (w 0) on 1 == 1 && bits (w 0) buf 5 != 0
    if bits (w 0) 32 10 != 0 || scr 45 51 || scr 44 46 || bits (w 2) 48 16 != 0 || bits (w 4) 48 10 != 0 then some 3
    else if bits (w 0) 0 32 < 4 ∨ 2 ^ 20 < bits (w 0) 0 32 ∨ bits (w 0) 0 32 % 4 ≠ 0 then some 7
    else none
  else
    if bits (w 0) 0 43 != 0 || bits (w 1) 42 6 != 0 || bits (w 1) 30 2 != 0 || bits (w 1) 10 10 != 0 ||
      bits (w 3) 48 16 != 0 || bits (w 5) 48 10 != 0 then some 3
    else if bits (w 4) 32 32 = 0 ∨ 65536 < bits (w 4) 32 32 ∨ 4095 < bits (w 2) 48 16 then some 7
    else none

/-! The fields of a command. -/

namespace Command
def w (c : Command) (i : Nat) : Nat := wordAt c.words i
def src (c : Command) : BitVec 256 := c.recs.getD 0 0
def dst (c : Command) : BitVec 256 := c.recs.getD 1 0
def cwRec (c : Command) : BitVec 256 := c.recs.getD 2 0
def obs (c : Command) : BitVec 256 := c.recs.getD 3 0
def cwWord (c : Command) : Nat := c.w (if c.q < 2 then 4 else 5)
-- halo
def rows (c : Command) : Nat := bits (c.w 1) 48 16 + 1
def rowBytes (c : Command) : Nat := bits (c.w 0) 0 32
def srcScr (c : Command) : Bool := bits (c.w 0) 45 1 == 1
def dstScr (c : Command) : Bool := bits (c.w 0) 44 1 == 1
def srcIdx (c : Command) (r : Nat) : Nat := bits (c.w 1) 0 48 + r * bits (c.w 3) 0 32
def dstIdx (c : Command) (r : Nat) : Nat := bits (c.w 2) 0 48 + r * bits (c.w 3) 32 32
-- collective
def op (c : Command) : Nat := bits (c.w 0) 56 8
def all (c : Command) : Bool := bits (c.w 0) 45 1 == 1
def rm (c : Command) : RMode := RMode.ofCode (bits (c.w 0) 43 2)
def tag (c : Command) : Nat := bits (c.w 1) 48 16
def root (c : Command) : Nat := bits (c.w 1) 32 10
def first (c : Command) : Nat := bits (c.w 1) 20 10
def nodes (c : Command) : Nat := bits (c.w 1) 0 10 + 1
def C (c : Command) : Nat := bits (c.w 2) 48 16 + 1
def sidx (c : Command) : Nat := bits (c.w 2) 0 48
def didx (c : Command) : Nat := bits (c.w 3) 0 48
def N (c : Command) : Nat := bits (c.w 4) 32 32
def param (c : Command) : Nat := bits (c.w 4) 0 32
/-- Every contribution of the group to one element (R169). -/
def T (c : Command) : Nat := c.C * c.nodes
/-- Bytes of one contribution. -/
def wid (c : Command) : Nat := if c.op = 0x11 then 576 else 8
/-- Result words or images from index DIDX up (R169). -/
def results (c : Command) : Nat :=
  if c.op = 0x14 then 3 * c.N else if c.op = 0x15 then c.T + 2 else c.N
/-- What every node must give alike (R168). -/
def head (c : Command) : List Nat :=
  [c.op, c.first, c.nodes, c.root, c.C, c.N, bits (c.w 0) 43 2, if c.all then 1 else 0, c.param]
def inGroup (c : Command) (n : Nat) : Bool := decide (c.first ≤ n) && decide (n < c.first + c.nodes)
/-- The other nodes of the group. -/
def peers (c : Command) (me : Nat) : List Nat :=
  ((List.range c.nodes).map fun k => c.first + k).filter fun n => n ≠ me
/-- PARAM bits outside Table 3, or P above 65,536 (DEDUCED, log entry 28). -/
def badParam (c : Command) : Bool :=
  if c.op = 0x15 then decide (32 ≤ c.param) else if c.op = 0x16 then decide (65536 < c.param) else c.param != 0
end Command

/-! ## Submission (R165, R166) -/

/-- Members a halo command runs for: each of the pane's through a per-member record, else once (R167). -/
def Command.members (c : Command) : List Nat :=
  if (!c.srcScr && BufRec.mmode c.src == 1) || (!c.dstScr && BufRec.mmode c.dst == 1) then List.range c.M else [0]

/-- One element per (member, row) of a side, all naming the pane's positions. -/
def Command.rowElems (c : Command) (r : BitVec 256) (idx : Nat → Nat) : List Elem :=
  c.members.flatMap fun m => (List.range c.rows).map fun k =>
    ⟨m * 65536 + k, c.mask, elemAddr r (idx k) (c.gm * c.M + m)⟩

/-- BOUNDS of a scratch side (R130). -/
def Command.scratchOut (c : Command) (size : Nat) (idx : Nat → Nat) : Bool :=
  (List.range c.rows).any fun k => decide (2 ^ 32 ≤ idx k) || decide (size < idx k + c.rowBytes)

/-- One side of a halo command checked (DEDUCED, log entry 27). -/
def haloSide (v : View) (c : Command) (scr : Bool) (n : Nat) (r : BitVec 256) (k : Perm) (idx : Nat → Nat) : Option Trap :=
  if scr then (if c.scratchOut v.l.scr idx then some (boundsTrap 0 0 c.mask 0) else none)
  else checkElems v.s.dev n r k 1 c.mask (c.rowElems r idx)

/-- The completion word's checks (R166): AT, 8-byte alignment, and PROT of its translation (DEDUCED, log entry 27). -/
def cwTrap (v : View) (c : Command) : Option Trap :=
  if bits c.cwWord 63 1 = 0 then none
  else
    let n := bits c.cwWord 58 5
    match checkElems v.s.dev n c.cwRec .at_ 8 c.mask [⟨0, c.mask, elemAddr c.cwRec (bits c.cwWord 0 48) (c.gm * c.M)⟩] with
    | some t => some t
    | none => match c.cw with
      | none => none
      | some a =>
        if (remoteNode v.s.dev c.cwRec).isSome then none
        else
          let f := v.s.locate v.ctx .atomic [⟨c.mask, a, 8, 0, 0, [], false⟩]
          pickTrap ((f.traps ++ refusals v.s.dev (.atom .add .i64 false) f.locs).filter fun t => t.1 = causePROT) false

/-- The elements of a collective record. -/
def collElems (c : Command) (r : BitVec 256) (lo n : Nat) : List Elem :=
  ((List.range n).map fun k => lo + k).map fun k => ⟨k, c.mask, elemAddr r k (c.gm * c.M)⟩

/-- The checks of a collective command's records (R127, R168). -/
def collTrap (v : View) (c : Command) : Option Trap :=
  if BufRec.mmode c.src = 1 ∨ BufRec.mmode c.dst = 1 then some { cause := 4, mask := c.mask }
  else
    let chk := fun (n : Nat) (r : BitVec 256) (k : Perm) (w lo m : Nat) =>
      checkElems v.s.dev n r k (min w 64) c.mask (collElems c r lo m)
    match chk (bits (c.w 0) 51 5) c.src .rd c.wid c.sidx (c.C * c.N) with
    | some t => some t
    | none => match chk (bits (c.w 0) 46 5) c.dst .wr c.wid c.didx c.results with
      | some t => some t
      | none =>
        if c.op = 0x15 ∧ c.root = v.s.dev.node ∧ !c.badParam then chk (c.param % 32) c.obs .rd 8 0 c.N else none

/-- What a submission's records fail with (R165, R166). -/
def submitTrap (v : View) (c : Command) : Option Trap :=
  let body := if c.q < 2 then
      (match haloSide v c c.srcScr (bits (c.w 0) 51 5) c.src .rd c.srcIdx with
      | some t => some t
      | none => haloSide v c c.dstScr (bits (c.w 0) 46 5) c.dst .wr c.dstIdx)
    else collTrap v c
  match body with
  | some t => some t
  | none => cwTrap v c

/-- The words staged in a register of the pane. -/
def View.staged (v : View) (q : Nat) : List Nat := (v.p.staging.getD q []).map fun (w : Word) => w.toNat

/-- The command that a register's words form. -/
def View.command (v : View) (q : Nat) (ws : List Nat) : Command :=
  let cwWord := wordAt ws (if q < 2 then 4 else 5)
  let cwRec := v.p.buf (bits cwWord 58 5)
  { q := q
    words := ws
    recs := [v.p.buf (bits (wordAt ws 0) 51 5), v.p.buf (bits (wordAt ws 0) 46 5), cwRec, v.p.buf (wordAt ws 4 % 32)]
    M := v.M
    gm := v.ca.gm
    cw := if bits cwWord 63 1 = 1 then elemAddr cwRec (bits cwWord 0 48) (v.ca.gm * v.M) else none
    mask := v.E }

/-- A staging register emptied. -/
def State.unstage (s : State) (pid q : Nat) : State := s.updPane pid fun p => { p with staging := p.staging.del q }

/-- The buffer registers whose records a command names (R165): those of its sides in memory, of a `rankh` at ROOT, and of the
completion word. -/
def Command.bufs (c : Command) (me : Nat) : List Nat :=
  (if c.q < 2 ∧ c.srcScr then [] else [bits (c.w 0) 51 5]) ++ (if c.q < 2 ∧ c.dstScr then [] else [bits (c.w 0) 46 5]) ++
    (if 2 ≤ c.q ∧ c.op = 0x15 ∧ c.root = me then [c.param % 32] else []) ++
    (if bits c.cwWord 63 1 = 1 then [bits c.cwWord 58 5] else [])

/-- ILLEGAL of a `qw`'s own value (R165): the first word's OP, then at the last word every field; a submission reads the records
it names (R264) (DEDUCED, log entry 16). -/
def qwEarly (i : Instr) (q : Nat) (a : Opnd) (v : View) : Early :=
  if i.illegal.isSome || (namedCodes i).any fun c => undeclared v.p v.l c || (hazardOn v c).isSome then {}
  else
    let ws := v.staged q ++ [v.scalar a]
    if ws.length = 1 then { illegal := if opAllowed q (v.scalar a) then none else some 2 }
    else if ws.length = cmdLength q then 
      { illegal := fieldFault q ws, undo := fun s => s.unstage v.pid q, bufs := (v.command q ws).bufs v.s.dev.node }
    else {}

/-- `qw` (R165, R352): a word staged; the last submits the command. -/
def execQw (q : Nat) (a : Opnd) (s : State) : Out :=
  let i := Instr.qw q a
  issueWith i (qwEarly i q a) (fun v =>
    let ws := v.staged q ++ [v.scalar a]
    if ws.length < cmdLength q then
      .next (v.withPane { v.p with staging := v.p.staging.put q (ws.map fun w => w64 w) })
    else
      let c := v.command q ws
      match submitTrap v c with
      | some t => .trap (v.s.unstage v.pid q) t
      | none =>
        if (if q < 2 then 32 else 16) ≤ v.s.cmdUse v.core q then .wait v.s (.command q)
        else
          let (s, id) := (v.s.unstage v.pid q).fresh
          .next (s.putPend ⟨id, v.uid, v.pid, v.ctx, v.core, v.u.pc, .other, 0, s.now, s.now + 64, false, 0,
            if q < 2 then .halo c [] [] 0 else .coll c [] [] [] 0⟩)) s

/-- `qr` (R165): free entries of the core's queue, and words staged. -/
def execQr (b : Opnd) (q : Nat) (s : State) : Out :=
  let i := Instr.qr b q
  issue i (fun v => .next (v.writeD i b fun _ =>
    w64 (((if q < 2 then 32 else 16) - v.s.cmdUse v.core q) * 256 + (v.staged q).length))) s

/-! ## Turns -/

/-- The staging register and tag of a command's work. -/
def Work.command : Work → Option Command
  | .halo c _ _ _ => some c
  | .coll c _ _ _ _ => some c
  | _ => Option.none

/-- A command goes before another that its register submitted later, or its tag's later instance (R165, R168). -/
def precedes (q p : Pend) : Bool :=
  match q.work.command, p.work.command with
  | some a, some b => decide (q.id < p.id) &&
      ((q.pane == p.pane && a.q == b.q) || (q.ctx == p.ctx && decide (2 ≤ a.q) && decide (2 ≤ b.q) && a.tag == b.tag))
  | _, _ => false

/-- A submission's turn: every earlier read of its unit has bound (R147), and no command precedes it. -/
def State.engineTurn (s : State) (p : Pend) : Bool :=
  decide (p.due ≤ s.now) && !p.held && (p.work.reqs.all fun q => q.answer.isSome) &&
    s.boundBefore p && s.pend.vals.all fun q => !precedes q p

/-! ## Completion words (R166) -/

/-- A command's failure written to the fault ring (R166, R229). -/
def State.commandFailed (s : State) (ctx code : Nat) (c : Command) : State :=
  s.record ctx [0x04 * 2 ^ 56 + code, c.cw.getD 0, 0, 0]

/-- The atomic request that carries a completion word through a peer or host window (R166: the atomics class), with its code. -/
def cwRequest (s : State) (ctx : Nat) (m : Mask) (code : Nat) (q : RPart) : RemReq :=
  let fails := if q.host then !q.bound else !reachable s.dev q.node
  let win := if fails then none else chooseWindow (s.ctx ctx) q.host q.node 2
  { line := q.line, addr := q.addr, mask := m, node := q.node, host := q.host, kind := .atomic
    window := win, charge := if win.isSome then 1 else 0, timeout := s.now + timeoutOf (s.ctx ctx) win
    answer := if fails then some (6, 0) else none, skip := q.skip, data := code }

/-- A completion word's request, or the command held back for room in its window. -/
def State.sendCw (s : State) (p : Pend) (c : Command) (code : Nat) (put : Nat → List RemReq → Work) (q : RPart) : State :=
  let r := cwRequest s p.ctx c.mask code q
  let x := (s.panes.find p.pane).getD (PaneSt.start 0 0 0 0)
  if (unfit (s.ctx p.ctx) x [r]).isSome then s.putPend { p with due := s.now + 1 }
  else
    let (s1, rs) := s.sendRequests p.pane [r]
    s1.putPend { p with work := put (64 + code) rs }

/-- THE COMPLETION WORD of a command whose payload is done (R166): translated as it is written (DEDUCED, log entry 27). -/
def State.finishCommand (s : State) (p : Pend) (c : Command) (code : Nat) (put : Nat → List (Nat × Nat) → List RemReq → Work) :
    State :=
  match c.cw with
  | none => s.dropPend p.id
  | some a =>
    match remoteNode s.dev c.cwRec with
    | some D => s.sendCw p c code (fun k rs => put k [] rs) ⟨a / 64, a % 2 ^ 41 / 64 * 64, a % 64, 8, D, false, true, none⟩
    | none =>
      let f := s.locate p.ctx .atomic [⟨c.mask, a, 8, 0, 0, [], false⟩]
      if f.busy.isSome then s.putPend { p with due := s.now + 64 }
      else if (f.traps ++ refusals s.dev (.atom .add .i64 false) f.locs) ≠ [] then (f.s.dropPend p.id).commandFailed p.ctx 7 c
      else match f.faults with
        | x :: r =>
          ((x :: r).foldl (fun s y => s.noteFault p.ctx p.core y.1 y.2 (accEngine ||| accAtomic)) f.s).putPend
            { p with held := true, work := put (32 + code) (x :: r) [] }
        | [] => match f.locs.flatMap Prod.snd with
          | [] => f.s.dropPend p.id
          | x :: _ =>
            if (frameOf s.dev x.pa).local then (f.s.dropPend p.id).writeCw p.ctx code x
            else f.s.sendCw p c code (fun k rs => put k [] rs) (partOf f.s p.ctx x)

/-- A payload's end: its failure recorded, then the completion word. -/
def State.endPayload (s : State) (p : Pend) (c : Command) (code : Nat) (put : Nat → List (Nat × Nat) → List RemReq → Work) :
    State :=
  let s1 := if code = 0 then s else s.commandFailed p.ctx code c
  if (s1.pend.find p.id).isNone then s1
  else (s1.putPend { p with work := put (32 + code) [] [] }).finishCommand { p with work := put (32 + code) [] [] } c code put

/-- A completion word's answer: a failure there is one more record (R166). -/
def State.cwAnswered (s : State) (p : Pend) (c : Command) : State :=
  let s1 := s.dropPend p.id
  if failedReqs p.work.reqs = [] then s1 else s1.commandFailed p.ctx 3 c

/-- Failure code of failed requests (R229): poisoned data, else remote (DEDUCED, log entry 28). -/
def remoteCode (fs : List RemReq) : Nat :=
  if fs = [] then 0 else if fs.any fun q => (q.answer.map Prod.fst).getD 0 = 5 then 5 else 3

/-! ## Row HALO_COMMAND_COMPLETE -/

/-- The copies of a halo command (R167): each row of each member whose two sides have an address. -/
def Command.copies (c : Command) : List CopyOp :=
  c.members.flatMap fun m => (List.range c.rows).filterMap fun r =>
    let side := fun (scr : Bool) (rec' : BitVec 256) (x : Nat) =>
      if scr then some x else elemAddr rec' x (c.gm * c.M + m)
    (side c.srcScr c.src (c.srcIdx r)).bind fun a => (side c.dstScr c.dst (c.dstIdx r)).map fun b =>
      ⟨c.mask, c.rowBytes, a, b, c.srcScr, c.dstScr, if c.srcScr then 0 else c.src, if c.dstScr then 0 else c.dst, .dev, false⟩

/-- Row HALO_COMMAND_COMPLETE (R166, R167): a visit of the halo engine. Phases: 4·code + k while rows move, 32 + code at the
completion word, 64 + code while its request is out. -/
def execHaloCommandComplete (id : Nat) (s : State) : Out :=
  match s.pend.find id with
  | none => .refused .notDue
  | some p =>
    match p.work with
    | .halo c _ rs ph =>
      let put := fun k pages rs => Work.halo c pages rs k
      if !s.engineTurn p then .refused .notDue
      else if 64 ≤ ph then .next (s.cwAnswered p c)
      else if 32 ≤ ph then .next (s.finishCommand p c (ph - 32) put)
      else match s.moveVisit (s.whoOf p) c.copies rs (ph % 4) with
        | .later s' => .next (s'.putPend { p with due := s.now + 64 })
        | .held s' pages => .next (s'.putPend { p with held := true, work := .halo c pages rs ph })
        | .sent s' traps rs' k =>
          .next (s'.putPend { p with work := .halo c [] rs' (k + 4 * (if traps = [] then ph / 4 else 7)) })
        | .done s' traps fails =>
          let code := if traps ≠ [] then 7 else max (ph / 4) (remoteCode fails)
          .next (s'.endPayload p c code put)
    | _ => .refused .notDue

/-! ## Collective values (R169) -/

/-- A total order of non-NaN FP64 codes with −0 below +0. -/
def f64Key (c : Nat) : Int := if bits c 63 1 = 1 then -(c % 2 ^ 63 : Nat) - 1 else (c % 2 ^ 63 : Nat)

/-- The order of values, −0 = +0. -/
def f64Val (c : Nat) : Int := if bits c 63 1 = 1 then -(c % 2 ^ 63 : Nat) else (c % 2 ^ 63 : Nat)

/-- A code put in its place in an ascending list. -/
def insertF64 (c : Nat) : List Nat → List Nat
  | [] => [c]
  | x :: r => if f64Key c ≤ f64Key x then c :: x :: r else x :: insertF64 c r

/-- The non-NaN codes of a list, ascending. -/
def sortF64 (cs : List Nat) : List Nat := (cs.filter fun c => !Fmt.f64.isNaN c).foldl (fun l c => insertF64 c l) []

/-- The least and greatest number, the canonical NaN where every value is a NaN. -/
def minF64 (cs : List Nat) : Nat := (sortF64 cs).headD Fmt.f64.canon
def maxF64 (cs : List Nat) : Nat := (sortF64 cs).getLastD Fmt.f64.canon

/-- max − min rounded once. -/
def spreadF64 (rm : RMode) (lo hi : Nat) : Nat :=
  if Fmt.f64.isNaN lo || Fmt.f64.isNaN hi then Fmt.f64.canon else (fpAdd .f64 (.plain rm) true hi lo).code

/-- `quant.f64` over all values of an element. -/
def quantF64 (rm : RMode) (P : Nat) (cs : List Nat) : Nat :=
  let xs := sortF64 cs
  match xs with
  | [] => Fmt.f64.canon
  | _ =>
    let n := P * (xs.length - 1)
    let a := xs.getD (n / 65536) 0
    let b := xs.getD (n / 65536 + 1) 0
    let f := n % 65536
    if f = 0 then a
    else match Fmt.f64.val a, Fmt.f64.val b with
      | .fin na ma ea, .fin nb mb eb =>
        let r := dyAdd (sgnM na ma * (65536 - f : Nat)) ea (sgnM nb mb * (f : Nat)) eb
        (Fmt.f64.roundInt rm false (rm == .rdn || (ma == 0 && mb == 0 && na && nb)) r.1 (r.2 - 16)).code
      | _, _ => if f ≤ 32768 then a else b

/-- The 72 words of a folded slot's image (R85) (DEDUCED, log entry 19). -/
def LongSt.imageWords (a : LongSt) : List Nat := (List.range 68).map a.digit ++ [a.status, 0, 0, 0]

/-- A slot from the words of its image. -/
def LongSt.ofWords (ws : List Nat) : LongSt := LongSt.ofImage (bytesOf ws)

/-- Slots merged as `lmrg` merges them, folded (R169, R328) (DEDUCED, log entry 19). -/
def mergeAll (xs : List LongSt) : LongSt := (xs.foldl LongSt.merge .zero).fold.1

/-- Words of a node's partial state for one element (R375). -/
def Command.partWidth (c : Command) : Nat :=
  match c.op with
  | 0x10 | 0x11 => 72
  | 0x12 | 0x13 => 1
  | 0x14 => 2
  | _ => c.C

/-- A node's partial state for an element, from its contributions (R169, R375). -/
def Command.partOf (c : Command) (xs : List Nat) : List Nat :=
  match c.op with
  | 0x10 => ((xs.foldl (fun a x => (LongSt.addCode .f64 (a, 0) x).1) LongSt.zero).fold.1).imageWords
  | 0x11 => (mergeAll (xs.map fun x => LongSt.ofImage (toBytes 576 x))).imageWords
  | 0x12 => [minF64 xs]
  | 0x13 => [maxF64 xs]
  | 0x14 => [minF64 xs, maxF64 xs]
  | _ => xs

/-- The result words of an element from every node's partial state (R169). -/
def Command.combine (c : Command) (ps : List (List Nat)) : List Nat :=
  match c.op with
  | 0x10 => [((mergeAll (ps.map LongSt.ofWords)).read .f64 c.rm).code]
  | 0x11 => (mergeAll (ps.map LongSt.ofWords)).imageWords
  | 0x12 => [minF64 ps.flatten]
  | 0x13 => [maxF64 ps.flatten]
  | 0x14 =>
    let lo := minF64 (ps.map fun p => p.getD 0 0)
    let hi := maxF64 (ps.map fun p => p.getD 1 0)
    [lo, hi, spreadF64 c.rm lo hi]
  | _ => [quantF64 c.rm c.param ps.flatten]

/-- The rank of an observation among an element's values; none where it is skipped (R169). -/
def rankOfObs (xs : List Nat) (o : Nat) : Option Nat :=
  if Fmt.f64.isNaN o then none
  else some (xs.filter fun x => !Fmt.f64.isNaN x && decide (f64Val x < f64Val o)).length

/-- The whole result of a command at ROOT: nodes' partial states, element by element, and the observations (R169). -/
def Command.result (c : Command) (parts : List (List Nat)) (obs : List Nat) : List Nat :=
  let w := c.partWidth
  let elem := fun (e : Nat) => parts.map fun p => (p.drop (w * e)).take w
  if c.op = 0x15 then
    let rs := (List.range c.N).map fun e => rankOfObs (elem e).flatten (obs.getD e 0)
    (List.range (c.T + 1)).map (fun k => (rs.filter fun r => r = some k).length) ++ [(rs.filter Option.isNone).length]
  else (List.range c.N).flatMap fun e => c.combine (elem e)

/-! ## Row COLLECTIVE_COMMAND_COMPLETE -/

/-- A read of one element into the engine: contributions c·N + e, then at ROOT the observations. -/
def Command.gathers (c : Command) (me : Nat) : List (Option CopyOp) :=
  let rd := fun (r : BitVec 256) (w x : Nat) => (elemAddr r x (c.gm * c.M)).map fun a =>
    (⟨c.mask, w, a, 0, false, true, r, 0, .dev, false⟩ : CopyOp)
  (List.range (c.C * c.N)).map (fun k => rd c.src c.wid (c.sidx + k)) ++
    (if c.op = 0x15 ∧ c.root = me then (List.range c.N).map fun e => rd c.obs 8 e else [])

/-- Values of gathered elements, whether one is poisoned; an element that zero or drop leaves out reads 0. -/
def gathered (s : State) (w : Who) (plans : List CopyPlan) (rs : List RemReq) : List (Option CopyOp) → Nat → List Nat × Bool
  | [], _ => ([], false)
  | none :: r, k =>
    let (vs, b) := gathered s w plans rs r k
    (0 :: vs, b)
  | some _ :: r, k =>
    let (vs, b) := gathered s w plans rs r (k + 1)
    match plans[k]? with
    | some pl =>
      let (v, bad) := copySource s w k pl rs
      (v :: vs, bad || b)
    | none => (0 :: vs, b)

/-- This node's partial state and observations as words. -/
def Command.ownWords (c : Command) (vs : List Nat) : List Nat :=
  (List.range c.N).flatMap (fun e => c.partOf ((List.range c.C).map fun k => vs.getD (k * c.N + e) 0)) ++
    vs.drop (c.C * c.N)

/-- The writes of result words or images (R169). -/
def Command.scatters (c : Command) (ws : List Nat) : List (CopyOp × Nat) :=
  let n := c.wid / 8
  (List.range c.results).filterMap fun k => (elemAddr c.dst (c.didx + k) (c.gm * c.M)).map fun a =>
    (⟨c.mask, c.wid, 0, a, true, false, 0, c.dst, .dev, false⟩, ofBytes (bytesOf ((ws.drop (n * k)).take n)))

/-- Requests that carry partial state or results to a node (R375), one per element, or one for the `rankh` block. -/
def sendParts (s : State) (ctx : Nat) (c : Command) (node count bytes : Nat) : List RemReq :=
  (List.range count).map fun k =>
    let fails := !reachable s.dev node
    let win := if fails then none else chooseWindow (s.ctx ctx) false node 1
    { line := node * 2 ^ 32 + k, addr := 0, mask := c.mask, node := node, host := false, kind := .store, window := win
      charge := if win.isSome then chargeOf bytes 0 else 0, timeout := s.now + timeoutOf (s.ctx ctx) win
      answer := if fails then some (6, 0) else none }

/-- Bytes of an element's result on its way back (R375). -/
def Command.backBytes (c : Command) : Nat := if c.op = 0x11 then 576 else if c.op = 0x14 then 24 else 8

/-- Result requests from ROOT to every other node. -/
def Command.backRequests (c : Command) (s : State) (ctx : Nat) : List RemReq :=
  (c.peers s.dev.node).flatMap fun n =>
    if c.op = 0x15 then sendParts s ctx c n 1 (8 * (c.T + 2)) else sendParts s ctx c n c.N c.backBytes

/-- The partial states of a command's tag that have arrived: tags of different contexts are one name space, as a state carries its
tag alone (DESIGN CHOICE, log entry 28). -/
def State.arrived (s : State) (c : Command) : List Partial := s.dev.partials.filter fun x => x.tag = c.tag

/-- The earliest state of each node that has sent one: what it sends later belongs to later instances of the tag. -/
def State.heads (s : State) (c : Command) : List Partial :=
  let ps := s.arrived c
  (ps.zipIdx.filter fun q => !(ps.take q.2).any fun y => y.node = q.1.node).map Prod.fst

/-- A participant disagrees, or lies outside the group (R168) (DEDUCED, log entry 28). -/
def State.mismatch (s : State) (c : Command) : Bool :=
  (s.heads c).any fun x => decide (x.head ≠ c.head) || !c.inGroup x.node

/-- The state from each of a list of nodes, the earliest of each; none while one has not arrived. -/
def firstOf (ps : List Partial) : List Nat → Option (List Partial)
  | [] => some []
  | n :: r => match ps.find? fun x => x.node = n with
    | none => none
    | some x => (firstOf ps r).map fun l => x :: l

/-- The partial states that a command waits for at a phase: every peer's at ROOT, ROOT's result elsewhere; without ALL, ROOT's word
that the group agrees (DESIGN CHOICE, log entry 28: how a participant learns of a disagreement is not given). -/
def Command.awaits (c : Command) (me ph : Nat) : List Nat :=
  if ph = 3 then (if c.root = me then c.peers me else [c.root]) else []

/-- The states a command waits for have arrived, or one of them refuses it. -/
def State.collReady (s : State) (c : Command) (ph : Nat) : Bool :=
  ph != 3 || s.mismatch c || (firstOf (s.arrived c) (c.awaits s.dev.node ph)).isSome

/-- States of a tag taken: the first of each node. -/
def State.takeParts (s : State) (xs : List Partial) : State :=
  s.updDev fun d => { d with partials := xs.foldl (fun l x => l.erase x) d.partials }

/-- A command's step: its payload ends with a code, or it goes on. -/
inductive CollRes where
  | fin (s : State) (code : Nat)
  | go (s : State) (own : List Nat) (rs : List RemReq) (ph : Nat)
  | held (s : State) (pages : List (Nat × Nat))
  | later (s : State)

/-- Requests that leave, or the command held back for room (R166). -/
def State.collSend (s : State) (p : Pend) (own : List Nat) (rs : List RemReq) (ph : Nat) : CollRes :=
  let x := (s.panes.find p.pane).getD (PaneSt.start 0 0 0 0)
  if (unfit (s.ctx p.ctx) x rs).isSome then .later s
  else
    let (s1, sent) := s.sendRequests p.pane rs
    .go s1 own sent ph

/-- Pages that a plan waits for, noted at the die. -/
def Plans.hold (a : Plans) (w : Who) : State × List (Nat × Nat) :=
  (a.faults.foldl (fun s x => s.noteFault w.ctx w.core x.1 x.2.1 (accEngine ||| accBit x.2.2)) a.s,
    (a.faults.map fun x => (x.1, x.2.1)).eraseDups)

/-- Phases 0 and 1: this node's contributions read. -/
def State.collGather (s : State) (p : Pend) (c : Command) (rs : List RemReq) (ph : Nat) : CollRes :=
  let w := s.whoOf p
  let gs := c.gathers s.dev.node
  let pl := s.planCopies w.ctx (gs.filterMap fun g => g)
  if pl.busy then .later s
  else if pl.faults ≠ [] then .held (pl.hold w).1 (pl.hold w).2
  else if pl.plans.any fun x => x.trap.isSome then .fin pl.s 7
  else
    let rr := if ph = 0 then readRequests s w.ctx pl.plans else rs
    if ph = 0 ∧ rr ≠ [] then pl.s.collSend p [] rr 1
    else
      let s1 := pl.plans.foldl (fun s x => (x.src.foldl (fun s q => s.recall q.pa q.n) s).recordPieces w.cid false x.src) pl.s
      let s2 := if rr.any fun x => (x.answer.map Prod.fst) == some 0 then s1.makeWide w.cid else s1
      if failedReqs rr ≠ [] then .fin s2 (remoteCode (failedReqs rr))
      else
      let (vs, bad) := gathered pl.s w pl.plans rr gs 0
      if bad then .fin s2 5
      else
        let own := c.ownWords vs
        if c.root = s.dev.node then .go s2 own [] 3
        else s2.collSend p own (sendParts s2 w.ctx c c.root c.N (8 * c.partWidth)) 2

/-- Phase 3: ROOT combines every node's state; another node takes ROOT's result, or without ALL its agreement. -/
def State.collMeet (s : State) (c : Command) (own : List Nat) : CollRes :=
  if s.mismatch c then .fin (s.takeParts (s.heads c)) 4
  else match firstOf (s.arrived c) (c.awaits s.dev.node 3) with
    | none => .later s
    | some xs =>
      let s1 := s.takeParts xs
      if c.root = s.dev.node then
        .go s1 (c.result (own.take (c.N * c.partWidth) :: xs.map Partial.words) (own.drop (c.N * c.partWidth))) [] 4
      else if c.all then .go s1 ((xs.map Partial.words).headD []) [] 4
      else .fin s1 0

/-- Phase 4: results written. -/
def State.collWrite (s : State) (p : Pend) (c : Command) (own : List Nat) : CollRes :=
  let w := s.whoOf p
  let ws := c.scatters own
  let pl := s.planCopies w.ctx (ws.map Prod.fst)
  if pl.busy then .later s
  else if pl.faults ≠ [] then .held (pl.hold w).1 (pl.hold w).2
  else
    let wr := writeRequests s w [] pl.plans fun q => (((ws[q.2]?).map Prod.snd).getD 0, false)
    let x := (s.panes.find p.pane).getD (PaneSt.start 0 0 0 0)
    if (unfit (s.ctx w.ctx) x wr).isSome then .later s
    else
      let s1 := (pl.plans.zip ws).foldl (fun s q => if q.1.trap.isSome then s else copyWrite s w q.1 q.2.2 false) pl.s
      if pl.plans.any fun x => x.trap.isSome then .fin s1 7
      else
        let (s2, sent) := s1.sendRequests p.pane wr
        .go s2 own sent 5

/-- Phases 5 and 6: remote writes answered; ROOT's results sent on to the other nodes where ALL is set. -/
def State.collEnd (s : State) (p : Pend) (c : Command) (own : List Nat) (rs : List RemReq) (ph : Nat) : CollRes :=
  if failedReqs rs ≠ [] then .fin s (remoteCode (failedReqs rs))
  else if ph = 5 ∧ c.all ∧ c.root = s.dev.node ∧ c.nodes ≠ 1 then s.collSend p own (c.backRequests s p.ctx) 6
  else .fin s 0

/-- One step of a collective command (DEDUCED, log entry 28). -/
def State.collVisit (s : State) (p : Pend) (c : Command) (own : List Nat) (rs : List RemReq) (ph : Nat) : CollRes :=
  if ph ≤ 1 then
    if !c.inGroup s.dev.node then .fin s 4
    else if c.badParam then .fin s 6
    else s.collGather p c rs ph
  else if ph = 2 then
    if failedReqs rs ≠ [] then .fin s (remoteCode (failedReqs rs))
    else .go s own [] 3
  else if ph = 3 then s.collMeet c own
  else if ph = 4 then s.collWrite p c own
  else s.collEnd p c own rs ph

/-- Row COLLECTIVE_COMMAND_COMPLETE (R166, R168, R169, R375): a visit of the collective engine. Phases: 0 and 1 gather, 2 send,
3 meet, 4 write, 5 and 6 end, 32 + code the completion word, 64 + code while its request is out. -/
def execCollectiveCommandComplete (id : Nat) (s : State) : Out :=
  match s.pend.find id with
  | none => .refused .notDue
  | some p =>
    match p.work with
    | .coll c own _ rs ph =>
      let put := fun k pages rs => Work.coll c own pages rs k
      if !(s.engineTurn p && s.collReady c ph) then .refused .notDue
      else if 64 ≤ ph then .next (s.cwAnswered p c)
      else if 32 ≤ ph then .next (s.finishCommand p c (ph - 32) put)
      else match s.collVisit p c own rs ph with
        | .fin s' code => .next (s'.endPayload p c code put)
        | .go s' own' rs' k => .next (s'.putPend { p with work := .coll c own' [] rs' k })
        | .held s' pages => .next (s'.putPend { p with held := true, work := .coll c own pages rs ph })
        | .later s' => .next (s'.putPend { p with due := s.now + 64 })
    | _ => .refused .notDue

/-- An engine item whose page fault was refused (R230): a payload fails with value 1, a completion word is not written. -/
def State.refuseCommand (s : State) (p : Pend) (c : Command) (ph : Nat) (put : Nat → List (Nat × Nat) → List RemReq → Work) :
    State :=
  if 32 ≤ ph then (s.dropPend p.id).commandFailed p.ctx 1 c
  else s.endPayload { p with held := false } c 1 put

/-- Row COLLECTIVE_PARTIAL_STATE (R168, R375): another node's partial state or result arrives. -/
def execCollectivePartialState (p : Partial) (s : State) : Out :=
  .next (s.updDev fun d => { d with partials := d.partials ++ [p] })

end Sys2Proof.Machine
end

