-- ==== Sys2Proof/Machine/Retire.lean ====
section
/-! DEFINITION. Retirement (R35, R97, R98), completion (R155, R188, R242), and swap-out while waiting (R187). Rows
CASEMENT_RETIRE, LAUNCH_COMPLETE, TASK_COMPLETE, SWAP_OUT, SWAP_IN. -/

namespace Sys2Proof.Machine

/-! ## Row CASEMENT_RETIRE (R35, R97, R98) -/

/-- The key order of a DET launch (R96): its sash's key, then cid. -/
def LaunchSt.detKey (l : LaunchSt) (c : CasementSt) : Nat := l.sashKey (l.sashOf c.linear) * 16 + c.cid

/-- Every casement earlier in key order has retired (R97): a lower sash is never behind this one in admission. -/
def State.detTurn (s : State) (l : LaunchSt) (c : CasementSt) : Bool :=
  !l.det || s.cas.all fun q => q.2.lid != c.lid || decide (q.2.phase = .retired) || decide (l.detKey c ≤ l.detKey q.2)

/-- A casement meets the conditions of R35 and R97 (DEDUCED, log entry 36). -/
def State.retirable (s : State) (cid : Nat) : Bool :=
  match s.cas.find cid with
  | none => false
  | some c => match s.launches.find c.lid with
    | none => false
    | some l =>
      let pids := (s.panesOf cid).map Prod.fst
      decide (c.phase = .resident) && ((s.panesOf cid).all fun q => q.2.exited && !q.2.out) && c.pendQ.isEmpty && s.casQuiet cid &&
        (s.cores.vals.all fun k => k.engQ.all fun o => !pids.contains o.pane) && s.detTurn l c

/-- The keys of two recorded atomics of a casement in the order of R98. -/
def OrdAtom.before (a b : OrdAtom) : Bool :=
  decide (a.px < b.px) || (decide (a.px = b.px) && (decide (a.ord < b.ord) || (decide (a.ord = b.ord) && decide (a.pos ≤ b.pos))))

/-- A recorded atomic put in its place. -/
def insertOrd (a : OrdAtom) : List OrdAtom → List OrdAtom
  | [] => [a]
  | x :: r => if x.before a then x :: insertOrd a r else a :: x :: r

/-- The recorded atomics of a casement in the order in which they are applied. -/
def sortOrds (os : List OrdAtom) : List OrdAtom := os.foldl (fun r a => insertOrd a r) []

/-- The operation of a recorded `atom` or `atom2`. -/
def OrdAtom.memOp (a : OrdAtom) : MemOp :=
  if a.half then
    .atom2 (match a.op with
      | .min => .minBf16
      | .max => .maxBf16
      | _ => if a.f16 then .addF16 else .addBf16) false
  else .atom a.op a.ty false

/-- One recorded atomic applied at its home (R98): as one `atom` or `atom2` (R289) (DEDUCED, log entry 36). -/
def State.applyOrd (s : State) (ctx : Nat) (a : OrdAtom) : State :=
  let s := s.recall a.pa a.size
  if s.linePoisoned a.pa then s
  else s.homeWrite ctx ⟨a.pa, 0, a.size, a.memOp.apply (s.homeRead a.pa a.size) a.val 0, a.trk, false⟩

/-- The marks on what a retired casement's panes held. -/
def State.dropSites (s : State) (cid : Nat) (pids : List Nat) (scratch : Bool) : State :=
  if s.poison.isEmpty then s else s.setPoison (s.poison.filter fun x => match x with
    | .reg p _ _ _ => !pids.contains p
    | .lane p _ _ => !pids.contains p
    | .limb c _ _ => c != cid
    | .scratch c _ => !(scratch && c == cid)
    | _ => true)

/-- A CASEMENT RETIRES: ordered atomics, trace slot, registrations, then its footprint, free from the next ac; scratch stays for
the commands that still read it (DEDUCED, log entry 36). -/
def State.retireCas (s : State) (cid : Nat) (c : CasementSt) (l : LaunchSt) : State :=
  let ps := s.panesOf cid
  let n := (ps.map fun q => q.2.vcnt * 256 * l.M).foldl (· + ·) 0
  let s1 := ((sortOrds c.ords).foldl (fun s a => s.applyOrd l.ctx a) s).flushRecorder cid
  let s2 := s1.setDets (unregistered [cid] s1.dets)
  let s3 := (s2.updCas cid fun c => { c with phase := .retired, leftAt := s.now, longs := [], ords := [] }).freeRoom c.core n
  let s4 := (ps.foldl (fun s q => s.updPane q.1 fun p => { p with lanes := [] }) s3).dropSites cid (ps.map Prod.fst) false
  (s4.sliceLeave c.core l.ctx false).updLaunch c.lid fun l => { l with retired := l.retired + 1 }

/-- Row CASEMENT_RETIRE (R35, R97, R98, R192). -/
def execCasementRetire (cas : Nat) (s : State) : Out :=
  match s.cas.find cas with
  | none => .refused .notDue
  | some c => match s.launches.find c.lid with
    | none => .refused .notDue
    | some l => if s.retirable cas then .next (s.retireCas cas c l) else .refused .notDue

/-! ## Rows LAUNCH_COMPLETE and TASK_COMPLETE (R155, R188, R199, R242) -/

/-- The casements of a launch. -/
def State.casOf (s : State) (lid : Nat) : List (Nat × CasementSt) := s.cas.filter fun q => q.2.lid = lid

/-- Every casement has retired, or a stranded launch has no resident casement left (R188, R242); what the last of them held is free
from the ac after (R35, R37). -/
def State.allRetired (s : State) (lid : Nat) (l : LaunchSt) : Bool :=
  (match l.phase with
    | .running => l.retired == l.size
    | .stranded => true
    | _ => false) && (s.casOf lid).all fun q => !s.occupies q.2

/-- Every write of a launch's casements, engine commands and device writes is performed, and its log entries are (R155, R243). -/
def State.flushed (s : State) (lid : Nat) (l : LaunchSt) : Bool :=
  let pids := ((s.casOf lid).flatMap fun q => s.panesOf q.1).map Prod.fst
  !l.logHeld &&
  (s.pend.vals.all fun q => !pids.contains q.pane && (match q.work with
    | .slotWrite k _ _ _ _ => k != lid
    | _ => true)) &&
  (s.ctx l.ctx).heldBinds.all fun h => bits h.w0 48 6 != l.entry % 64 || (bits h.w0 62 2 == 2) != l.isTask

/-- The status word that a casement's slot must hold (R192). -/
def CasementSt.statusWord (c : CasementSt) : Nat := (if c.recd.wide then 2 ^ 63 else 0) + c.recd.count

/-- Casements whose recorder took reads of a command after they retired (R190) (DEDUCED, log entry 36). -/
def State.toFlush (s : State) (lid : Nat) (l : LaunchSt) : List Nat :=
  if !l.traced || l.dropped then []
  else ((s.casOf lid).filter fun q => decide (q.2.phase = .retired) && (!q.2.recd.runs.isEmpty ||
    ((s.devReadWord l.ctx (slotAddr l (s.slotWidth l) q.2.linear 0)).map fun v => v != q.2.statusWord).getD false)).map Prod.fst

/-- A launch, its casements and their panes gone from the machine. -/
def State.removeLaunch (s : State) (lid : Nat) : State :=
  let cids := (s.casOf lid).map Prod.fst
  let pids := (s.panes.filter fun q => cids.contains q.2.cas).map Prod.fst
  let s1 := cids.foldl (fun s c => s.dropSites c pids true) s
  { s1 with
    launches := s1.launches.del lid
    cas := s1.cas.filter fun q => !cids.contains q.1
    panes := s1.panes.filter fun q => !pids.contains q.1
    units := s1.units.filter fun q => !pids.contains q.2.pane
    dets := unregistered cids s1.dets }

/-- The end of a launch whose writes are performed: header, completion word, parent, queue entry (R188). -/
def State.completeLaunch (s : State) (lid : Nat) (l : LaunchSt) : State :=
  let wide := ((s.casOf lid).filter fun q => q.2.recd.wide).length
  let s1 := ((s.traceHeader { l with wideCnt := wide }).cwStore l.ctx l.cwAddr l.cwVal).parentAdd l.ctx l.parent
  (s1.removeLaunch lid).tracedEnd lid l.ctx

/-- The end of a stranded launch (R242): its header stays with VALID = 0 (DEDUCED, log entry 35). -/
def State.strandedEnd (s : State) (lid : Nat) (l : LaunchSt) : State :=
  let s1 := ((s.cwStore l.ctx l.cwAddr (2 ^ 63 + 0x0B)).parentFail l.ctx l.parent).record l.ctx [0x02 * 2 ^ 56 + 0x0B, l.tag, 0, 0]
  (s1.removeLaunch lid).tracedEnd lid l.ctx

/-- A launch or task is complete but for its last words (DEDUCED, log entry 36). -/
def State.finished (s : State) (lid : Nat) (l : LaunchSt) : Bool := s.allRetired lid l && s.flushed lid l

/-- Row LAUNCH_COMPLETE (R188, R199, R242). -/
def execLaunchComplete (lid : Nat) (s : State) : Out :=
  match s.launches.find lid with
  | none => .refused .notDue
  | some l =>
    if l.isTask ∨ !s.finished lid l then .refused .notDue
    else match s.toFlush lid l with
      | [] => .next (if l.phase = .stranded then s.strandedEnd lid l else s.completeLaunch lid l)
      | cs => .next (cs.foldl (fun s c => s.flushRecorder c) s)

/-- Row TASK_COMPLETE (R188): COMP takes the place of PARENT, and there is no completion word. -/
def execTaskComplete (lid : Nat) (s : State) : Out :=
  match s.launches.find lid with
  | none => .refused .notDue
  | some l =>
    if !l.isTask ∨ !s.finished lid l then .refused .notDue
    else .next ((s.parentAdd l.ctx l.parent).removeLaunch lid)

/-! ## Rows SWAP_OUT and SWAP_IN (R187) -/

/-- A unit waits in `ctwt`. -/
def UnitSt.inCtwt (u : UnitSt) : Bool :=
  match u.park with
  | .ctwt _ => true
  | _ => false

/-- Work that a swap-out does not wait for (R187). -/
def Work.staysAway : Work → Bool
  | .halo .. | .coll .. | .job .. | .ctwt .. => true
  | _ => false

/-- SZ of a launch's save area. -/
def LaunchSt.saveSize (l : LaunchSt) : Nat := l.vmax * 256 * l.M + 12288

/-- A pane that leaves its core now: every unit of it in `ctwt` beyond the swap threshold, and its work done (DEDUCED, log
entry 40). -/
def State.swappable (s : State) (pid : Nat) (p : PaneSt) (c : CasementSt) (l : LaunchSt) : Bool :=
  let us := s.unitsOf pid
  decide (c.phase = .resident) && !p.out && !p.exited && l.swapBase != 0 && !us.isEmpty &&
    (us.all fun q => q.2.inCtwt && decide (l.swapT * 1024 < s.now - q.2.parkedAt)) &&
    s.pend.vals.all fun q => q.pane != pid || q.work.staysAway

/-- Bytes written by the device line by line (R9); none where a line does not translate as writable local memory (DEDUCED,
log entry 40). -/
def State.devSpan (s : State) (ctx va n : Nat) (f : Nat → Byte) : Option State :=
  (linesOf (n / 64 + 2) va n).foldl (fun (a : Option State) q => a.bind fun s =>
    s.devWrite ctx (q.1 % 2 ^ 57) q.2 (ofBytes ((List.range q.2).map fun k => f (q.1 - va + k))) true) (some s)

/-- The units of a pane that have written through a host window since their last fence (R158, R316). -/
def State.unplacedIn (s : State) (pid : Nat) : List Nat := ((s.unitsOf pid).filter fun q => q.2.hostPorts ≠ 0).map Prod.fst

/-- A pane saved and its slot and registers freed from the next ac; for its units it acts as `fence` (R158); a fault on the save
area ends the context (DEDUCED, log entry 40). -/
def State.swapPane (s : State) (pid : Nat) (p : PaneSt) (c : CasementSt) (l : LaunchSt) : State :=
  let (s, num) := (s.acquireUnits c.core ((s.unitsOf pid).map Prod.fst)).fresh
  let va := l.swapBase + (64 * c.core + p.slot) * l.saveSize
  match s.devSpan l.ctx va l.saveSize (Config.swapByte num) with
  | none => s.terminate l.ctx causeFATAL 0
  | some s1 => ((s1.releaseBaton c.core pid).updPane pid fun p => { p with out := true, outAt := s.now, outVa := va }).freeRoom
      c.core (p.vcnt * 256 * l.M)

/-- Row SWAP_OUT (R187): the fence places the units' host writes first, then the pane is saved. -/
def execSwapOut (pane : Nat) (s : State) : Out :=
  match s.panes.find pane with
  | none => .refused .notDue
  | some p => match s.cas.find p.cas with
    | none => .refused .notDue
    | some c => match s.launches.find c.lid with
      | none => .refused .notDue
      | some l =>
        if s.swappable pane p c l then
          .next (match s.unplacedIn pane with
            | [] => s.swapPane pane p c l
            | us => us.foldl (fun s k => s.placePorts k) s)
        else .refused .notDue

/-- The slot for a pane whose wait has ended, once it, its registers and its shared registers have room (R187). -/
def State.returnSlot (s : State) (pid : Nat) (p : PaneSt) (c : CasementSt) (l : LaunchSt) : Option Nat :=
  if decide (c.phase = .resident) && p.out && ((s.unitsOf pid).any fun q => !q.2.inCtwt) && decide (p.outAt < s.now) &&
      decide (p.vcnt * 256 * l.M ≤ s.vectorFree c.core true) && decide ((s.use c.core).shr + l.W * 256 ≤ Foot.core.shr) then
    (List.range 64).find? fun k => !(s.usedSlots c.core).contains k
  else none

/-- Row SWAP_IN (R187): the pane comes back to its core in the lowest free slot, its units as after `acq` (R158); a fault on the
save area ends the context (DEDUCED, log entry 40). -/
def execSwapIn (pane : Nat) (s : State) : Out :=
  match s.panes.find pane with
  | none => .refused .notDue
  | some p => match s.cas.find p.cas with
    | none => .refused .notDue
    | some c => match s.launches.find c.lid with
      | none => .refused .notDue
      | some l => match s.returnSlot pane p c l with
        | none => .refused .notDue
        | some k =>
          .next (if s.spanOk l.ctx .read p.outVa l.saveSize then
              (s.acquireUnits c.core ((s.unitsOf pane).map Prod.fst)).updPane pane fun p => { p with out := false, slot := k }
            else s.terminate l.ctx causeFATAL 0)

end Sys2Proof.Machine
end

