-- ==== Sys2Proof/Machine/Faults.lean ====
section
/-! DEFINITION. Page-fault records and their replies (R226 to R230, R158), results that arrive (R144, R261), and the watchdogs
(R60 to R62, R381). Rows LOAD_REPLY, FAULT_MERGE_WINDOW, PAGE_FAULT_REPLY, BARRIER_WATCHDOG, PROGRESS_WATCHDOG. -/

namespace Sys2Proof.Machine

/-! ## Row FAULT_MERGE_WINDOW (R227 to R229) -/

/-- The pages, with reasons, that a piece of work waits for. -/
def Work.pages : Work → List (Nat × Nat)
  | .logged _ ps => ps
  | .copy _ _ ps _ _ => ps
  | .halo _ ps _ _ => ps
  | .coll _ _ ps _ _ => ps
  | .job _ _ ps _ _ => ps
  | .tile _ ps _ => ps
  | .slotWrite _ _ _ _ g => [(g, 0), (g, 1)]
  | _ => []

/-- A piece of work waits for a fault record of its context: the one that its die's faults on the page belong to (R227). -/
def CtxSt.waits (c : CtxSt) (ctx : Nat) (f : FaultRec) (p : Pend) : Bool :=
  p.ctx == ctx && p.held && p.work.pages.contains (f.page, f.reason) && decide (c.faultFor (p.core / 16) f.page f.reason = some f)

/-- Due time of a record that waits for room in its ring (R229) (DEDUCED, log entry 41). -/
def noRoomYet : Nat := 2 ^ 64

/-- A page-fault record written; its context terminates where the ring takes none (R228, R229) (DEDUCED, log entries 41, 42). -/
def State.writeFault (s : State) (ctx : Nat) (f : FaultRec) : State :=
  let n := (s.pend.vals.filter ((s.ctx ctx).waits ctx f)).length
  match s.devReadWord ctx ((s.ctx ctx).desc + 16) with
  | none => s.discard ctx
  | some id =>
    match s.ringPut ctx [0x01 * 2 ^ 56 + f.acc % 256 * 2 ^ 48 + min n 65535 * 2 ^ 32 + f.reason, f.page * 65536, id, 0] with
    | none => s.discard ctx
    | some s' => s'.updCtx ctx fun c => { c with faults := c.faults.map fun x =>
        if x = f then { x with ring := some id } else x }

/-- A record enters the ring, or waits at its die while the ring is full. -/
def State.enterFault (s : State) (q : Nat × FaultRec) : State :=
  if (s.ctx q.1).faults.contains q.2 then
    if s.ringFull q.1 then s.updCtx q.1 fun c => { c with faults := c.faults.map fun x =>
      if x = q.2 then { x with due := noRoomYet } else x }
    else s.writeFault q.1 q.2
  else s

/-- The records of a die whose window has closed. -/
def State.closedFaults (s : State) (die : Nat) : List (Nat × FaultRec) :=
  s.ctxs.flatMap fun c => (c.2.faults.filter fun f => f.die = die ∧ f.ring = none ∧ f.due ≤ s.now).map fun f => (c.1, f)

/-- Row FAULT_MERGE_WINDOW (R227): a die's merged faults enter their rings. -/
def execFaultMergeWindow (die : Nat) (s : State) : Out :=
  match s.closedFaults die with
  | [] => .refused .notDue
  | fs => .next (fs.foldl State.enterFault s)

/-! ## Replay (R158, R230) -/

/-- An earlier instruction of the unit is logged on a page that a request touches. -/
def State.loggedBefore (s : State) (p : Pend) (r : MemReq) : List (Nat × Nat) × Bool :=
  let gs := (r.accs.flatMap Acc.parts).map fun q => pageOf q.1
  let earlier := s.pend.vals.filter fun q => q.uid = p.uid ∧ q.id < p.id
  let pages := earlier.flatMap fun q => (match q.work with
    | .logged _ ps => ps
    | .tile _ ps _ => ps
    | _ => []).filter fun g => gs.contains g.1
  (pages, earlier.any fun q => match q.work with
    | .logged r' _ => (r'.accs.flatMap Acc.parts).any fun x => gs.contains (pageOf x.1)
    | _ => false)

/-- What an operation whose reads a home serves does as they are bound (R144). -/
def performRead (w : Who) (r : MemReq) (s : State) (locs : List (Acc × List Piece)) : Perf :=
  match r.op with
  | .load sx width => performLoad s w r sx width locs
  | .lld => performLld s w r locs
  | .bset n => performBset s w r n locs
  | .record id => performRecord s w r id locs
  | .restore n => performRestore s w r n ((r.accs.map Acc.size).foldl (· + ·) 0) locs
  | .rqt => performRqt s w r locs
  | .job => performJob s w r locs
  | _ => ⟨s, []⟩

/-- WHAT A LOGGED INSTRUCTION DOES once its accesses are located. -/
def performReq (v : View) (w : Who) (ord : Nat) (r : MemReq) (s : State) (locs : List (Acc × List Piece)) : Perf :=
  match r.op with
  | .store => performStore s w r.pol locs
  | .save _ => performStore s w .dflt locs
  | .atom .. | .atom2 .. => performAtomic v ord r s locs
  | .wadr => performWadr s w locs
  | .ctwt => performCtwt s w ((r.accs.head?.map Acc.data).getD 0) locs
  | .ctinc => ⟨s.recordPieces w.cid false (locs.flatMap Prod.snd), locs.filterMap fun q => q.2.head?.map fun p =>
      (.count ⟨p.pa, p.va, 8, q.1.data, p.leaf.trk, false⟩, readLatency s.dev w.core p.pa)⟩
  | .dtst => performDtst s w r locs
  | .trec => performTrec s w r locs
  | .load .. | .lld | .bset _ | .record _ | .restore _ | .rqt | .job | .tileIn | .tileOut | .swap | .fence => performRead w r s locs

/-- How the unit of a replayed `wadr` or `ctwt` stands once it is performed; a `ctwt` already met goes on. -/
def State.replayPark (s : State) (p : Pend) (op : MemOp) (flying : Bool) : State :=
  s.updUnit p.uid fun u =>
    if u.park = Park.work p.id then
      match op with
      | .wadr => { u with park := .wadr p.id }
      | .ctwt => if flying then { u with park := .ctwt p.id, seated := false } else u.pass s.now
      | _ => u
    else u

/-- The place in the Load count that a logged instruction leaves with its log entry (R261). -/
def State.leaveLog (s : State) (id : Nat) : State := s.setPend (s.pend.filter fun q => q.2.work ≠ .inLog id)

/-- The works of an instruction put in flight from `from_` on: the first in the place of the work it had, which a log entry, or
reads that their homes have served, were. -/
def State.flyOn (s : State) (p : Pend) (r : MemReq) (from_ : Nat) (ws : List (Work × Nat)) : State :=
  match ws with
  | [] => (s.retire p).replayPark p r.op false
  | (w, t) :: rest =>
    let held := match w with
      | .wadr xs => !xs.all fun x => x.found.isSome
      | .ctwt .. => true
      | _ => false
    let k : Kind := match w with
      | .ctwt .. => .other
      | _ => p.kind
    let due := fun (t : Nat) => max (s.now + 1) (from_ + t)
    let s1 := s.putPend { p with work := w, issued := from_, due := due t, held := held, kind := k }
    (rest.foldl (fun s x =>
      let (s, id) := s.fresh
      s.putPend { p with id := id, work := x.1, issued := from_, due := due x.2, held := false, resv := 0 }) s1).replayPark p r.op true

/-- A replayed instruction put in flight: it leaves the operand log, and log entries already written no longer count as reserved
(R245). -/
def State.replayFly (s s0 : State) (p : Pend) (r : MemReq) (ws : List (Work × Nat)) : State :=
  let n := min p.resv (s.entriesSince s0 p.ctx)
  ((s.unreserve p.ctx n).leaveLog p.id).flyOn { p with resv := p.resv - n } r s.now ws

/-- The homes serve a read: it is bound, and its results are on their way (R144). -/
def State.serveRead (s : State) (p : Pend) (r : MemReq) (locs : List (Acc × List Piece)) : State :=
  let x := performRead (s.whoOf p) r s locs
  x.s.flyOn p r p.issued x.works

/-- A replayed instruction that leaves the device (R208); none where its windows have no room. -/
def State.replayRemote (s : State) (p : Pend) (w : Who) (r : MemReq) (locs : List (Acc × List Piece)) (perf : Performer) :
    Option State :=
  let ps := requestParts s p.ctx r locs
  let rs0 := requestsOf s w r ps
  match s.panes.find p.pane with
  | none => none
  | some x =>
    if (unfit (s.ctx p.ctx) x rs0).isSome then none
    else
      let (s1, rs) := (s.updPane p.pane fun x => x.charged rs0).sealRequests rs0
      match r.op with
      | .store =>
        let ports := rs.foldl (fun m q => if q.host then m ||| 2 ^ (q.node % 4) else m) 0
        some ((s1.replayFly s p r ((.remote r rs, 780) :: localWrites s w (localParts s.dev locs))).updUnit p.uid fun u =>
          { u with hostPorts := u.hostPorts ||| ports })
      | op =>
        let s2 := if rs.isEmpty then s1 else s1.makeWide w.cid
        if op.kind = .atomic then
          let (far, y) := splitAtomic s2 r locs perf
          some (y.s.replayFly s p r ((.remote far rs, 780) :: y.works))
        else
          let (hs, s3) := hereLines s2 w r ps
          some (s3.replayFly s p r [(.remote r (rs ++ hs), 780)])

/-- A replayed instruction tried again later. -/
def State.replayLater (s : State) (p : Pend) (r : MemReq) (n : Nat) : State :=
  s.putPend { p with work := .logged r [], held := false, due := s.now + n }

/-- A pending instruction dropped unperformed: its trap waits for the unit's next instruction (R230), its claimed entry is
freed, and a unit that waits in it goes on. -/
def State.dropLogged (s : State) (p : Pend) (r : MemReq) (t : Trap) : State :=
  let s1 := (((s.retire p).leaveLog p.id).deferTrap p.uid r.word { t with efd := t.efd % 2 ^ 63 + 2 ^ 63 }).updUnit p.uid fun u =>
    if u.park = Park.work p.id then u.pass s.now else u
  match r.op with
  | .record e => s1.freeRecord (s.whoOf p).cid e
  | _ => s1

/-- A PENDING INSTRUCTION REPLAYED from the operand log (R230): translated afresh; it faults again, traps, waits for what
precedes it, or is performed. -/
def State.replay (s : State) (p : Pend) (r : MemReq) : State :=
  match (s.setCur (some p.uid)).view with
  | none => s.replayLater p r 64
  | some v =>
    let f := if r.op = .dtst ∨ r.op = .trec then s.locateTrace p.ctx r.accs else s.locateReq p.ctx r
    let behind := s.loggedBefore p r
    match accessTrap v r f with
    | some t => f.s.dropLogged p r t
    | none =>
      match (f.faults ++ behind.1).eraseDups with
      | g :: gs => ((g :: gs).foldl (fun s x => s.noteFault p.ctx p.core x.1 x.2 (reqAcc r x.1)) f.s).putPend
          { p with held := true, work := .logged r (g :: gs) }
      | [] =>
        if f.busy.isSome ∨ behind.2 then s.replayLater p r 64
        else if (r.op.kind = .atomic ∧ r.op ≠ .ctinc ∧ !s.boundBefore p) ∨ s.mustFollow p.uid p.id r.op f.locs then
          s.replayLater p r 1
        else if r.op ≠ .dtst ∧ r.op ≠ .trec ∧ leaves s.dev f.locs then
          (f.s.replayRemote p (s.whoOf p) r f.locs (performReq v (s.whoOf p) p.id r)).getD (s.replayLater p r 64)
        else
          let x := f.s.begin_ (s.whoOf p) r f.locs (performReq v (s.whoOf p) p.id r)
          x.s.replayFly f.s p r x.works

/-- Row LOAD_REPLY (R144, R261, R44, R318): reads served at their homes; results and flags written; a long slot replaced; a
record's words in their entry; a watching unit goes on; a replayed instruction tried again (DESIGN CHOICE, log entry 8). -/
def execLoadReply (id : Nat) (s : State) : Out :=
  match s.pend.find id with
  | none => .refused .notDue
  | some p =>
    if s.now < p.due ∨ p.held then .refused .notDue
    else match p.work with
      | .regs ws bufs bad flags =>
        let s1 := (s.retire p).writeResults p.pane ws
        let s2 := s1.updPane p.pane fun x => { (x.orFstat flags) with
          bufs := bufs.foldl (fun m q => Sparse.write m q.1 q.2) x.bufs }
        .next (if bad.isEmpty then s2 else s2.addPoison (badSites p.pane bad))
      | .longs cas xs bad =>
        let s1 := (s.retire p).updCas cas fun c => { c with longs := xs.foldl (fun m q => Map.put m q.1 q.2) c.longs }
        let s2 := s1.cleanLimbs cas fun k _ => xs.any fun q => q.1 == k
        .next (s2.addPoison (bad.flatMap fun z => (List.range 69).map fun j => .limb cas z j))
      | .record entry words => .next ((s.retire p).fillRecord (s.whoOf p).cid entry words)
      | .wadr ws =>
        let s1 := (s.retire p).writeResults p.pane (ws.map fun w => (w.key, w64 (w.found.getD 0)))
        .next (s1.updUnit p.uid fun u => if u.park = Park.wadr id then u.pass s.now else u)
      | .install _ body bad => .next ((s.retire p).install p body bad)
      | .logged r [] => .next (s.replay p r)
      | .reads r locs => if s.servable p r locs then .next (s.serveRead p r locs) else .refused .notDue
      | _ => .refused .notDue

/-! ## Row PAGE_FAULT_REPLY (R229, R230) -/

/-- PROT of a refused access on a page (R230) (DEDUCED, log entry 42). -/
def refusedTrap (page : Nat) (m : Mask) : Trap := { cause := causePROT, mask := m, efd := 2 ^ 63, eaddr := page * 65536 }

/-- A side of a copy touches a page in the way that its record's reason refuses: writes alone meet reason 1 (R229). -/
def touchesPage (d : DevSt) (o : CopyOp) (page reason : Nat) : Bool :=
  let hit := fun (scr : Bool) (r : BitVec 256) (a : Nat) =>
    !scr && (remoteNode d r).isNone && decide (pageOf a ≤ page) && decide (page ≤ pageOf (a + o.size - 1))
  (reason != 1 && hit o.srcScr o.srcRec o.src) || hit o.dstScr o.dstRec o.dst

/-- A batch whose page was refused: the copies that touch it move nothing, and their lane keeps the cause (R164, R230). -/
def State.refuseBatch (s : State) (p : Pend) (lane : Nat) (ops : List CopyOp) (rs : List RemReq) (k page reason : Nat) : State :=
  let hit := ops.filter fun o => touchesPage s.dev o page reason
  (s.putPend { p with
    held := false
    due := s.now
    work := .copy lane (ops.map fun o => if touchesPage s.dev o page reason then { o with dead := true } else o) [] rs k }).updPane
      p.pane fun x => { x with batchFails := x.batchFails ++ hit.map fun o => ⟨p.id, lane, causePROT, page * 65536, 0, o.mask⟩ }

/-- A tile operation refused: it leaves the queue, and PROT waits for its unit. -/
def State.refuseTile (s : State) (p : Pend) (r : MemReq) (page : Nat) : State :=
  let s1 := (s.retire p).deferTrap p.uid r.word (refusedTrap page r.xm)
  match (s.core p.core).engQ.find? fun o => o.id = p.id with
  | some o => s1.popEngine p.core o
  | none => s1

/-- A waiter whose page was refused (R230). -/
def State.refuseWaiter (s : State) (page reason id : Nat) : State :=
  match s.pend.find id with
  | none => s
  | some p => match p.work with
    | .logged r _ =>
      s.dropLogged p r (refusedTrap page (unionMask ((r.accs.filter fun a => a.parts.any fun q => pageOf q.1 == page).map Acc.mask)))
    | .copy lane ops _ rs k => s.refuseBatch p lane ops rs k page reason
    | .halo c _ rs ph => s.refuseCommand p c ph fun k pages _ => .halo c pages rs k
    | .coll c own _ rs ph => s.refuseCommand p c ph fun k pages _ => .coll c own pages rs k
    | .job words r _ since _ => s.refuseJob p words r since
    | .tile r _ _ => s.refuseTile p r page
    | .slotWrite lid _ _ _ _ => (s.dropPend id).updLaunch lid fun l => { l with dropped := true }
    | _ => s

/-- A waiter replayed (R230): an engine item is visited again (DEDUCED, log entry 42). -/
def State.replayWaiter (s : State) (id : Nat) : State :=
  match s.pend.find id with
  | none => s
  | some p =>
    let again := fun (w : Work) => s.putPend { p with held := false, due := s.now, work := w }
    match p.work with
    | .logged r _ => s.replay p r
    | .copy l o _ rs k => again (.copy l o [] rs k)
    | .halo c _ rs k => again (.halo c [] rs k)
    | .coll c o _ rs k => again (.coll c o [] rs k)
    | .job ws r _ since _ => again (.job ws r [] since true)
    | .tile r _ b => again (.tile r [] b)
    | .slotWrite lid va n v _ => (s.dropPend id).slotStore p.ctx p.core lid va n v false
    | _ => s

/-- The units of a context that wait to fetch from the page of a record (R226, R227). -/
def State.fetchers (s : State) (ctx : Nat) (f : FaultRec) : List (Nat × UnitSt) :=
  s.units.filter fun q => decide (q.2.park = .wait (.fetch f.page f.reason)) &&
    ((s.launchOfPane q.2.pane).map LaunchSt.ctx) == some ctx &&
    (match s.casOfPane q.2.pane with
      | some c => decide ((s.ctx ctx).faultFor (c.core / 16) f.page f.reason = some f)
      | none => false)

/-- ANS of a written record (R229 Table 8), 0 where the ring does not translate. -/
def State.answerOf (s : State) (ctx id : Nat) : Nat :=
  let d := (s.ctx ctx).desc
  match s.devReadWord ctx d, s.devReadWord ctx (d + 8) with
  | some rb, some rl =>
    bits ((s.devReadWord ctx (bits rb 12 45 * 4096 + 32 * (id % 2 ^ bits rl 0 5) + 24)).getD 0) 56 8
  | _, _ => 0

/-- The waiters of a record, in log order. -/
def State.waitersOf (s : State) (ctx : Nat) (f : FaultRec) : List Nat :=
  (s.pend.vals.filter ((s.ctx ctx).waits ctx f)).map fun p => p.id

/-- One record acted on (R230) (DEDUCED, log entry 42). -/
def State.actOn (s : State) (ctx id : Nat) : State :=
  match (s.ctx ctx).faults.find? fun f => f.ring = some id with
  | none => s
  | some f =>
    let ans := s.answerOf ctx id
    let s0 := s.updCtx ctx fun c => { c with faults := c.faults.filter fun x => x ≠ f }
    let s1 := (s.fetchers ctx f).foldl (fun s q => s.updUnit q.1 fun u => { u with park := .ready }) s0
    if ans = 0 then s
    else if ans = 1 then (s.waitersOf ctx f).foldl State.replayWaiter s1
    else if ans = 3 then s.terminate ctx causeFATAL 0
    else
      let s2 := (s.waitersOf ctx f).foldl (fun s k => s.refuseWaiter f.page f.reason k) s1
      if bits f.acc 3 1 = 1 then
        (s.fetchers ctx f).foldl (fun s q => s.deferTrap q.1 0 (refusedTrap f.page q.2.xm)) s2
      else s2

/-- A number put in its place in an ascending list. -/
def insertNat (n : Nat) : List Nat → List Nat
  | [] => [n]
  | x :: r => if n ≤ x then n :: x :: r else x :: insertNat n r

/-- Row PAGE_FAULT_REPLY (R229, R230): waiting records enter the ring, then the answers are acted on in ID order (DEDUCED,
log entry 52). -/
def execPageFaultReply (ctx : Nat) (s : State) : Out :=
  let c := s.ctx ctx
  if c.replies = 0 then .refused .notDue
  else
    let s1 := s.updCtx ctx fun c => { c with replies := c.replies - 1 }
    let s2 := ((c.faults.filter fun f => f.ring = none ∧ f.due = noRoomYet).map fun f => (ctx, f)).foldl State.enterFault s1
    let ids := ((s2.ctx ctx).faults.filterMap FaultRec.ring).foldl (fun r n => insertNat n r) []
    .next (ids.foldl (fun s n => s.actOn ctx n) s2)

/-! ## Diagnostic records (R61, R62) -/

/-- A unit past the instruction that it is parked in, as it resumes (R62: its next instruction) (DEDUCED, log entry 43). -/
def UnitSt.onward (u : UnitSt) (now : Nat) : UnitSt :=
  match u.park with
  | .ready | .wait _ | .stopped => u
  | _ => u.pass now

/-- STATE of a unit entry (R62 Table 5) (DEDUCED, log entry 43). -/
def UnitSt.stateCode (u : UnitSt) : Nat :=
  match u.park with
  | .bar => 2
  | .sbar => 3
  | .join _ => 4
  | .ready | .wait (.clause ..) => if u.seated then 0 else 1
  | _ => 5

/-- One unit entry: the unit it names, none for a wholly exited pane, and its bytes. -/
structure DiagEntry where
  uid : Option Nat
  bytes : List Byte

/-- The bytes of an entry. -/
def entryBytes (pc rcvd cdep seq state px : Nat) (m : Mask) : List Byte :=
  toBytes 8 (pc % 2 ^ 57) ++ toBytes 8 (rcvd % 256 * 2 ^ 40 + cdep % 256 * 2 ^ 32 + seq % 65536 * 2 ^ 16 + state * 256 + px % 16) ++
    toBytes 32 m.toNat

/-- The entries of a casement, by px, then detach sequence. R62 gives the entry of a wholly exited pane STATE 6 and PC; its
RCVD, CDEP and SEQ are 0 and its DOMAIN is every position (DESIGN CHOICE, log entry 43). -/
def State.diagEntries (s : State) (cid M : Nat) : List DiagEntry :=
  (s.panesOf cid).flatMap fun q =>
    if q.2.exited then [⟨none, entryBytes q.2.lastExit 0 0 0 6 q.2.px (fullMask M)⟩]
    else (s.unitsOf q.1).map fun u =>
      let x := u.2.onward s.now
      ⟨some u.1, entryBytes (x.pc + 4 * x.idx) u.2.rstack.length u.2.cstack.length u.2.seq u.2.stateCode q.2.px u.2.domain⟩

/-- Bits set for the members of a list. -/
def bitsOf (ns : List Nat) : Nat := ns.foldl (fun a n => a ||| 2 ^ n) 0

/-- What fires (R62): KIND. -/
inductive DiagKind where
  | bar | sbar | progress
deriving DecidableEq, Repr

/-- The kind's number and its cause. -/
def DiagKind.code : DiagKind → Nat
  | .bar => 0 | .sbar => 1 | .progress => 2
def DiagKind.cause : DiagKind → Nat
  | .progress => 0x0D
  | _ => 0x0C

/-- ARRIVED of a record (R62 Table 4). -/
def State.arrivedBits (s : State) (k : DiagKind) (cid : Nat) (c : CasementSt) : Nat :=
  match k with
  | .bar => bitsOf (((s.panesOf cid).filter fun q => s.paneArrived q.1 .bar).map fun q => q.2.px)
  | .sbar => bitsOf (((s.sashOf c).filter fun q => s.casArrived q.1 .sbar).map fun q => q.2.cid)
  | .progress => 0

/-- The header of a record with n entries. -/
def State.diagHeader (s : State) (k : DiagKind) (cid : Nat) (c : CasementSt) (n : Nat) : List Byte :=
  let ps := s.panesOf cid
  let pc := match k with
    | .bar => c.barPc
    | .sbar => c.sbarPc
    | .progress => 0
  toBytes 8 (bitsOf ((ps.filter fun q => q.2.exited).map fun q => q.2.px) % 65536 * 2 ^ 48 +
    s.arrivedBits k cid c % 65536 * 2 ^ 32 + n % 65536 * 2 ^ 16 + ps.length % 256 * 2 ^ 8 + k.cause) ++
  toBytes 8 (k.code * 2 ^ 48 + c.linear % 2 ^ 48) ++ toBytes 8 (s.now % 2 ^ 64) ++ toBytes 8 (pc % 2 ^ 57) ++ toBytes 32 0

/-- Bytes written one by one; a byte whose address does not translate is left out. -/
def State.devPut (s : State) (ctx va : Nat) (bs : List Byte) : State :=
  bs.zipIdx.foldl (fun s q => (s.devWrite ctx ((va + q.2) % 2 ^ 57) 1 q.1.toNat true).getD s) s

/-- Record n of the diagnostic area, cut to what DIAGSZ leaves (R62), written to `a`; `s` is the machine as the watchdog fired. -/
def State.diagRecord (a s : State) (ctx : Nat) (k : DiagKind) (es : List DiagEntry) (q : Nat × CasementSt) (n : Nat) : State :=
  let d := (a.ctx ctx).desc
  match a.devReadWord ctx (d + 48), a.devReadWord ctx (d + 56) with
  | some diag, some size =>
    let room := min 196672 (size - n * 196672)
    if d = 0 ∨ room < 64 then a
    else
      let es := es.take ((room - 64) / 48)
      a.devPut ctx (bits diag 0 57 + n * 196672) (s.diagHeader k q.1 q.2 es.length ++ es.flatMap DiagEntry.bytes)
  | _, _ => a

/-! ## Rows BARRIER_WATCHDOG and PROGRESS_WATCHDOG (R60, R61, R381) -/

/-- A pre-emption that was stopping a sash is given up: a watchdog fires on it (R239). -/
def State.keepSash (s : State) (c : CasementSt) : State :=
  (s.sashOf c).foldl (fun s q => s.updCas q.1 fun c => if c.phase = .stopping then { c with phase := .resident } else c) s

/-- Every unit of a casement that has not retired stopped (R61). -/
def State.stopCas (s : State) (cid : Nat) (c : CasementSt) : State :=
  if c.phase = .retired then s else
  let pids := (s.panesOf cid).map Prod.fst
  let s1 := s.setUnits (s.units.map fun q =>
    if pids.contains q.2.pane then (q.1, { q.2.onward s.now with park := .stopped }) else q)
  (s1.keepSash c).updCas cid fun c => { c with fired := true }

/-- A WATCHDOG FIRES on casements (R61, R381): units stop, records are written, and the cause goes to the first live unit
(DEDUCED, log entry 43). -/
def State.fire (s : State) (ctx M : Nat) (k : DiagKind) (cs : List (Nat × CasementSt)) : State :=
  let recs := cs.map fun q => (q, s.diagEntries q.1 M)
  let s1 := cs.foldl (fun s q => s.stopCas q.1 q.2) s
  let s2 := recs.zipIdx.foldl (fun a q => a.diagRecord s ctx k q.1.2 q.1.1 q.2) s1
  match (recs.flatMap Prod.snd).findSome? DiagEntry.uid with
  | none => s2.terminate ctx k.cause 0
  | some uid => match s2.units.find uid with
    | none => s2
    | some u => (s2.updUnit uid fun u => { u with seated := true }).deliver uid { cause := k.cause, mask := u.xm } 0
        (epcOf u.pc u.idx)

/-- The limit of wdb in ac (R60). -/
def CtxSt.barLimit (c : CtxSt) : Nat :=
  (let x := bits (c.acting 0x43 c.wdb).toNat 0 32; if x = 0 then 2 ^ 20 else x) * 1024
/-- The limit of wdp in ac (R60). -/
def CtxSt.progressLimit (c : CtxSt) : Nat :=
  (let x := bits (c.acting 0x44 c.wdp).toNat 0 32; if x = 0 then 2 ^ 16 else x) * 2 ^ 20

/-- A count that began has passed a limit. -/
def overdue (start : Option Nat) (now limit : Nat) : Bool := (start.map fun t => decide (limit < now - t)).getD false

/-- Every casement of a sash, the retired ones too (R61). -/
def State.wholeSash (s : State) (c : CasementSt) : List (Nat × CasementSt) :=
  s.cas.filter fun q => q.2.lid = c.lid ∧ q.2.sid = c.sid

/-- The barrier whose watchdog fires for a casement (R60), with the casements it affects, in ascending cid (DEDUCED, log
entry 43). -/
def State.barOver (s : State) (cid : Nat) : Option (DiagKind × List (Nat × CasementSt)) :=
  match s.cas.find cid with
  | none => none
  | some c =>
    let lim := (s.ctx (s.ctxOfCas c)).barLimit
    if c.fired ∨ c.phase ≠ .resident then none
    else if overdue c.barStart s.now lim then some (.bar, [(cid, c)])
    else if overdue c.sbarStart s.now lim ∧ (s.sashOf c).all fun q => decide (q.2.phase = .resident) && !q.2.fired then
      some (.sbar, (List.range 16).flatMap fun k => (s.wholeSash c).filter fun q => q.2.cid = k)
    else none

/-- The progress watchdog fires for a casement (R60) (DEDUCED, log entry 43). -/
def State.progressOver (s : State) (cid : Nat) : Option CasementSt :=
  match s.cas.find cid with
  | none => none
  | some c =>
    if !c.fired ∧ c.resident ∧ (s.ctx (s.ctxOfCas c)).progressLimit < c.ran + (s.now - c.admitAt) then some c else none

/-- Row BARRIER_WATCHDOG (R60, R61, R62, R381). -/
def execBarrierWatchdog (cas : Nat) (s : State) : Out :=
  match s.barOver cas, (s.cas.find cas).bind fun c => s.launches.find c.lid with
  | some (k, cs), some l => .next (s.fire l.ctx l.M k cs)
  | _, _ => .refused .notDue

/-- Row PROGRESS_WATCHDOG (R60, R61, R62, R381). -/
def execProgressWatchdog (cas : Nat) (s : State) : Out :=
  match s.progressOver cas, (s.cas.find cas).bind fun c => s.launches.find c.lid with
  | some c, some l => .next (s.fire l.ctx l.M .progress [(cas, c)])
  | _, _ => .refused .notDue

end Sys2Proof.Machine
end

