-- ==== Sys2Proof/Machine/Errors.lean ====
section
/-! DEFINITION. Errors, self-tests and fences (R240, R241), and the work that no core can take any more (R242). Rows
CORRECTED_ERROR, SELF_TEST_RESULT, UNCORRECTABLE_ERROR. -/

namespace Sys2Proof.Machine

/-! ## Work that fits on no core (R242) -/

/-- A launch or task with a casement to bind, or a pre-empted one to resume. -/
def State.stillToPlace (s : State) (lid : Nat) (l : LaunchSt) : Bool :=
  (decide (l.phase = .accepted) || decide (l.phase = .running)) &&
    (!l.todo.isEmpty || (s.casOf lid).any (fun q => decide (q.2.phase = .away)) || s.boundRecs.any fun b => b.lid == lid)

/-- Nothing of a launch is bound or has run. -/
def State.nothingBound (s : State) (lid : Nat) : Bool := (s.casOf lid).isEmpty && !s.boundRecs.any fun b => b.lid == lid

/-- The bind records of a launch discarded. -/
def State.dropRecords (s : State) (lid : Nat) : State :=
  s.setCores (s.cores.map fun q => (q.1, { q.2 with table := q.2.table.filter fun b => b.lid != lid }))

/-- The work in flight of a launch's panes discarded. -/
def State.dropWork (s : State) (lid : Nat) : State :=
  let pids := ((s.casOf lid).flatMap fun q => s.panesOf q.1).map Prod.fst
  s.setPend (s.pend.filter fun q => !pids.contains q.2.pane)

/-- A launch or task that fails the test of R242 ends as its table says (DEDUCED, log entry 35). -/
def State.endUnplaceable (s : State) (lid : Nat) (l : LaunchSt) : State :=
  if l.isTask then (((s.dropRecords lid).dropWork lid).removeLaunch lid).reportRefusal l 0x0B
  else if s.nothingBound lid then (s.refuse lid 0x0B).tracedEnd lid l.ctx
  else (s.dropRecords lid).updLaunch lid fun l => { l with phase := .stranded, todo := [] }

/-- Every launch and task tested again against the cores now enabled (R242) (DEDUCED, log entry 44). -/
def State.retestAll (s : State) : State :=
  s.launches.foldl (fun s q => match s.launches.find q.1 with
    | some l => if s.stillToPlace q.1 l ∧ !l.placeable s.dev then s.endUnplaceable q.1 l else s
    | none => s) s

/-! ## Fences (R241) -/

/-- The bind records that name a core go back to their launches' queues (DEDUCED, log entry 33). -/
def State.unbind (s : State) (core : Nat) : State :=
  let lost := s.boundRecs.filter fun b => b.cores.contains core
  let s1 := s.setCores (s.cores.map fun q => (q.1, { q.2 with table := q.2.table.filter fun b => !b.cores.contains core }))
  s1.setLaunches (s1.launches.map fun q =>
    let back := (lost.filter fun b => b.lid = q.1 ∧ b.kind ≠ 3).map BindRec.linear
    if back.isEmpty then q
    else (q.1, { q.2 with todo := q.2.order.filter fun k => q.2.todo.contains k || back.contains k }))

/-- Casements that stand on a core that is no longer enabled, pre-empted (R241) (DEDUCED, log entry 44). -/
def State.clearRetired (s : State) : State :=
  (s.cas.filter fun q => decide (q.2.phase = .resident) && !s.dev.cores.contains q.2.core).foldl (fun s q => s.preemptOrEnd q.1) s

/-- A core retired (R11, R241, R242) (DEDUCED, log entry 44). -/
def State.retireCore (s : State) (core : Nat) : State :=
  if s.dev.cores.contains core then
    (((s.updDev fun d => { d with enabled := d.enabled - 2 ^ core }).unbind core).clearRetired).retestAll
  else s

/-- A sill way fenced (R241): the region's spare takes its place, or the vault of the region is gone (DEDUCED, log entry 44). -/
def State.fenceWay (s : State) (g : Nat) : State :=
  if bits s.dev.spares g 1 = 1 then s.updDev fun d => { d with spares := d.spares - 2 ^ g }
  else
    let w := s.wp g
    let n := max w.vw w.old
    let s1 := (s.markVault g 0 n).eraseRange (Config.vaultBase + g * 2 ^ 24) (Config.vaultBase + (g + 1) * 2 ^ 24)
    let s2 := s1.setPend (s1.pend.filter fun q => match q.2.work with
      | .convert k _ _ => k != g
      | _ => true)
    (s2.setWpart (s2.wpart.put g ⟨0, false, 0⟩)).updDev fun d => { d with fencedWays := g :: d.fencedWays.filter fun k => k ≠ g }

/-- The requests of a piece of work changed one by one. -/
def Work.mapReqs (w : Work) (f : RemReq → RemReq) : Work := w.withReqs (w.reqs.map f)

/-- A station taken down (R207): the requests in flight on its link are answered by timeout alone. -/
def State.dropStation (s : State) (k : Nat) : State :=
  (s.setPend (s.pend.map fun q => (q.1, { q.2 with
    work := q.2.work.mapReqs fun r => if r.station = some k ∧ r.answer.isNone then { r with lost := true } else r }))).updDev
    fun d => { d with stations := if bits d.stations k 1 = 1 then d.stations - 2 ^ k else d.stations }

/-- The fence of a unit whose self-test failed (R241); a remapped HBM4E row changes nothing that a program sees. -/
def State.fence (s : State) (u : HwUnit) : State :=
  match u with
  | .core c => s.retireCore c
  | .sillWay g => s.fenceWay g
  | .hbmRow _ => s
  | .station k => s.dropStation k

/-! ## Rows -/

/-- Row CORRECTED_ERROR (R241): a self-test of the unit starts. -/
def execCorrectedError (u : HwUnit) (s : State) : Out := .next (s.updDev fun d => { d with testing := d.testing ++ [u] })

/-- Row SELF_TEST_RESULT (R241, R242): a pass counts the error as transient; a failure fences the unit. -/
def execSelfTestResult (u : HwUnit) (pass : Bool) (s : State) : Out :=
  if s.dev.testing.contains u then
    let s1 := s.updDev fun d => { d with testing := d.testing.erase u }
    .next (if pass then s1 else s1.fence u)
  else .refused .notDue

/-- The physical address in the record of what an error struck (R229 Table 7). -/
def Site.pa : Site → Nat
  | .line a => a * 64
  | _ => 0

/-- Row UNCORRECTABLE_ERROR (R240): what it struck is poisoned, and a TYPE 0x30 record is written; nothing is raised. -/
def execUncorrectableError (code : Nat) (site : Site) (ctx : Nat) (s : State) : Out :=
  let s1 := if s.poison.contains site then s else s.addPoison [site]
  .next (if (s.ctxs.find ctx).isSome then s1.record ctx [0x30 * 2 ^ 56 + code % 256, Site.pa site, 0, 0] else s1)

end Sys2Proof.Machine
end

