-- ==== Sys2Proof/Machine/Host.lean ====
section
/-! DEFINITION. The host's RDMA operations (R157, R218) and the management queue pair (R220, R253). Rows HOST_RDMA_WRITE,
HOST_RDMA_READ, HOST_RDMA_ATOMIC, INSTALL_REGION, REMOVE_REGION, BIND_PORT, UNBIND_PORT, MALFORMED_MANAGEMENT_REQUEST. -/

namespace Sys2Proof.Machine

/-! ## Answers -/

/-- A SEND or RDMA answer leaves the device: queue pair, or Ethernet port for RDMA, and its words (DEDUCED, log entry 48). -/
def State.send (s : State) (qp : Nat) (ws : List Nat) : State := s.updDev fun d => { d with answers := d.answers ++ [⟨qp, ws⟩] }

/-- The NAK "remote access error" (R218). -/
def nakWord : Nat := 1

/-! ## RDMA (R157, R218) -/

/-- A host access translated: a failing address, a vault region to wait for, or its parts; a part of the information page
takes no write (R12). -/
inductive HostSpan where
  | fail (va : Nat)
  | busy
  | ok (ps : List Piece)

/-- One part of a host access (DEDUCED, log entry 47). -/
def State.hostPiece (s : State) (ctx : Nat) (k : AccKind) (q : Nat × Nat) : HostSpan :=
  match s.xlate ctx k (q.1 % 2 ^ 57), s.xlate ctx .read (q.1 % 2 ^ 57) with
  | .ok pa l, _ =>
    let p : Piece := ⟨q.1 % 2 ^ 57, q.2, pa, l⟩
    if k = .atomic ∧ !atomicPlaced (frameOf s.dev pa) l.ap (.atom .add .i64 true) then .fail q.1
    else match frameOf s.dev pa with
      | .host | .peer .. => .fail q.1
      | .vault g off => match s.vaultCheck g off with
        | .ok _ => .ok [p]
        | .error true => .busy
        | .error false => .fail q.1
      | _ => .ok [p]
  | .trap _, .ok pa l => (match frameOf s.dev pa with
    | .info _ => if k = .write ∧ l.w then .ok [] else .fail q.1
    | _ => .fail q.1)
  | _, _ => .fail q.1

/-- Two parts' results joined: the first failure decides. -/
def HostSpan.join : HostSpan → HostSpan → HostSpan
  | .fail a, _ => .fail a
  | .busy, .fail a => .fail a
  | .busy, _ => .busy
  | .ok _, .fail a => .fail a
  | .ok _, .busy => .busy
  | .ok ps, .ok qs => .ok (ps ++ qs)

/-- A host access of n bytes translated line by line under the region's context. -/
def State.hostSpan (s : State) (ctx : Nat) (k : AccKind) (va n : Nat) : HostSpan :=
  (linesOf (n / 64 + 2) va n).foldl (fun a q => a.join (s.hostPiece ctx k q)) (.ok [])

/-- A translation failure (R218): the NAK, and an inbound record of the region's context. -/
def State.hostFail (s : State) (port ctx kind va : Nat) : State :=
  (s.inboundRecord 2 kind (port % 4) (ctx * 2 ^ 35 + va % 2 ^ 35) 0 true).send port [nakWord]

/-- The region that a host operation names, with the right it needs, wide enough; a launch region is one window (R218). -/
def DevSt.regionFor (d : DevSt) (key right addr n : Nat) : Option Region :=
  match d.regions.find key with
  | none => none
  | some r =>
    let base := if r.launch then 0 else r.base
    let len := if r.launch then min r.len (2 ^ 24) else r.len
    if bits r.rights right 1 = 1 ∧ base ≤ addr ∧ addr + n ≤ base + len then some r else none

/-- Row HOST_RDMA_WRITE (R157, R173, R218): nothing of a write that fails is performed (DESIGN CHOICE, log entry 46). -/
def execHostRdmaWrite (port key addr : Nat) (data : List Byte) (s : State) : Out :=
  if s.dev.recovery then .next s
  else match s.dev.regionFor key 1 addr data.length with
    | none => .next (s.send port [nakWord])
    | some r =>
      if r.launch then .next ((s.controlWrite r.ctx (data.length / 4096 + 2) addr data).send port [0])
      else match s.hostSpan r.ctx .write addr data.length with
        | .fail va => .next (s.hostFail port r.ctx 1 va)
        | .busy => .next (s.setInbox (s.inbox ++ [(s.now + 1, .hostRdmaWrite port key addr data)]))
        | .ok ps =>
          .next ((ps.foldl (fun s p => s.homeWrite r.ctx
            ⟨p.pa, p.va, p.n, ofBytes ((data.drop (p.va - addr)).take p.n), p.leaf.trk, false⟩) s).send port [0])

/-- A byte of a context's control window as the host reads it (R173). -/
def State.windowByte (s : State) (ctx off : Nat) : Nat :=
  let c := s.ctxs.find ctx
  let refused := (c.map CtxSt.refused).getD (s.dev.refusedUndef.getD ctx 0)
  let ws := [64 - (s.queueOf ctx false).length, (c.map CtxSt.accepted).getD 0, refused, (c.map CtxSt.lastReason).getD 0]
  if 0x100000 ≤ off ∧ off < 0x100020 then bits (wordAt ws ((off - 0x100000) / 8)) (8 * (off % 8)) 8 else 0

/-- The bytes of a part read at its home. -/
def State.pieceBytes (s : State) (p : Piece) : List Nat := (toBytes p.n (s.homeRead p.pa p.n)).map fun b => b.toNat

/-- Row HOST_RDMA_READ (R157, R173, R218, R240): a poisoned line is NAKed. -/
def execHostRdmaRead (port key addr len : Nat) (s : State) : Out :=
  if s.dev.recovery then .next s
  else match s.dev.regionFor key 0 addr len with
    | none => .next (s.send port [nakWord])
    | some r =>
      if r.launch then .next (s.send port (0 :: (List.range len).map fun k => s.windowByte r.ctx (addr + k)))
      else match s.hostSpan r.ctx .read addr len with
        | .fail va => .next (s.hostFail port r.ctx 0 va)
        | .busy => .next (s.setInbox (s.inbox ++ [(s.now + 1, .hostRdmaRead port key addr len)]))
        | .ok ps =>
          if s.piecesPoisoned ps then .next (s.send port [nakWord])
          else .next ((ps.foldl (fun s p => s.recall p.pa p.n) s).send port (0 :: ps.flatMap s.pieceBytes))

/-- Row HOST_RDMA_ATOMIC (R157, R218): fetch-add or compare-swap of an aligned 64-bit word, answered with its old value
(DEDUCED, log entry 47). -/
def execHostRdmaAtomic (port key addr : Nat) (cas : Bool) (v cmp : Word) (s : State) : Out :=
  if s.dev.recovery then .next s
  else match s.dev.regionFor key 2 addr 8 with
    | none => .next (s.send port [nakWord])
    | some r =>
      if r.launch ∨ addr % 8 ≠ 0 then .next (s.send port [nakWord])
      else match s.hostSpan r.ctx .atomic addr 8 with
        | .busy => .next (s.setInbox (s.inbox ++ [(s.now + 1, .hostRdmaAtomic port key addr cas v cmp)]))
        | .ok (p :: _) =>
          if s.linePoisoned p.pa then .next (s.send port [nakWord])
          else
            let old := s.homeRead p.pa 8
            let new := if cas then (if old = cmp.toNat then v.toNat else old) else (old + v.toNat) % 2 ^ 64
            .next ((s.homeWrite r.ctx ⟨p.pa, p.va, 8, new, p.leaf.trk, false⟩).send port [0, old])
        | _ => .next (s.hostFail port r.ctx 2 addr)

/-! ## The management queue pair (R220, R253) -/

/-- The configuration record accepts a SEND (R253). -/
def DevSt.takes (d : DevSt) (src : ReqSrc) : Bool :=
  if d.cfgA = 0 ∧ d.cfgB = 0 then src.port == 0
  else src.addr != 0 && (src.addr == d.cfgA || src.addr == d.cfgB)

/-- A management request served: dropped where it is not accepted or the device is in recovery; else answered with a status
(DEDUCED, log entry 47). -/
def manage (src : ReqSrc) (f : State → Nat × State) (s : State) : Out :=
  if !s.dev.takes src ∨ s.dev.recovery then .next s
  else .next ((f s).2.send 0x10 [(f s).1])

/-- CTX and PORT of a management request. -/
def mgmtCtx (w0 : Word) : Nat := bits w0.toNat 50 6
def mgmtPort (w0 : Word) : Nat := bits w0.toNat 48 2
def mgmtKey (w0 : Word) : Nat := bits w0.toNat 0 32

/-- A region request has a field out of Table 7. -/
def badRegion (w0 w1 w2 w3 : Word) : Bool :=
  mgmtPort w0 != 0 || bits w0.toNat 32 12 != 0 || (bits w0.toNat 44 1 == 0 && bits w1.toNat 57 7 != 0) || w2 != 0 ||
    bits w3.toNat 48 16 != 0

/-- A binding request has a field out of Table 7. -/
def badBinding (unbind : Bool) (w0 w2 w3 : Word) : Bool :=
  bits w0.toNat 44 4 != 0 || bits w0.toNat 32 12 != 0 || bits w2.toNat 48 16 != 0 || bits w2.toNat 0 24 != 0 || w3 != 0 ||
    (unbind && w2 != 0)

/-- Row INSTALL_REGION (R220) (DESIGN CHOICE, log entry 46). -/
def execInstallRegion (src : ReqSrc) (w0 w1 w2 w3 : Word) (s : State) : Out :=
  manage src (fun s =>
    if badRegion w0 w1 w2 w3 then (1, s)
    else if (s.ctxs.find (mgmtCtx w0)).isNone then (2, s)
    else if 1024 ≤ s.dev.regions.length ∧ (s.dev.regions.find (mgmtKey w0)).isNone then (3, s)
    else
      let r : Region :=
        { key := mgmtKey w0, ctx := mgmtCtx w0, rights := bits w0.toNat 45 3, launch := bits w0.toNat 44 1 == 1
          base := bits w1.toNat 0 57, len := bits w3.toNat 0 48 }
      (0, s.updDev fun d => { d with regions := d.regions.put (mgmtKey w0) r })) s

/-- Row REMOVE_REGION (R220): the region of that key and context is gone (DESIGN CHOICE, log entry 46). -/
def execRemoveRegion (src : ReqSrc) (w0 w1 w2 w3 : Word) (s : State) : Out :=
  manage src (fun s =>
    if badRegion w0 w1 w2 w3 then (1, s)
    else if (s.ctxs.find (mgmtCtx w0)).isNone then (2, s)
    else (0, s.updDev fun d => { d with
      regions := d.regions.filter fun q => !(q.1 == mgmtKey w0 && q.2.ctx == mgmtCtx w0) })) s

/-- Row BIND_PORT (R219, R220): one binding per context and port. -/
def execBindPort (src : ReqSrc) (w0 w1 w2 w3 : Word) (s : State) : Out :=
  manage src (fun s =>
    if badBinding false w0 w2 w3 then (1, s)
    else if (s.ctxs.find (mgmtCtx w0)).isNone then (2, s)
    else (0, s.updDev fun d => { d with
      bindings := d.bindings.put (mgmtCtx w0 * 4 + mgmtPort w0) ⟨w1.toNat, mgmtKey w0, bits w2.toNat 24 24⟩ })) s

/-- Row UNBIND_PORT (R220). -/
def execUnbindPort (src : ReqSrc) (w0 _w1 w2 w3 : Word) (s : State) : Out :=
  manage src (fun s =>
    if badBinding true w0 w2 w3 then (1, s)
    else if (s.ctxs.find (mgmtCtx w0)).isNone then (2, s)
    else (0, s.updDev fun d => { d with bindings := d.bindings.del (mgmtCtx w0 * 4 + mgmtPort w0) })) s

/-- Row MALFORMED_MANAGEMENT_REQUEST (R220): an OP other than 0x01 to 0x04. -/
def execMalformedManagementRequest (src : ReqSrc) (op : Nat) (s : State) : Out :=
  if 1 ≤ op ∧ op ≤ 4 then .refused .notDue else manage src (fun s => (1, s)) s

end Sys2Proof.Machine
end

