-- ==== Sys2Proof/Machine/Integer.lean ====
section
/-! DEFINITION. Integer meanings: majors 0x01 to 0x07 of R278 (R319, R320, R321, R66), `sel` and `mov`, and the fixed-point pair
`fxmac` and `rngck` (R68, R103, R317). -/

namespace Sys2Proof.Machine

/-! ## Integer operations on one sub-element (R319 Table 3) -/

/-- The signed smaller, or the larger when `mx`. -/
def pickS (w : Nat) (mx : Bool) (x y : Nat) : Nat :=
  if decide (signed w x < signed w y) != mx then x else y
/-- The unsigned smaller, or the larger when `mx`. -/
def pickU (mx : Bool) (x y : Nat) : Nat := if decide (x < y) != mx then x else y
/-- x shifted left by y, 0 from y = w up. -/
def shl (w x y : Nat) : Nat := if y < w then x * 2 ^ y % 2 ^ w else 0
/-- x shifted right by y, 0 from y = w up. -/
def shr (w x y : Nat) : Nat := if y < w then x / 2 ^ y else 0
/-- x shifted right arithmetically by min(y, w − 1). -/
def sar (w x y : Nat) : Nat := wrap w (signed w x / 2 ^ min y (w - 1))
/-- x rotated left by y mod w. -/
def rotl (w x y : Nat) : Nat :=
  let r := y % w
  (x * 2 ^ r + x / 2 ^ (w - r)) % 2 ^ w
/-- Leading zero bits of x within w. -/
def clz : Nat → Nat → Nat
  | 0, _ => 0
  | w + 1, x => if bits x w 1 = 1 then 0 else 1 + clz w x
/-- 1 bits of x within w. -/
def popc : Nat → Nat → Nat
  | 0, _ => 0
  | w + 1, x => bits x w 1 + popc w x
/-- The low w bits of x in reverse order. -/
def brev : Nat → Nat → Nat
  | 0, _ => 0
  | w + 1, x => bits x w 1 + 2 * brev w x

/-- A condition of R320 Table 4. -/
def icondHolds (c : ICond) (w x y : Nat) : Bool :=
  match c with
  | .eq => x == y
  | .ne => x != y
  | .lt => decide (signed w x < signed w y)
  | .le => decide (signed w x ≤ signed w y)
  | .ltu => decide (x < y)
  | .leu => decide (x ≤ y)
  | .tst => (x &&& y) != 0
  | .ntst => (x &&& y) == 0

/-! ## Shared forms -/

/-- d(c)[e] := f(a(c)[e], b(c)[e]) (R319). -/
def int2 (i : Instr) (w : IWidth) (f : Nat → Nat → Nat) (d a b : Opnd) (v : View) : Act :=
  .next (v.writeD i d fun q => packed2 (ibits w) f (v.rd i a q) (v.rd i b q))
/-- d(c)[e] := f(a(c)[e]) (R319, unary). -/
def int1 (i : Instr) (w : IWidth) (f : Nat → Nat) (d a : Opnd) (v : View) : Act :=
  .next (v.writeD i d fun q => packed1 (ibits w) f (v.rd i a q))
/-- d(c) := f(d(c), a(c), b(c)) on whole copies. -/
def word3 (i : Instr) (f : Word → Word → Word → Word) (d a b : Opnd) (v : View) : Act :=
  .next (v.writeD i d fun q => f (v.rd i d q) (v.rd i a q) (v.rd i b q))
/-- The predicate bit of each active position (R320, R103). -/
def setBits (p : Nat) (f : Nat → Bool) (v : View) : PaneSt :=
  v.p.setPred p v.E (maskOf ((positions v.E).filter f))

/-! ## Majors 0x01 to 0x03 -/

/-- `iadd` (R319): Wrap(x + y). -/
def execIadd (w : IWidth) (d a b : Opnd) (s : State) : Out :=
  let W := ibits w
  issue (.iadd w d a b) (int2 (.iadd w d a b) w (fun x y => (x + y) % 2 ^ W) d a b) s

/-- `isub` (R319): Wrap(x − y). -/
def execIsub (w : IWidth) (d a b : Opnd) (s : State) : Out :=
  let W := ibits w
  issue (.isub w d a b) (int2 (.isub w d a b) w (fun x y => wrap W (x - y)) d a b) s

/-- `imul` (R319): Wrap(S(x) · S(y)). -/
def execImul (w : IWidth) (d a b : Opnd) (s : State) : Out :=
  let W := ibits w
  issue (.imul w d a b) (int2 (.imul w d a b) w (fun x y => wrap W (signed W x * signed W y)) d a b) s

/-- `imulh` (R319): Wrap(Floor(S(x) · S(y) / 2^w)). -/
def execImulh (w : IWidth) (d a b : Opnd) (s : State) : Out :=
  let W := ibits w
  issue (.imulh w d a b) (int2 (.imulh w d a b) w (fun x y => wrap W (signed W x * signed W y / 2 ^ W)) d a b) s

/-- `imin` (R319): the signed minimum. -/
def execImin (w : IWidth) (d a b : Opnd) (s : State) : Out :=
  let W := ibits w
  issue (.imin w d a b) (int2 (.imin w d a b) w (fun x y => pickS W false x y) d a b) s

/-- `imax` (R319): the signed maximum. -/
def execImax (w : IWidth) (d a b : Opnd) (s : State) : Out :=
  let W := ibits w
  issue (.imax w d a b) (int2 (.imax w d a b) w (fun x y => pickS W true x y) d a b) s

/-- `iminu` (R319): the unsigned minimum. -/
def execIminu (w : IWidth) (d a b : Opnd) (s : State) : Out :=
  issue (.iminu w d a b) (int2 (.iminu w d a b) w (fun x y => pickU false x y) d a b) s

/-- `imaxu` (R319): the unsigned maximum. -/
def execImaxu (w : IWidth) (d a b : Opnd) (s : State) : Out :=
  issue (.imaxu w d a b) (int2 (.imaxu w d a b) w (fun x y => pickU true x y) d a b) s

/-- `iand` (R319): x and y. -/
def execIand (w : IWidth) (d a b : Opnd) (s : State) : Out :=
  issue (.iand w d a b) (int2 (.iand w d a b) w (fun x y => x &&& y) d a b) s

/-- `ior` (R319): x or y. -/
def execIor (w : IWidth) (d a b : Opnd) (s : State) : Out :=
  issue (.ior w d a b) (int2 (.ior w d a b) w (fun x y => x ||| y) d a b) s

/-- `ixor` (R319): x xor y. -/
def execIxor (w : IWidth) (d a b : Opnd) (s : State) : Out :=
  issue (.ixor w d a b) (int2 (.ixor w d a b) w (fun x y => x ^^^ y) d a b) s

/-- `iandn` (R319): x and not y. -/
def execIandn (w : IWidth) (d a b : Opnd) (s : State) : Out :=
  let W := ibits w
  issue (.iandn w d a b) (int2 (.iandn w d a b) w (fun x y => x &&& (2 ^ W - 1 - y)) d a b) s

/-- `ishl` (R319): Wrap(U(x) · 2^U(y)), 0 from a count of w up. -/
def execIshl (w : IWidth) (d a b : Opnd) (s : State) : Out :=
  let W := ibits w
  issue (.ishl w d a b) (int2 (.ishl w d a b) w (fun x y => shl W x y) d a b) s

/-- `ishr` (R319): Floor(U(x) / 2^U(y)), 0 from a count of w up. -/
def execIshr (w : IWidth) (d a b : Opnd) (s : State) : Out :=
  let W := ibits w
  issue (.ishr w d a b) (int2 (.ishr w d a b) w (fun x y => shr W x y) d a b) s

/-- `isar` (R319): Floor(S(x) / 2^min(U(y), w − 1)). -/
def execIsar (w : IWidth) (d a b : Opnd) (s : State) : Out :=
  let W := ibits w
  issue (.isar w d a b) (int2 (.isar w d a b) w (fun x y => sar W x y) d a b) s

/-- `irot` (R319): x rotated left by U(y) mod w. -/
def execIrot (w : IWidth) (d a b : Opnd) (s : State) : Out :=
  let W := ibits w
  issue (.irot w d a b) (int2 (.irot w d a b) w (fun x y => rotl W x y) d a b) s

/-- `iabs` (R319): Wrap(|S(x)|). -/
def execIabs (w : IWidth) (d a : Opnd) (s : State) : Out :=
  let W := ibits w
  issue (.iabs w d a) (int1 (.iabs w d a) w (fun x => wrap W ((signed W x).natAbs : Int)) d a) s

/-- `iclz` (R319): leading zero bits of x within w. -/
def execIclz (w : IWidth) (d a : Opnd) (s : State) : Out :=
  let W := ibits w
  issue (.iclz w d a) (int1 (.iclz w d a) w (fun x => clz W x) d a) s

/-- `ipopc` (R319): 1 bits of x. -/
def execIpopc (w : IWidth) (d a : Opnd) (s : State) : Out :=
  let W := ibits w
  issue (.ipopc w d a) (int1 (.ipopc w d a) w (fun x => popc W x) d a) s

/-- `ibrev` (R319): x with its bits reversed. -/
def execIbrev (w : IWidth) (d a : Opnd) (s : State) : Out :=
  let W := ibits w
  issue (.ibrev w d a) (int1 (.ibrev w d a) w (fun x => brev W x) d a) s

/-- `iadds` (R319): Clamp(S(x) + S(y)). -/
def execIadds (w : IWidth) (d a b : Opnd) (s : State) : Out :=
  let W := ibits w
  issue (.iadds w d a b) (int2 (.iadds w d a b) w (fun x y => wrap W (clampS W (signed W x + signed W y))) d a b) s

/-- `isubs` (R319): Clamp(S(x) − S(y)). -/
def execIsubs (w : IWidth) (d a b : Opnd) (s : State) : Out :=
  let W := ibits w
  issue (.isubs w d a b) (int2 (.isubs w d a b) w (fun x y => wrap W (clampS W (signed W x - signed W y))) d a b) s

/-- `imad` (R319): Wrap(S(x) · S(y) + S(z)), z being d before the instruction. -/
def execImad (w : IWidth) (d a b : Opnd) (s : State) : Out :=
  let i := Instr.imad w d a b
  let W := ibits w
  issue i (word3 i (fun z x y => packed3 W (fun x y z => wrap W (signed W x * signed W y + signed W z)) x y z) d a b) s

/-- `imulhu` (R319): Floor(U(x) · U(y) / 2^w). -/
def execImulhu (w : IWidth) (d a b : Opnd) (s : State) : Out :=
  let W := ibits w
  issue (.imulhu w d a b) (int2 (.imulhu w d a b) w (fun x y => x * y / 2 ^ W) d a b) s

/-- `icmp` (R320): sub-element [0] decides the bit of each active position. -/
def execIcmp (c : ICond) (w : IWidth) (p : Nat) (a b : Opnd) (s : State) : Out :=
  let i := Instr.icmp c w p a b
  issue i (fun v => .next (v.withPane (setBits p (fun q =>
    icondHolds c (ibits w) (sub (ibits w) 0 (v.rd i a q)) (sub (ibits w) 0 (v.rd i b q))) v))) s

/-! ## Bit fields (R321) -/

/-- Position and effective length that b gives. -/
def fieldOf (b : Word) : Nat × Nat :=
  let P := bits b.toNat 0 6
  (P, min (bits b.toNat 8 7) (64 - P))

/-- `ibfx` (R321): the field zero-extended. -/
def execIbfx (d a b : Opnd) (s : State) : Out :=
  let i := Instr.ibfx d a b
  issue i (word3 i (fun _ x y => w64 (bits x.toNat (fieldOf y).1 (fieldOf y).2)) d a b) s

/-- `ibfx.s` (R321): the field sign-extended, 0 when its length is 0. -/
def execIbfxS (d a b : Opnd) (s : State) : Out :=
  let i := Instr.ibfxS d a b
  issue i (word3 i (fun _ x y =>
    let L := (fieldOf y).2
    if L = 0 then 0 else w64 (wrap 64 (signed L (bits x.toNat (fieldOf y).1 L)))) d a b) s

/-- `ibfi` (R321): the low bits of a in place of the field of d. -/
def execIbfi (d a b : Opnd) (s : State) : Out :=
  let i := Instr.ibfi d a b
  issue i (word3 i (fun z x y =>
    let P := (fieldOf y).1
    let L := (fieldOf y).2
    w64 (z.toNat / 2 ^ (P + L) * 2 ^ (P + L) + bits x.toNat 0 L * 2 ^ P + z.toNat % 2 ^ P)) d a b) s

/-! ## Moves (R360, R342) -/

/-- `sel` (R360): each active position takes a where its predicate bit is 1, else b. -/
def execSel (p : Nat) (d a : Opnd) (b : Fin 64) (s : State) : Out :=
  let i := Instr.sel p d a b
  issue i (fun v => .next (v.writeD i d fun q => if bitAt (v.p.pred p) q then v.rd i a q else v.rd i (.v b) q)) s

/-- `mov` (R342): all 64 bits, copy by copy. -/
def execMov (d a : Opnd) (s : State) : Out :=
  let i := Instr.mov d a
  issue i (fun v => .next (v.writeD i d fun q => v.rd i a q)) s

/-! ## Fixed point (R68, R103) -/

/-- An integer lies in the signed 64-bit range. -/
def in64 (x : Int) : Bool := decide (-(2 ^ 63 : Int) ≤ x) && decide (x < 2 ^ 63)

/-- The shifted product of `fxmac`, exact (R317). -/
def fxProduct (sh : Nat) (a b : Word) : Int := a.toInt * b.toInt / 2 ^ (4 * sh)

/-- The sum of `fxmac`, clamped, and whether RV is set (R317). -/
def fxStep (sh : Nat) (d a b : Word) : Word × Bool :=
  let q := fxProduct sh a b
  let t := d.toInt + q
  (w64 (wrap 64 (clampS 64 t)), !(in64 q && in64 t))

/-- `fxmac` (R317): the accumulated product under a shift of 4·sh, clamped, with RV. -/
def execFxmac (sh : Nat) (d a b : Opnd) (s : State) : Out :=
  let i := Instr.fxmac sh d a b
  issue i (fun v =>
    let st := fun q => fxStep sh (v.rd i d q) (v.rd i a q) (v.rd i b q)
    .next (v.withFlags (v.writeD i d fun q => (st q).1) (if (v.slots i).any fun q => (st q).2 then flRV else 0))) s

/-- A value outside −2^n to 2^n − 1, for n ≤ 62 (R103). -/
def outside (n : Nat) (x : Word) : Bool := decide (n ≤ 62) && (decide (x.toInt < -(2 ^ n : Int)) || decide ((2 ^ n : Int) ≤ x.toInt))

/-- `rngck` (R103, R356): marks the active positions out of range, with RV if any. -/
def execRngck (p : Nat) (a b : Opnd) (s : State) : Out :=
  let i := Instr.rngck p a b
  issue i (fun v =>
    let bad := fun q => outside (v.rd i b 0).toNat (v.rd i a q)
    .next (v.withFlags (v.withPane (setBits p bad v)) (if (positions v.E).any bad then flRV else 0))) s

end Sys2Proof.Machine
end

