-- ==== Sys2Proof/Machine/Pivot.lean ====
section
/-! DEFINITION. Pivots: `pvsel` and `pvreg` (R101, R102, R351). -/

namespace Sys2Proof.Machine

/-- The magnitude of a code, NaN above every other (R101). -/
def pivotKey (f : Fmt) (c : Nat) : Nat := if f.isNaN c then 2 ^ 64 else c % 2 ^ (f.eb + f.fb)

/-- The chosen lane of a member (R101): the largest key, the lowest lane on a tie; none without a candidate. -/
def pivotLane (v : View) (i : Instr) (f : Fmt) (a : Opnd) (k m : Nat) : Option (Nat × Nat) :=
  let cands := ((List.range 32).filter fun l => k ≤ l && bitAt v.E (posOf l m)).map fun l =>
    (l, pivotKey f (bits (v.rd i a (posOf l m)).toNat 0 f.width))
  match cands with
  | [] => none
  | c :: r => some (r.foldl (fun b x => if b.2 < x.2 then x else b) c)

/-- `pvsel` (R101): the pivot lane of each member; PZ for a zero pivot or none (DEDUCED, log entry 20). -/
def execPvsel (f32 : Bool) (d a b : Opnd) (s : State) : Out :=
  let i := Instr.pvsel f32 d a b
  let f := if f32 then Fmt.f32 else Fmt.f64
  issue i (fun v =>
    let pick := fun q => pivotLane v i f a (v.scalar b) (q / 32)
    let zero := fun q => match pick q with
      | none => true
      | some (_, key) => key == 0
    .next (v.withFlags (v.writeD i d fun q => match pick q with
        | none => w64 (2 ^ 64 - 1)
        | some (l, _) => w64 l) (if (positions v.E).any zero then flPZ else 0))) s

/-- One element regularised (R102), and whether PT is set. -/
def regularise (f : Fmt) (a b : Nat) : FRes :=
  let t := b % 2 ^ (f.eb + f.fb)
  if f.isNaN a ∨ f.isNaN b ∨ t ≤ a % 2 ^ (f.eb + f.fb) then ⟨a, 0, false⟩
  else ⟨t + (if f.neg a then 2 ^ (f.eb + f.fb) else 0), flPT, false⟩

/-- `pvreg` (R102): each element at least τ in magnitude. -/
def execPvreg (f32 : Bool) (d a b : Opnd) (s : State) : Out :=
  let i := Instr.pvreg f32 d a b
  let f := if f32 then Fmt.f32 else Fmt.f64
  let w := f.width
  issue i (fun v =>
    let r := fun q => joinSubs w ((List.range (64 / w)).map fun e =>
      regularise f (sub w e (v.rd i a q)) (sub w e (v.rd i b q)))
    .next (v.withFlags (v.writeD i d fun q => w64 (r q).1)
      (if (v.slots i).any fun q => (r q).2 != 0 then flPT else 0))) s

end Sys2Proof.Machine
end

