-- ==== Sys2Proof/Machine/Platform.lean ====
section
/-! DEFINITION. The platform queue pair (R248), contexts (R249), identity (R250), firmware (R251, R252), configuration (R253),
attestation (R254), reset (R255), power (R256), keys and stations (R207, R215 to R217), expanders (R141). -/

namespace Sys2Proof.Machine

/-! ## The platform queue pair (R248, R252, R253) -/

/-- The answer to a platform request (DEDUCED, log entry 48). -/
def State.reply (s : State) (ws : List Nat) : State := s.send 0x11 ws

/-- A platform request served: dropped where the configuration record does not accept it; in recovery every OP but three is
answered with status 2. -/
def platform (src : ReqSrc) (inRecovery : Bool) (f : State → State) (s : State) : Out :=
  if !s.dev.takes src then .next s
  else if s.dev.recovery ∧ !inRecovery then .next (s.reply [2])
  else .next (f s)

/-- Row MALFORMED_PLATFORM_REQUEST (R248): an OP other than 0x10 to 0x18. -/
def execMalformedPlatformRequest (src : ReqSrc) (op : Nat) (s : State) : Out :=
  if 0x10 ≤ op ∧ op ≤ 0x18 then .refused .notDue else platform src false (fun s => s.reply [1]) s

/-! ## Contexts (R249) -/

/-- A reserved bit of one of a definition's four words is set. -/
def badDefinition (root phv psv fring : Word) : Bool :=
  ptrootBits root.toNat != root || w64 (bits phv.toNat 2 55 * 4) != phv || w64 (bits psv.toNat 2 55 * 4) != psv ||
    w64 (bits fring.toNat 6 51 * 64) != fring

/-- A context to be defined from the next ac (R249): four registers given, DGEN drawn, the rest at reset (DESIGN CHOICE, log
entry 9). -/
def State.define (s : State) (ctx : Nat) (root phv psv fring : Word) : State :=
  let g := (Config.dgenDraw s.free).toNat * 2 ^ 16
  (s.setFree (s.free + 1)).updDev fun d => { d with
    defining := d.defining.put ctx { CtxSt.start g with ptroot := root, phv := phv, psv := psv, fring := fring } }

/-- What answers of this ac make take effect in the next: contexts defined, the configuration record replaced (R249, R253). -/
def State.takeEffect (s : State) : State :=
  (s.dev.defining.foldl (fun s q => ((s.invalidate q.1).putCtx q.1 q.2).updDev fun d =>
    { d with refusedUndef := d.refusedUndef.del q.1 }) s).updDev fun d => { d with
      defining := []
      cfgA := (d.newCfg.map Prod.fst).getD d.cfgA
      cfgB := (d.newCfg.map Prod.snd).getD d.cfgB
      newCfg := none }

/-- Row DEFINE_CONTEXT (R249). -/
def execDefineContext (src : ReqSrc) (ctx : Nat) (root phv psv fring : Word) (s : State) : Out :=
  platform src false (fun s =>
    if (s.ctxs.find (ctx % 64)).isSome ∨ (s.dev.defining.find (ctx % 64)).isSome then s.reply [3]
    else if badDefinition root phv psv fring then s.reply [1]
    else (s.define (ctx % 64) root phv psv fring).reply [0]) s

/-- A context undefined (R249): its work discarded, its last record written where its ring takes one, its regions, bindings and
registers gone. -/
def State.undefine (s : State) (ctx : Nat) : State :=
  let s1 := s.discard ctx
  let s2 := ((s1.ringRecord ctx [0x05 * 2 ^ 56, 0, 0, 0]).getD s1).invalidate ctx
  let s3 := s2.setPend (s2.pend.filter fun q => match q.2.work with
    | .frozenClear c _ => c != ctx
    | _ => true)
  (s3.setCtxs (s3.ctxs.del ctx)).updDev fun d => { d with
    regions := d.regions.filter fun q => q.2.ctx ≠ ctx
    bindings := d.bindings.filter fun q => q.1 / 4 ≠ ctx }

/-- Row UNDEFINE_CONTEXT (R249). -/
def execUndefineContext (src : ReqSrc) (ctx : Nat) (s : State) : Out :=
  platform src false (fun s =>
    if (s.ctxs.find (ctx % 64)).isNone then s.reply [3] else (s.undefine (ctx % 64)).reply [0]) s

/-! ## Identity and attestation (R250, R254) -/

/-- Row IDENTITY_CERTIFICATES (R250). -/
def execIdentityCertificates (src : ReqSrc) (s : State) : Out :=
  platform src true (fun s =>
    s.reply (0 :: (List.range Config.certificateLength).map fun k => (Config.certificateByte k).toNat)) s

/-- The image that runs, or is staged: the factory's until another has been staged. -/
def imageOr (image : List Byte) : List Byte := if image.isEmpty then Config.factoryImage else image

/-- Bytes 0 to 103 of an attestation report (R254 Table 3). -/
def DevSt.report (d : DevSt) (nonce : List Word) : List Byte :=
  toBytes 8 (Config.model + d.step % 65536 * 2 ^ 16 + 2 ^ 32) ++ toBytes 8 (d.enabled % 2 ^ 64) ++ toBytes 8 (d.enabled / 2 ^ 64) ++
    sha256 ((imageOr d.running).take 56) ++ nonce.flatMap (fun w => toBytes 8 w.toNat) ++ toBytes 8 d.resets ++
    toBytes 8 d.rollback

/-- Row ATTEST (R254): the report and its two signatures. -/
def execAttest (src : ReqSrc) (n0 n1 n2 n3 : Word) (s : State) : Out :=
  platform src false (fun s =>
    let r := s.dev.report [n0, n1, n2, n3]
    s.reply (0 :: (r.map fun b => b.toNat) ++ (List.range 3373).map fun k => (Config.attestSignature r k).toNat)) s

/-! ## Firmware and configuration (R251 to R253) -/

/-- A number of n bytes at a place of an image. -/
def imageNat (image : List Byte) (a n : Nat) : Nat := ofBytes ((image.drop a).take n)

/-- An image is accepted (R251) (DEDUCED, log entry 50). -/
def imageAccepted (d : DevSt) (image : List Byte) : Bool :=
  let len := imageNat image 16 8
  decide (4096 + len ≤ image.length) && decide (1 ≤ len) && decide (len ≤ 64 * 2 ^ 20) &&
    (((image.drop 3429).take 667).all fun b => b == 0) && Config.signaturesVerify (image.take 3429) &&
    (sha256 ((image.drop 4096).take len) == (image.drop 24).take 32) && decide (d.rollback ≤ imageNat image 8 8)

/-- Row STAGE_FIRMWARE (R251, R252): a rejected image leaves the staging flash unchanged. -/
def execStageFirmware (src : ReqSrc) (image : List Byte) (s : State) : Out :=
  platform src true (fun s =>
    if imageAccepted s.dev image then
      (s.updDev fun d => { d with staged := image, rollback := max d.rollback (imageNat image 8 8) }).reply [0]
    else s.reply [1]) s

/-- Row SET_CONFIGURATION (R253): words 1 and 2 carry A, words 3 and 4 B, byte 0 of an address first; the whole record is
replaced from the ac after the answer. -/
def execSetConfiguration (src : ReqSrc) (a b : Word × Word) (s : State) : Out :=
  platform src false (fun s =>
    (s.reply [0]).updDev fun d => { d with newCfg := some (a.1.toNat + 2 ^ 64 * a.2.toNat, b.1.toNat + 2 ^ 64 * b.2.toNat) }) s

/-! ## Reset (R255, R257) -/

/-- The expanders that reset enumerates: each port's window holds at most 1 TiB (R141). -/
def enumerated (es : List (Nat × Nat)) : List (Nat × Nat) :=
  (List.range 8).filterMap fun e => (es.find? fun q => q.1 = e).map fun q => (e, min q.2 (2 ^ 20))

/-- The device after the steps of R255: what survives is the staging flash, the fused counter, what the fabric and the ports
hold, and the units that self-tests have fenced; exchanges start with every node that the fabric connects (R217) (DEDUCED, log
entry 49). -/
def DevSt.restart (d : DevSt) (bad : List Nat) (attached : List (Nat × Nat)) (draw : Nat) : DevSt :=
  let ok := imageAccepted d (imageOr d.staged)
  { DevSt.start with
    enabled := bitsOf (d.cores.filter fun c => !bad.contains c)
    spares := d.spares
    fencedWays := d.fencedWays
    step := d.step
    node := d.node
    attached := attached
    mapped := enumerated attached
    cfgA := (d.newCfg.map Prod.fst).getD d.cfgA
    cfgB := (d.newCfg.map Prod.snd).getD d.cfgB
    staged := d.staged
    running := if ok then d.staged else d.running
    rollback := d.rollback
    resets := d.resets + 1
    recovery := !ok
    answers := d.answers
    peers := d.peers
    dgenBase := draw
    exchanges := if ok then d.peers.foldl (fun m q => Map.put m q.2 0) [] else [] }

/-- The source of a request to the platform queue pair (R248). -/
def platformSrc : Instr → Option ReqSrc
  | .attest c .. | .stageFirmware c _ | .setPowerLimit c _ | .identityCertificates c | .powerReport c | .defineContext c ..
  | .undefineContext c _ | .setConfiguration c .. | .malformedPlatformRequest c _ => some c
  | .reset q => some q.src
  | _ => none

/-- An input that comes from the device's own hardware, not through a port. -/
def ownInput : Instr → Bool
  | .correctedError _ | .selfTestResult .. | .uncorrectableError .. | .stationDown _ | .stationUp .. | .expanderRemoved _
  | .expanderAttached .. | .powerOnReset .. => true
  | _ => false

/-- The inputs left by a reset of n ac (R255): the ports take none of those that arrive during it. -/
def inboxAfter (now n : Nat) (inbox : List (Nat × Instr)) : List (Nat × Instr) :=
  (inbox.filter fun q => decide (now + n ≤ q.1) || ownInput q.2).map fun q => (q.1 - (now + n), q.2)

/-- The answers of step 6 (R248, R255): status 2 for each platform request that arrived during the reset. -/
def DevSt.lateAnswers (d : DevSt) (now n : Nat) (inbox : List (Nat × Instr)) : List Answer :=
  (inbox.filter fun q => decide (q.1 < now + n) && ((platformSrc q.2).map d.takes).getD false).map fun _ => ⟨0x11, [2]⟩

/-- THE RESET SEQUENCE (R255), which takes n ac: nothing resident, no context defined, vaults zero, clocks zero, a DGEN drawn for
every context; memory as `m` gives it (DEDUCED, log entry 49). -/
def State.restart (s : State) (n : Nat) (bad : List Nat) (attached : List (Nat × Nat)) (m : Memory) (images : List Img)
    (poison : List Site) : State :=
  let d := s.dev.restart bad attached s.free
  { State.reset with
    nextId := s.nextId
    free := s.free + 64
    inbox := inboxAfter s.now n s.inbox
    mem := m
    images := images
    poison := poison
    dev := { d with answers := d.answers ++ d.lateAnswers s.now n s.inbox } }

/-- Row RESET (R255): answered before it begins; it takes `q.len` ac and leaves out the cores whose self-test fails; HBM4E and
second-tier memory keep their bytes, the vaults do not (DEDUCED, log entry 49). -/
def execReset (q : ResetReq) (s : State) : Out :=
  platform q.src true (fun s =>
    let s1 := (s.reply [0]).eraseRange Config.vaultBase (Config.vaultBase + 2 ^ 29)
    s1.restart q.len q.bad s.dev.attached s1.mem s1.images (s1.poison.filter fun x => match x with
      | .line _ => true
      | _ => false)) s

/-- Row POWER_ON_RESET (R255): cores whose self-test fails are left out, the attached expanders are enumerated, and memory is as
nothing has written it (DEDUCED, log entry 49). -/
def execPowerOnReset (bad : List Nat) (expanders : List (Nat × Nat)) (s : State) : Out :=
  .next (s.restart 0 bad expanders [] [] [])

/-! ## Power (R256, R257) -/

/-- Row POWER_REPORT (R256 Table 4). -/
def execPowerReport (src : ReqSrc) (s : State) : Out :=
  platform src false (fun s =>
    let d := s.dev
    s.reply ([0, d.average % 2 ^ 32 + d.limit * 2 ^ 32, d.clock + d.downSteps * 2 ^ 32] ++
      (List.range 22).map fun k => d.watts.getD k 0 % 2 ^ 32)) s

/-- Row SET_POWER_LIMIT (R256): it applies from the next report. -/
def execSetPowerLimit (src : ReqSrc) (watts : Word) (s : State) : Out :=
  platform src false (fun s =>
    if watts.toNat < 1600 ∨ 3200 < watts.toNat then s.reply [1]
    else (s.updDev fun d => { d with newLimit := watts.toNat }).reply [0]) s

/-- One step of the ac clock (R256) (DEDUCED, log entry 50). -/
def DevSt.throttle (d : DevSt) (avg : Nat) : DevSt :=
  if d.limit < avg then
    if 525000 < d.clock then
      { d with clock := d.clock - 26250, downSteps := min (d.downSteps + 1) (2 ^ 32 - 1), calm := 0 }
    else { d with calm := 0 }
  else if avg + 100 < d.limit then
    if 99 ≤ d.calm then { d with clock := min (d.clock + 26250) 1050000, calm := 0 } else { d with calm := d.calm + 1 }
  else { d with calm := 0 }

/-- The package average over the last 1 ms: of the figures of the last 100 reports, or of those made since reset (R256) (DEDUCED,
log entry 50). -/
def averageOf (figures : List Nat) : Nat := figures.foldl (· + ·) 0 / max 1 figures.length

/-- Row BLOCK_POWER_REPORT (R256): the blocks' reports of one 10 µs interval, which with the regulation loss sum to the package
figure. -/
def execBlockPowerReport (watts : List Nat) (loss : Nat) (s : State) : Out :=
  .next (s.updDev fun d =>
    let fs := ((watts.foldl (· + ·) loss) :: d.figures).take 100
    { d with limit := d.newLimit, watts := watts, figures := fs, average := averageOf fs }.throttle (averageOf fs))

/-! ## Keys, stations and expanders (R141, R207, R215 to R217) -/

/-- ac in a millisecond. -/
def DevSt.perMs (d : DevSt) : Nat := d.clock

/-- A node's exchange has failed: it is tried again after 1 s (R217). -/
def State.retryKey (s : State) (node : Nat) : State :=
  s.updDev fun d => { d with exchanges := d.exchanges.put node (s.now + 1000 * d.perMs) }

/-- Row KEY_EXCHANGE (R217): the first key of a pair enters slot 0, or the pair stays without one (DEDUCED, log entry 50). -/
def execKeyExchange (node : Nat) (ok : Bool) (s : State) : Out :=
  .next (if (s.dev.keys.find node).isSome ∨ s.dev.recovery then s
    else if ok then s.updDev fun d => { d with keys := d.keys.put node ⟨0, none, false, [], false⟩, exchanges := d.exchanges.del node }
    else s.retryKey node)

/-- An exchange that has not finished within 10 ms. -/
def State.keyLate (s : State) (node : Nat) : Bool :=
  ((s.dev.exchanges.find node).map fun t => decide (t + 10 * s.dev.perMs ≤ s.now)).getD false

/-- Row KEY_EXCHANGE_TIMEOUT (R217). -/
def execKeyExchangeTimeout (node : Nat) (s : State) : Out := if s.keyLate node then .next (s.retryKey node) else .refused .notDue

/-- A request to a node sealed under a slot is neither answered nor timed out (R216). -/
def State.sealedOpen (s : State) (node slot : Nat) : Bool :=
  s.pend.vals.any fun p => p.work.reqs.any fun r => !r.host && r.node == node && r.slot == some slot && r.answer.isNone

/-- The requests held for want of a counter sealed under a node's new key, in order (R216). -/
def State.sealHeld (s : State) (node : Nat) : State :=
  s.pend.foldl (fun s q =>
    let (s1, rs) := q.2.work.reqs.foldl (fun (a : State × List RemReq) r =>
      if r.held ∧ r.node = node ∧ !r.host ∧ r.answer.isNone then
        let (s1, slot) := a.1.sealTo node (r.station.getD 0)
        (s1, a.2 ++ [{ r with slot := slot, held := slot.isNone }])
      else (a.1, a.2 ++ [r])) (s, [])
    if q.2.work.reqs.any RemReq.held then s1.putPend { q.2 with work := q.2.work.withReqs rs } else s) s

/-- Row KEY_ROTATION (R216): the new key enters the inactive slot, once nothing sealed under the key it replaces is outstanding,
and the send slot changes; what was held for want of a counter is sealed (DEDUCED, log entry 50). -/
def execKeyRotation (node : Nat) (s : State) : Out :=
  match s.dev.keys.find node with
  | none => .next s
  | some k =>
    let new := 1 - k.slot
    if s.sealedOpen node new then .next (s.setInbox (s.inbox ++ [(s.now + 1, .keyRotation node)]))
    else
      let k' : KeySt := ⟨new, none, true, k.counters.filter fun q => decide (q.1 / 16 ≠ new), false⟩
      let s1 := (s.updDev fun d => { d with keys := d.keys.put node k' }).sealHeld node
      .next (s1.updDev fun d => { d with keys := d.keys.map fun q => if q.1 = node then (q.1, { q.2 with since := some s.now }) else q })

/-- Row STATION_DOWN (R207): later requests map over the stations that remain. -/
def execStationDown (k : Nat) (s : State) : Out := .next (s.dropStation (k % 16))

/-- Row STATION_UP (R217): a station comes up and reaches these nodes; an exchange with each of them that holds no key starts
now. -/
def execStationUp (l : LinkUp) (s : State) : Out :=
  .next (s.updDev fun d => { d with
    stations := d.stations ||| 2 ^ (l.station % 16)
    peers := (d.peers ++ l.nodes.map fun n => (l.station % 16, n)).eraseDups
    exchanges := if d.recovery then d.exchanges
      else (l.nodes.filter fun n => n ≠ d.node ∧ (d.keys.find n).isNone).foldl (fun m n => Map.put m n s.now) d.exchanges })

/-- Row EXPANDER_REMOVED (R141): its window is unpopulated, and its bytes are gone (DEDUCED, log entry 50). -/
def execExpanderRemoved (e : Nat) (s : State) : Out :=
  .next ((s.eraseRange (Config.cxlBase + e * 2 ^ 40) (Config.cxlBase + (e + 1) * 2 ^ 40)).updDev fun d => { d with
    attached := d.attached.filter fun q => q.1 ≠ e
    gone := e :: d.gone.filter fun k => k ≠ e })

/-- Row EXPANDER_ATTACHED (R141): it is enumerated at the next reset. -/
def execExpanderAttached (e mib : Nat) (s : State) : Out :=
  .next (s.updDev fun d => { d with attached := d.attached.filter (fun q => q.1 ≠ e) ++ [(e, mib)] })

end Sys2Proof.Machine
end

