-- ==== Sys2Proof/Machine/Predicate.lean ====
section
/-! DEFINITION. Predicate and mask meanings: major 0x10 (R348, R349). -/

namespace Sys2Proof.Machine

/-- pk := f(pa, pb) at the active positions (R349). -/
def predOp (k : Nat) (f : PaneSt → Mask) (v : View) : Act := .next (v.withPane (v.p.setPred k v.E (f v.p)))

/-- `pand` (R349). -/
def execPand (k a b : Nat) (s : State) : Out := issue (.pand k a b) (predOp k fun p => p.pred a &&& p.pred b) s
/-- `por` (R349). -/
def execPor (k a b : Nat) (s : State) : Out := issue (.por k a b) (predOp k fun p => p.pred a ||| p.pred b) s
/-- `pxor` (R349). -/
def execPxor (k a b : Nat) (s : State) : Out := issue (.pxor k a b) (predOp k fun p => p.pred a ^^^ p.pred b) s
/-- `pandn` (R349): pa and not pb. -/
def execPandn (k a b : Nat) (s : State) : Out := issue (.pandn k a b) (predOp k fun p => p.pred a &&& ~~~p.pred b) s
/-- `pset` (R349). -/
def execPset (k : Nat) (s : State) : Out := issue (.pset k) (predOp k fun _ => ~~~(0 : Mask)) s
/-- `pclr` (R349). -/
def execPclr (k : Nat) (s : State) : Out := issue (.pclr k) (predOp k fun _ => 0) s

/-- `xmld` (R349): the unit's mask becomes pk within its domain. -/
def execXmld (k : Nat) (s : State) : Out :=
  issue (.xmld k) (fun v => .next (v.s.updUnit v.uid fun u => { u with xm := v.p.pred k &&& u.domain })) s

/-- `xmst` (R349): pk becomes the mask at every position of the domain. -/
def execXmst (k : Nat) (s : State) : Out :=
  issue (.xmst k) (fun v => .next (v.withPane (v.p.setPred k v.u.domain v.u.xm))) s

/-- `xmand` (R349): the mask limited to pk within the domain. -/
def execXmand (k : Nat) (s : State) : Out :=
  issue (.xmand k) (fun v => .next (v.s.updUnit v.uid fun u => { u with xm := u.xm &&& v.p.pred k })) s

/-- `pcnt` (R349): the number of active positions whose bit is 1. -/
def execPcnt (d : Opnd) (k : Nat) (s : State) : Out :=
  let i := Instr.pcnt d k
  issue i (fun v => .next (v.writeD i d fun _ => w64 (countOf (v.E &&& v.p.pred k)))) s

/-- `pbits` (R349): the bits of the active lanes of member a mod M. -/
def execPbits (d : Opnd) (k : Nat) (a : Opnd) (s : State) : Out :=
  let i := Instr.pbits d k a
  issue i (fun v => .next (v.writeD i d fun _ =>
    w64 ((v.E &&& v.p.pred k).toNat / 2 ^ (32 * (v.scalar a % v.M)) % 2 ^ 32))) s

end Sys2Proof.Machine
end

