-- ==== Sys2Proof/Machine/Elementary.lean ====
section
/-! DEFINITION. The exact values of the special functions (R75 Table 5) as dyadic numbers whose error lies far below every
bound of the table (log entry 10): fixed point over natural numbers, and series cut where their terms vanish. -/

namespace Sys2Proof.Machine

/-- A number (−1)^neg · mag · 2^ex. -/
structure Approx where
  neg : Bool
  mag : Nat
  ex : Int
deriving DecidableEq, Repr

/-- Working bits behind the binary point. -/
def workBits : Nat := 192

/-- m · 2^e as a fixed-point number with P bits behind the point, rounded down, or up where asked. -/
def fixed (P m : Nat) (e : Int) (up : Bool) : Nat :=
  let k := e + P
  if 0 ≤ k then m * 2 ^ k.toNat else m / 2 ^ (-k).toNat + (if up && m % 2 ^ (-k).toNat != 0 then 1 else 0)

/-- A series of positive terms: the next term follows from the last and its index, until one vanishes. -/
def series (next : Nat → Nat → Nat) : Nat → Nat → Nat → Nat → Nat
  | 0, _, _, acc => acc
  | fuel + 1, n, t, acc => if t = 0 then acc else series next fuel (n + 1) (next n t) (acc + t)

/-- 1/q − 1/(3 q³) + …, the inverse tangent of 1/q, or with every term added that of the hyperbolic tangent. -/
def arctanInv (P q : Nat) (alternate : Bool) : Nat :=
  let term := fun k => 2 ^ P / ((2 * k + 1) * q ^ (2 * k + 1))
  let part := fun r => ((List.range P).filter fun k => k % 2 = r).foldl (fun a k => a + term k) 0
  if alternate then part 0 - part 1 else part 0 + part 1

/-- π (Machin). -/
def piFixed (P : Nat) : Nat := (16 * arctanInv (P + 16) 5 true - 4 * arctanInv (P + 16) 239 true) / 2 ^ 16

/-- ln 2 = 2 artanh(1/3). -/
def ln2Fixed (P : Nat) : Nat := 2 * arctanInv (P + 16) 3 false / 2 ^ 16

/-- e^r for r in [0, 1). -/
def expFixed (P r : Nat) : Nat := series (fun n t => t * r / 2 ^ P / (n + 1)) (2 * P) 0 (2 ^ P) 0

/-- 2^(±t) for a fixed-point t. -/
def pow2Fixed (P : Nat) (ng : Bool) (t : Nat) : Approx :=
  let k := t / 2 ^ P
  let r := t % 2 ^ P
  let (n, fr) : Int × Nat := if !ng then ((k : Int), r) else if r = 0 then (-(k : Int), 0) else (-(k : Int) - 1, 2 ^ P - r)
  ⟨false, expFixed P (fr * ln2Fixed P / 2 ^ P), n - P⟩

/-- The magnitude of m · 2^e kept below 2^13, beyond which no function of Table 5 changes but by its sign or scale. -/
def capped (m : Nat) (e : Int) : Nat × Int := if 13 ≤ e + blen m then (2 ^ 13, 0) else (m, e)

/-- e^(±m·2^e). -/
def expReal (P : Nat) (ng : Bool) (m : Nat) (e : Int) : Approx :=
  let c := capped m e
  pow2Fixed P ng (fixed P c.1 c.2 ng * 2 ^ P / ln2Fixed P + (if ng then 1 else 0))

/-- A power below 1 as a fixed-point number, never 0. -/
def Approx.fixedAt (r : Approx) (P : Nat) : Nat := max (fixed P r.mag r.ex false) 1

/-- 2^x. -/
def approxExp2 (ng : Bool) (m : Nat) (e : Int) : Approx :=
  let c := if 17 ≤ e + blen m then (2 ^ 17, (0 : Int)) else (m, e)
  pow2Fixed workBits ng (fixed workBits c.1 c.2 ng)

/-- The bits behind the point of log2 z for a fixed-point z in [1, 2), by squaring. -/
def log2Bits (P : Nat) : Nat → Nat → Nat → Nat
  | 0, _, acc => acc
  | k + 1, z, acc =>
    let y := z * z / 2 ^ P
    if 2 ^ (P + 1) ≤ y then log2Bits P k (y / 2) (2 * acc + 1) else log2Bits P k y (2 * acc)

/-- log2 (m · 2^e) for m ≠ 0. -/
def approxLog2 (m : Nat) (e : Int) : Approx :=
  let b := blen m
  let v : Int := (e + (b - 1 : Nat)) * 2 ^ 128 + log2Bits 320 128 (fixed 320 m (1 - (b : Int)) false) 0
  ⟨decide (v < 0), v.natAbs, -128⟩

/-- sin(π t) for a fixed-point t in [0, 1/2]. -/
def sinFixed (P t : Nat) : Nat :=
  let z := piFixed P * t / 2 ^ P
  let pows := (List.range P).foldl (fun (a : Nat × Nat × Nat) k =>
    -- a: the term z^(2k + 1) / (2k + 1)!, the positive and the negative terms so far
    let x := a.1
    let x' := x * z / 2 ^ P * z / 2 ^ P / ((2 * k + 2) * (2 * k + 3))
    if k % 2 = 0 then (x', a.2.1 + x, a.2.2) else (x', a.2.1, a.2.2 + x)) (z, 0, 0)
  min (pows.2.1 - pows.2.2) (2 ^ P)

/-- sin(π x) of a fixed-point x, whose sign is given. -/
def sinpiFixed (P : Nat) (ng : Bool) (x : Nat) : Approx :=
  let r := x % 2 ^ (P + 1)
  let t := r % 2 ^ P
  ⟨ng != decide (2 ^ P ≤ r), sinFixed P (if 2 * t ≤ 2 ^ P then t else 2 ^ P - t), -(P : Int)⟩

/-- The bits behind the point that keep a small m · 2^e at full relative precision. -/
def bitsFor (m : Nat) (e : Int) : Nat := workBits + (-(e + blen m)).toNat

/-- sin(πx). -/
def approxSinpi (ng : Bool) (m : Nat) (e : Int) : Approx :=
  let P := bitsFor m e
  sinpiFixed P ng (fixed P m e false)

/-- cos(πx) = sin(π(|x| + 1/2)). -/
def approxCospi (m : Nat) (e : Int) : Approx :=
  sinpiFixed workBits false (fixed workBits m e false + 2 ^ (workBits - 1))

/-- tanh x = (1 − q)/(1 + q) with q = e^(−2|x|). -/
def approxTanh (ng : Bool) (m : Nat) (e : Int) : Approx :=
  let P := bitsFor m e
  let q := (expReal P true m (e + 1)).fixedAt P
  ⟨ng, (2 ^ P - q) * 2 ^ P / (2 ^ P + q), -(P : Int)⟩

/-- 1/(1 + e^(−x)): with q = e^(−|x|), 1/(1 + q) for a positive x and q/(1 + q) for a negative one. -/
def approxSigm (ng : Bool) (m : Nat) (e : Int) : Approx :=
  let P := workBits
  let r := expReal P true m e
  let q := r.fixedAt P
  if ng then ⟨false, r.mag * 2 ^ P / (2 ^ P + q), r.ex⟩ else ⟨false, 2 ^ (2 * P) / (2 ^ P + q), -(P : Int)⟩

/-- x · sigm(x). -/
def approxSilu (ng : Bool) (m : Nat) (e : Int) : Approx :=
  let y := approxSigm ng m e
  ⟨ng, y.mag * m, y.ex + e⟩

/-- e^(−t) · (1 + 2t/3 + (2t)²/15 + …), which is erf(u) · √π / (2u) with t = u². -/
def erfCore (P t : Nat) : Approx :=
  let s := series (fun n x => x * (2 * t) / 2 ^ P / (2 * n + 3)) (8 * P) 0 (2 ^ P) 0
  let r := expReal P true t (-(P : Int))
  ⟨false, r.mag * s, r.ex - P⟩

/-- √(n · 2^(2P) / π) in fixed point, for n = 2 or 4 over 1. -/
def rootOverPi (P n : Nat) : Nat := isqrtFrom (n * 2 ^ (3 * P) / piFixed P) (P + 1) 0

/-- erf x; beyond 8 the largest number below 1. -/
def approxErf (ng : Bool) (m : Nat) (e : Int) : Approx :=
  let P := workBits
  if 4 ≤ e + blen m then ⟨ng, 2 ^ P - 1, -(P : Int)⟩
  else
    let c := erfCore P (fixed P (m * m) (2 * e) false)
    ⟨ng, m * c.mag * rootOverPi P 4, e + c.ex - P⟩

/-- |x| · Φ(−|x|) for |x| from 16 to 64 with |x| = m · 2^e: e^(−x²/2)/√(2π) · (1 − 1/x² + 1·3/x⁴ − …), cut after 40 terms. -/
def geluTail (m : Nat) (e : Int) : Approx :=
  let P := workBits
  let t := fixed P (m * m) (2 * e) false
  let sums := (List.range 40).foldl (fun (a : Nat × Nat × Nat) n =>
    -- a: the term 1·3·…·(2n − 1) / x^(2n), the positive and the negative terms so far
    let next := a.1 * (2 * n + 1) * 2 ^ P / t
    if n % 2 = 0 then (next, a.2.1 + a.1, a.2.2) else (next, a.2.1, a.2.2 + a.1)) (2 ^ P, 0, 0)
  let r := expReal P true (m * m) (2 * e - 1)
  ⟨true, r.mag * rootOverPi P 2 * (sums.2.1 - sums.2.2), r.ex - P - P - 1⟩

/-- x · Φ(x), with Φ(x) = (1 + erf(x/√2))/2; from 16 on it is x but for less than 2^(-180), and below −64 it is smaller than any
number of any format. -/
def approxGelu (ng : Bool) (m : Nat) (e : Int) : Approx :=
  let P := workBits
  if 5 ≤ e + blen m then
    if !ng then ⟨false, m * (2 ^ P - 1), e - P⟩ else if 7 ≤ e + blen m then ⟨true, 1, -3000⟩ else geluTail m e
  else
    let c := erfCore P (fixed P (m * m) (2 * e - 1) false)
    let erf := min (fixed P (m * c.mag * rootOverPi P 2) (e + c.ex - P) false) (2 ^ P - 1)
    ⟨ng, m * (if ng then 2 ^ P - erf else 2 ^ P + erf), e - P - 1⟩

/-- 1/x to the working precision, rounded down; `exact` says that nothing was cut. -/
def approxRcp (ng : Bool) (m : Nat) (e : Int) : Approx × Bool :=
  let k := workBits + blen m
  (⟨ng, 2 ^ k / m, -e - k⟩, 2 ^ k % m == 0)

/-- 1/√x of a positive x to the working precision, rounded down, and whether it is exact. -/
def approxRsqrt (m : Nat) (e : Int) : Approx × Bool :=
  let n := if e % 2 = 0 then m else 2 * m
  let h := (if e % 2 = 0 then e else e - 1) / 2
  let k := workBits + blen n
  let r := isqrtFrom (2 ^ (2 * k) / n) (k + 1) 0
  (⟨false, r, -h - k⟩, r * r * n == 2 ^ (2 * k))

/-! ## Bounds (R75 Table 5) -/

/-- The signed integer of a number over 2^e, for e at most its exponent. -/
def Approx.over (r : Approx) (e : Int) : Int := sgnM r.neg (r.mag * 2 ^ (r.ex - e).toNat)

/-- The exponent of one ulp of a value in a format. -/
def Fmt.ulpExp (f : Fmt) (r : Approx) : Int :=
  let emin : Int := 1 - (f.bias : Int)
  (if r.mag = 0 then emin else max (r.ex + blen r.mag - 1) emin) - f.fb

/-- The bound of a result: k ulp of the format, or 2^ab absolute where that is larger. -/
def Fmt.bound (f : Fmt) (r : Approx) (k : Nat) (ab : Option Int) : Approx :=
  let u := f.ulpExp r
  match ab with
  | none => ⟨false, k, u⟩
  | some a =>
    let e := min u a
    ⟨false, max (k * 2 ^ (u - e).toNat) (2 ^ (a - e).toNat), e⟩

/-- a + b. -/
def Approx.plus (a b : Approx) : Approx :=
  let e := min a.ex b.ex
  let v := a.over e + b.over e
  ⟨decide (v < 0), v.natAbs, e⟩

/-- −a. -/
def Approx.opp (a : Approx) : Approx := { a with neg := !a.neg }

/-- a ≤ b. -/
def Approx.le (a b : Approx) : Bool :=
  let e := min a.ex b.ex
  decide (a.over e ≤ b.over e)

/-- lo ≤ the value of a code ≤ hi. -/
def Fmt.between (f : Fmt) (lo hi : Approx) (c : Nat) : Bool :=
  match f.val c with
  | .fin ng m e => lo.le ⟨ng, m, e⟩ && (⟨ng, m, e⟩ : Approx).le hi
  | _ => false

/-- A number rounded once (R69). -/
def Approx.round (r : Approx) (f : Fmt) (m : FMode) : FRes := f.round m.rm m.flushOut r.neg r.mag r.ex

/-- The finite value of a result's code; an infinity is a value above every finite one. -/
def Fmt.approxOf (f : Fmt) (c : Nat) : Approx :=
  match f.val c with
  | .fin ng m e => ⟨ng, m, e⟩
  | _ => ⟨f.neg c, 1, 2000⟩

end Sys2Proof.Machine
end

