-- ==== Sys2Proof/Machine/Special.lean ====
section
/-! DEFINITION. Special functions: `sfq`, `sfw` and the result event (R75, R78, R170, R171, R361, R362). -/

namespace Sys2Proof.Machine

/-! ## Values (R75) -/

/-- The code of a function (R75 Table 5). -/
def sfCode : SfFn → Nat
  | .rcp => 0 | .rsqrt => 1 | .sqrt => 2 | .exp2 => 3 | .log2 => 4 | .sinpi => 5 | .cospi => 6 | .tanh => 7
  | .sigm => 8 | .silu => 9 | .gelu => 10 | .erf => 11

/-- Code of a type field (R361). -/
def typeCode : FType → Nat
  | .f64 => 0 | .f32 => 1 | .bf16 => 2 | .f16 => 3

/-- Code of a rounding mode (R42). -/
def modeCode : RMode → Nat
  | .rne => 0 | .rtz => 1 | .rup => 2 | .rdn => 3

/-- The value the implementation picks (R75): a fixed function of function, type, input code, RM and SUB, and nothing
proved of it but that what is delivered lies within the bound (log entry 10). -/
def sfFree (fn : SfFn) (t : FType) (m : FMode) (a : Nat) : Nat :=
  Config.specialFn (sfCode fn) (typeCode t) a (modeCode m.rm) m.sub % 2 ^ fbits t

/-- A delivered value with the flags it carries: INX unless it is the exact value, UNF where it or the exact value is tiny
(R69), an output flushed under R70. -/
def sfResult (f : Fmt) (m : FMode) (c : Nat) (tiny exact : Bool) : FRes :=
  let r := f.flushSub m c
  let inx := if exact then 0 else flINX
  match f.val c with
  | .inf _ => ⟨c, inx + (if exact then 0 else flOVF), !exact⟩
  | .nan _ => ⟨c, inx, false⟩
  | .fin .. => { r with flags := r.flags ||| inx ||| (if (f.isSub c || tiny) && !exact then flUNF else 0) }

/-- An integer below 2^63 as an exact result. -/
def sfInt (f : Fmt) (m : FMode) (v : Int) : FRes := f.roundInt m.rm m.flushOut false v 0

/-- m · 2^e is an integer multiple of 2^(-k): that integer. -/
def asMultiple (m : Nat) (e : Int) (k : Nat) : Option Nat :=
  let e := e + k
  if 0 ≤ e then some (m * 2 ^ (min e 1200).toNat)
  else if m % 2 ^ (-e).toNat = 0 then some (m / 2 ^ (-e).toNat) else none

/-- The exponent of a power of two. -/
def log2Exact (m : Nat) (e : Int) : Option Int :=
  let b := blen m
  if m = 2 ^ (b - 1) then some (e + (b - 1 : Nat)) else none

/-- An invalid operand (R71, R75). -/
def sfInvalid (f : Fmt) : FRes := ⟨f.canon, flINV, false⟩

/-- The ulp bound of Table 5 and the absolute one, as an exponent for .f64 and for .f32. -/
def sfBound : SfFn → Nat × Option (Int × Int)
  | .rcp | .rsqrt | .sqrt => (1, none)
  | .exp2 | .tanh | .sigm | .erf => (2, none)
  | .log2 => (2, some (-52, -23))
  | .sinpi | .cospi => (2, some (-53, -24))
  | .silu => (3, some (-52, -23))
  | .gelu => (4, some (-52, -23))

/-- A code lies within the bound of a function whose exact value is y (R75): in the destination format for .f64 and .f32;
for a half type, between the roundings of the ends of the FP32 bound. -/
def sfWithin (fn : SfFn) (t : FType) (m : FMode) (y : Approx) (c : Nat) : Bool :=
  let k := (sfBound fn).1
  let ab := (sfBound fn).2
  let f := Fmt.ofType t
  match t with
  | .f64 => let b := f.bound y k (ab.map Prod.fst); f.between (y.plus b.opp) (y.plus b) c
  | .f32 => let b := f.bound y k (ab.map Prod.snd); f.between (y.plus b.opp) (y.plus b) c
  | _ =>
    let b := Fmt.f32.bound y k (ab.map Prod.snd)
    f.between (f.approxOf ((y.plus b.opp).round f m).code) (f.approxOf ((y.plus b).round f m).code) c

/-- THE DELIVERED VALUE (R75) where the exact value is y (`sure`: y itself is exact): the implementation's pick if that
lies within the bound, else y rounded; an overflow is R69's (DESIGN CHOICE, log entry 10). -/
def sfDeliver (fn : SfFn) (t : FType) (m : FMode) (a : Nat) (y : Approx) (sure : Bool) : FRes :=
  let f := Fmt.ofType t
  let c := sfFree fn t m a
  let r := y.round f m
  if !r.ovf && sfWithin fn t m y c then
    let v := f.approxOf c
    sfResult f m c (r.flags &&& flUNF != 0) (sure && v.le y && y.le v)
  else if sure then r else { r with flags := r.flags ||| flINX }

/-- A special function at a finite nonzero value ng · mm · 2^e whose code is a (R75 Table 5). -/
def sfFinite (fn : SfFn) (t : FType) (m : FMode) (a : Nat) (ng : Bool) (mm : Nat) (e : Int) : FRes :=
  let f := Fmt.ofType t
  match fn with
  | .rcp => let y := approxRcp ng mm e; sfDeliver fn t m a y.1 y.2
  | .rsqrt => if ng then sfInvalid f else let y := approxRsqrt mm e; sfDeliver fn t m a y.1 y.2
  | .sqrt => if ng then sfInvalid f else fpSqrtFin f m mm e
  | .exp2 => match asMultiple mm e 0 with
    | some k =>
      let k := min k 65536
      f.round m.rm m.flushOut false 1 (if ng then -(k : Int) else k)
    | none => sfDeliver fn t m a (approxExp2 ng mm e) false
  | .log2 => if ng then sfInvalid f else match log2Exact mm e with
    | some k => sfInt f m k
    | none => sfDeliver fn t m a (approxLog2 mm e) false
  | .sinpi => match asMultiple mm e 1 with
    | some k =>
      if k % 2 = 0 then ⟨f.zeroCode ng, 0, false⟩
      else sfInt f m (if decide (k % 4 = 1) == !ng then 1 else -1)
    | none => sfDeliver fn t m a (approxSinpi ng mm e) false
  | .cospi => match asMultiple mm e 1 with
    | some k => sfInt f m (if k % 2 = 1 then 0 else if k % 4 = 0 then 1 else -1)
    | none => sfDeliver fn t m a (approxCospi mm e) false
  | .tanh => sfDeliver fn t m a (approxTanh ng mm e) false
  | .sigm => sfDeliver fn t m a (approxSigm ng mm e) false
  | .silu => sfDeliver fn t m a (approxSilu ng mm e) false
  | .gelu => sfDeliver fn t m a (approxGelu ng mm e) false
  | .erf => sfDeliver fn t m a (approxErf ng mm e) false

/-- A special function at a zero of a sign. -/
def sfZero (fn : SfFn) (t : FType) (m : FMode) (a : Nat) (ng : Bool) : FRes :=
  let f := Fmt.ofType t
  match fn with
  | .rcp | .rsqrt => ⟨f.infCode ng, flDZ, false⟩
  | .sqrt | .sinpi => ⟨f.zeroCode ng, 0, false⟩
  | .exp2 | .cospi => sfInt f m 1
  | .log2 => ⟨f.infCode true, flDZ, false⟩
  | .sigm => sfDeliver fn t m a ⟨false, 1, -1⟩ true
  | .tanh | .silu | .gelu | .erf => sfDeliver fn t m a ⟨ng, 0, 0⟩ true

/-- The value at which Table 5 states no result, log2 of +∞: the implementation's (log entry 10). -/
def sfOpen (fn : SfFn) (t : FType) (m : FMode) (a : Nat) : FRes :=
  let f := Fmt.ofType t
  let c := sfFree fn t m a
  sfResult f m c false (c == f.infCode false)

/-- A special function at an infinity. -/
def sfInf (fn : SfFn) (t : FType) (m : FMode) (a : Nat) (ng : Bool) : FRes :=
  let f := Fmt.ofType t
  match fn with
  | .rcp => ⟨f.zeroCode ng, 0, false⟩
  | .rsqrt => if ng then sfInvalid f else ⟨0, 0, false⟩
  | .sqrt => if ng then sfInvalid f else ⟨f.infCode false, 0, false⟩
  | .exp2 => if ng then ⟨0, 0, false⟩ else ⟨f.infCode false, 0, false⟩
  | .log2 => if ng then sfInvalid f else sfOpen fn t m a
  | .sinpi | .cospi => sfInvalid f
  | .tanh | .erf => sfInt f m (if ng then -1 else 1)
  | .sigm => sfInt f m (if ng then 0 else 1)
  | .silu | .gelu => if ng then ⟨f.zeroCode true, 0, false⟩ else ⟨f.infCode false, 0, false⟩

/-- SPECIALFN of R361 on one sub-element: the input flushed under R70, then Table 5. A signalling NaN sets INV (DESIGN CHOICE, log
entry 10: R71's last sentence names the operations of Tables 3 and 4 only). -/
def sfApply (fn : SfFn) (t : FType) (m : FMode) (a0 : Nat) : FRes :=
  let f := Fmt.ofType t
  let a := f.input m a0
  match f.val a with
  | .nan _ => ⟨nanOf f m [(f, a)], snanFlag [(f, a)], false⟩
  | .inf ng => sfInf fn t m a ng
  | .fin ng mm e => if mm = 0 then sfZero fn t m a ng else sfFinite fn t m a ng mm e

/-! ## Issue (R170, R171, R361) -/

/-- Occupancy of a special-function unit (R171). -/
def sfuOccupancy (c : Cls) (M : Nat) : Nat :=
  match c with
  | .vec => 2 * M | .shr => 2 | .sca => 1

/-- The results of an `sfq` under the pane's mode. -/
def sfSlots (v : View) (i : Instr) (t : FType) (f : SfFn) (a : Opnd) : List SlotRes :=
  (v.slots i).map fun q =>
    let r := joinSubs (fbits t) ((List.range (64 / fbits t)).map fun e => sfApply f t v.mode (sub (fbits t) e (v.rd i a q)))
    ⟨q, w64 r.1, r.2⟩

/-- `sfq` (R361): the token claimed, the mode captured, the result put in flight. -/
def execSfq (t : FType) (f : SfFn) (d a : Opnd) (k : Nat) (s : State) : Out :=
  let i := Instr.sfq t f d a k
  issue i (fun v => match v.p.tokens.find k with
    | some b => .trap v.s { cause := 6, mask := v.E, efd := b.code % 128 + 2 * 256, efa := b.clause }
    | none =>
      if 8 ≤ v.s.sfuLoad v.core v.p.slot then .wait v.s .sfu
      else
        let rs := sfSlots v i t f a
        let c := v.s.core v.core
        let begin_ := max v.s.now (c.sfuFree.getD (v.p.slot / 4) 0)
        let occ := sfuOccupancy i.cls v.M
        let lat := begin_ + occ - 1 + (if t = .f64 then 24 else 16) - v.s.now
        let s1 := v.withPane { v.p with tokens := v.p.tokens.put k ⟨d.code, v.E, v.uid, v.u.pc⟩ }
        let s2 := s1.updCore v.core fun c => { c with sfuFree := c.sfuFree.put (v.p.slot / 4) (begin_ + occ) }
        .next (v.launchWork s2 .token lat false []
          (.sfq k (rs.map fun r => (rkey d.code r.slot, r.val)) (allFlags rs) (allFlags rs &&& v.mode.te)
            (enabledMask v i.cls v.mode.te rs) v.u.word.toNat))) s

/-- `sfw` (R362): waits until every token named in a[15:0] is free. -/
def execSfw (a : Opnd) (s : State) : Out :=
  issue (.sfw a) (fun v =>
    let m := v.scalar a % 65536
    if v.p.tokens.all fun q => bits m q.1 1 == 0 then .next v.s else .wait v.s (.tokens m)) s

/-! ## Row SFQ_RESULT -/

/-- A deferred FPX joined to one of the same ac (R78), or put behind the others. -/
def joinDeferred (ds : List Deferred) (d : Deferred) : List Deferred :=
  if ds.any fun x => x.cause = d.cause ∧ x.at_ = d.at_ then
    ds.map fun x => if x.cause = d.cause ∧ x.at_ = d.at_ then
      { x with efd := x.efd ||| d.efd, emask := x.emask ||| d.emask } else x
  else ds ++ [d]

/-- Row SFQ_RESULT: copies and flags written in one ac, the token freed, an enabled condition deferred to the unit. -/
def execSfqResult (id : Nat) (s : State) : Out :=
  match s.pend.find id with
  | some ⟨_, uid, pid, _, _, _, _, _, _, due, _, _, .sfq k ws flags enabled trapped word⟩ =>
    if s.now < due then .refused .notDue
    else
      let s1 := (s.updPane pid fun p => { (p.writeKeys ws).orFstat flags with tokens := p.tokens.del k }).dropPend id
      let s2 := ws.foldl (fun s w => s.cleanKey pid w.1) s1
      .next (if enabled = 0 then s2
        else s2.updUnit uid fun u => { u with
          defer := joinDeferred u.defer ⟨0x15, word, 2 ^ 63 + enabled, 0, trapped, 0, s.now⟩ })
  | _ => .refused .notDue

end Sys2Proof.Machine
end

