-- ==== Sys2Proof/Machine/Dispatch.lean ====
section
/-! DEFINITION. Every instruction and event to its meaning. -/

namespace Sys2Proof.Machine

def exec (i : Instr) (s : State) : Host.Outcome State Fault Refusal :=
  match i with
  | .iadd w d a b => Sys2Proof.Machine.execIadd w d a b s
  | .isub w d a b => Sys2Proof.Machine.execIsub w d a b s
  | .imul w d a b => Sys2Proof.Machine.execImul w d a b s
  | .imulh w d a b => Sys2Proof.Machine.execImulh w d a b s
  | .imin w d a b => Sys2Proof.Machine.execImin w d a b s
  | .imax w d a b => Sys2Proof.Machine.execImax w d a b s
  | .iminu w d a b => Sys2Proof.Machine.execIminu w d a b s
  | .imaxu w d a b => Sys2Proof.Machine.execImaxu w d a b s
  | .iand w d a b => Sys2Proof.Machine.execIand w d a b s
  | .ior w d a b => Sys2Proof.Machine.execIor w d a b s
  | .ixor w d a b => Sys2Proof.Machine.execIxor w d a b s
  | .iandn w d a b => Sys2Proof.Machine.execIandn w d a b s
  | .ishl w d a b => Sys2Proof.Machine.execIshl w d a b s
  | .ishr w d a b => Sys2Proof.Machine.execIshr w d a b s
  | .isar w d a b => Sys2Proof.Machine.execIsar w d a b s
  | .irot w d a b => Sys2Proof.Machine.execIrot w d a b s
  | .iabs w d a => Sys2Proof.Machine.execIabs w d a s
  | .iclz w d a => Sys2Proof.Machine.execIclz w d a s
  | .ipopc w d a => Sys2Proof.Machine.execIpopc w d a s
  | .ibrev w d a => Sys2Proof.Machine.execIbrev w d a s
  | .iadds w d a b => Sys2Proof.Machine.execIadds w d a b s
  | .isubs w d a b => Sys2Proof.Machine.execIsubs w d a b s
  | .imad w d a b => Sys2Proof.Machine.execImad w d a b s
  | .imulhu w d a b => Sys2Proof.Machine.execImulhu w d a b s
  | .icmp c w p a b => Sys2Proof.Machine.execIcmp c w p a b s
  | .ibfx d a b => Sys2Proof.Machine.execIbfx d a b s
  | .ibfxS d a b => Sys2Proof.Machine.execIbfxS d a b s
  | .ibfi d a b => Sys2Proof.Machine.execIbfi d a b s
  | .sel p d a b => Sys2Proof.Machine.execSel p d a b s
  | .mov d a => Sys2Proof.Machine.execMov d a s
  | .fadd t d a b => Sys2Proof.Machine.execFadd t d a b s
  | .fsub t d a b => Sys2Proof.Machine.execFsub t d a b s
  | .fmul t d a b => Sys2Proof.Machine.execFmul t d a b s
  | .ffma t d a b => Sys2Proof.Machine.execFfma t d a b s
  | .ffms t d a b => Sys2Proof.Machine.execFfms t d a b s
  | .fnma t d a b => Sys2Proof.Machine.execFnma t d a b s
  | .fmin t d a b => Sys2Proof.Machine.execFmin t d a b s
  | .fmax t d a b => Sys2Proof.Machine.execFmax t d a b s
  | .fabs t d a => Sys2Proof.Machine.execFabs t d a s
  | .fneg t d a => Sys2Proof.Machine.execFneg t d a s
  | .fscl t d a b => Sys2Proof.Machine.execFscl t d a b s
  | .frnd t d a => Sys2Proof.Machine.execFrnd t d a s
  | .fclass t d a => Sys2Proof.Machine.execFclass t d a s
  | .fcpys t d a b => Sys2Proof.Machine.execFcpys t d a b s
  | .fcmp c t p a b => Sys2Proof.Machine.execFcmp c t p a b s
  | .fcvt c d a => Sys2Proof.Machine.execFcvt c d a s
  | .sfq t f d a k => Sys2Proof.Machine.execSfq t f d a k s
  | .sfw a => Sys2Proof.Machine.execSfw a s
  | .mbc d a b => Sys2Proof.Machine.execMbc d a b s
  | .mshf d a b => Sys2Proof.Machine.execMshf d a b s
  | .mredAdd t d a => Sys2Proof.Machine.execMredAdd t d a s
  | .mredMin t d a => Sys2Proof.Machine.execMredMin t d a s
  | .mredMax t d a => Sys2Proof.Machine.execMredMax t d a s
  | .msort t d a => Sys2Proof.Machine.execMsort t d a s
  | .mrank t d a b => Sys2Proof.Machine.execMrank t d a b s
  | .mspr t d a => Sys2Proof.Machine.execMspr t d a s
  | .lshf d a b => Sys2Proof.Machine.execLshf d a b s
  | .lbc d a b => Sys2Proof.Machine.execLbc d a b s
  | .lredAdd t d a => Sys2Proof.Machine.execLredAdd t d a s
  | .lredMin t d a => Sys2Proof.Machine.execLredMin t d a s
  | .lredMax t d a => Sys2Proof.Machine.execLredMax t d a s
  | .lscan t d a => Sys2Proof.Machine.execLscan t d a s
  | .pand k a b => Sys2Proof.Machine.execPand k a b s
  | .por k a b => Sys2Proof.Machine.execPor k a b s
  | .pxor k a b => Sys2Proof.Machine.execPxor k a b s
  | .pandn k a b => Sys2Proof.Machine.execPandn k a b s
  | .pset k => Sys2Proof.Machine.execPset k s
  | .pclr k => Sys2Proof.Machine.execPclr k s
  | .xmld k => Sys2Proof.Machine.execXmld k s
  | .xmst k => Sys2Proof.Machine.execXmst k s
  | .xmand k => Sys2Proof.Machine.execXmand k s
  | .pcnt d k => Sys2Proof.Machine.execPcnt d k s
  | .pbits d k a => Sys2Proof.Machine.execPbits d k a s
  | .bany p off => Sys2Proof.Machine.execBany p off s
  | .ball p off => Sys2Proof.Machine.execBall p off s
  | .jmp off => Sys2Proof.Machine.execJmp off s
  | .call off => Sys2Proof.Machine.execCall off s
  | .bdiv p off => Sys2Proof.Machine.execBdiv p off s
  | .bmw n pairs => Sys2Proof.Machine.execBmw n pairs s
  | .rcv off => Sys2Proof.Machine.execRcv off s
  | .bsaFull k off => Sys2Proof.Machine.execBsaFull k off s
  | .bsaRoom k off => Sys2Proof.Machine.execBsaRoom k off s
  | .jmpi a => Sys2Proof.Machine.execJmpi a s
  | .calli a => Sys2Proof.Machine.execCalli a s
  | .trap k => Sys2Proof.Machine.execTrap k s
  | .sys k => Sys2Proof.Machine.execSys k s
  | .ld c sx mw d x n p => Sys2Proof.Machine.execLd c sx mw d x n p s
  | .st c mw d x n p => Sys2Proof.Machine.execSt c mw d x n p s
  | .lds two sx mw d x => Sys2Proof.Machine.execLds two sx mw d x s
  | .sts two mw d x => Sys2Proof.Machine.execSts two mw d x s
  | .ldl two sx mw d x => Sys2Proof.Machine.execLdl two sx mw d x s
  | .stl two mw d x => Sys2Proof.Machine.execStl two mw d x s
  | .atom o t d x n p => Sys2Proof.Machine.execAtom o t d x n p s
  | .atom2 o d x n p => Sys2Proof.Machine.execAtom2 o d x n p s
  | .bset n x m => Sys2Proof.Machine.execBset n x m s
  | .bsetS n k => Sys2Proof.Machine.execBsetS n k s
  | .bget d n i1 => Sys2Proof.Machine.execBget d n i1 s
  | .wadr d x n => Sys2Proof.Machine.execWadr d x n s
  | .ctwt t x n => Sys2Proof.Machine.execCtwt t x n s
  | .ctinc a x n => Sys2Proof.Machine.execCtinc a x n s
  | .cpy sz d x n p => Sys2Proof.Machine.execCpy sz d x n p s
  | .cpyIn sz d x n p => Sys2Proof.Machine.execCpyIn sz d x n p s
  | .cpyOut sz d x n p => Sys2Proof.Machine.execCpyOut sz d x n p s
  | .cwait k => Sys2Proof.Machine.execCwait k s
  | .qw q a => Sys2Proof.Machine.execQw q a s
  | .qr b q => Sys2Proof.Machine.execQr b q s
  | .sard b a k => Sys2Proof.Machine.execSard b a k s
  | .sawt a k => Sys2Proof.Machine.execSawt a k s
  | .mld ms t d x n p => Sys2Proof.Machine.execMld ms t d x n p s
  | .mldSb ms d x n p => Sys2Proof.Machine.execMldSb ms d x n p s
  | .mst ms t d x n p => Sys2Proof.Machine.execMst ms t d x n p s
  | .mstSb ms d x n p => Sys2Proof.Machine.execMstSb ms d x n p s
  | .mmd ad ma mb f => Sys2Proof.Machine.execMmd ad ma mb f s
  | .mms ad ma mb sh f => Sys2Proof.Machine.execMms ad ma mb sh f s
  | .mmh t ad ma mb sh f => Sys2Proof.Machine.execMmh t ad ma mb sh f s
  | .mmf t ad ma mb sh f => Sys2Proof.Machine.execMmf t ad ma mb sh f s
  | .mmi t ad ma mb f => Sys2Proof.Machine.execMmi t ad ma mb f s
  | .mmq ma mb ta tb ms => Sys2Proof.Machine.execMmq ma mb ta tb ms s
  | .mscl ad ma mb cf => Sys2Proof.Machine.execMscl ad ma mb cf s
  | .manc ad ma mb => Sys2Proof.Machine.execManc ad ma mb s
  | .macz ad => Sys2Proof.Machine.execMacz ad s
  | .maczF32 ad => Sys2Proof.Machine.execMaczF32 ad s
  | .mdrn t ad v4 md => Sys2Proof.Machine.execMdrn t ad v4 md s
  | .mtlIn t v4 => Sys2Proof.Machine.execMtlIn t v4 s
  | .mtlOut t v4 => Sys2Proof.Machine.execMtlOut t v4 s
  | .mtlSb t v4 => Sys2Proof.Machine.execMtlSb t v4 s
  | .mflg ad t => Sys2Proof.Machine.execMflg ad t s
  | .mpass px => Sys2Proof.Machine.execMpass px s
  | .rqt t x n p => Sys2Proof.Machine.execRqt t x n p s
  | .smv t x n => Sys2Proof.Machine.execSmv t x n s
  | .smvw t x n => Sys2Proof.Machine.execSmvw t x n s
  | .lclr z => Sys2Proof.Machine.execLclr z s
  | .laddF64 z s1 => Sys2Proof.Machine.execLaddF64 z s1 s
  | .laddF32 z s1 => Sys2Proof.Machine.execLaddF32 z s1 s
  | .laddBf16 z s1 => Sys2Proof.Machine.execLaddBf16 z s1 s
  | .lmacF64 z s1 u => Sys2Proof.Machine.execLmacF64 z s1 u s
  | .lmacF32 z s1 u => Sys2Proof.Machine.execLmacF32 z s1 u s
  | .lmrg z y => Sys2Proof.Machine.execLmrg z y s
  | .lnrm z => Sys2Proof.Machine.execLnrm z s
  | .lrnd f32 rm d z => Sys2Proof.Machine.execLrnd f32 rm d z s
  | .lrdl d z j => Sys2Proof.Machine.execLrdl d z j s
  | .lwrl z s1 j => Sys2Proof.Machine.execLwrl z s1 j s
  | .lst d z => Sys2Proof.Machine.execLst d z s
  | .lsv z x n p => Sys2Proof.Machine.execLsv z x n p s
  | .lld z x n p => Sys2Proof.Machine.execLld z x n p s
  | .pvsel f32 d a b => Sys2Proof.Machine.execPvsel f32 d a b s
  | .pvreg f32 d a b => Sys2Proof.Machine.execPvreg f32 d a b s
  | .fxmac sh d a b => Sys2Proof.Machine.execFxmac sh d a b s
  | .rngck p a b => Sys2Proof.Machine.execRngck p a b s
  | .glaunch x n => Sys2Proof.Machine.execGlaunch x n s
  | .glaunchNb x n => Sys2Proof.Machine.execGlaunchNb x n s
  | .tlaunch x n => Sys2Proof.Machine.execTlaunch x n s
  | .rerun x n => Sys2Proof.Machine.execRerun x n s
  | .dtst d x n => Sys2Proof.Machine.execDtst d x n s
  | .trec x n => Sys2Proof.Machine.execTrec x n s
  | .vgrow n => Sys2Proof.Machine.execVgrow n s
  | .vshr n => Sys2Proof.Machine.execVshr n s
  | .srd d i1 => Sys2Proof.Machine.execSrd d i1 s
  | .swr i1 a => Sys2Proof.Machine.execSwr i1 a s
  | .logm a k => Sys2Proof.Machine.execLogm a k s
  | .psavePane x n => Sys2Proof.Machine.execPsavePane x n s
  | .psaveMx x n => Sys2Proof.Machine.execPsaveMx x n s
  | .psaveLx x n => Sys2Proof.Machine.execPsaveLx x n s
  | .prestPane x n => Sys2Proof.Machine.execPrestPane x n s
  | .prestMx x n => Sys2Proof.Machine.execPrestMx x n s
  | .prestLx x n => Sys2Proof.Machine.execPrestLx x n s
  | .ptrootWrite v => Sys2Proof.Machine.execPtrootWrite v s
  | .translationInvalidated uid => Sys2Proof.Machine.execTranslationInvalidated uid s
  | .wpartWrite g v => Sys2Proof.Machine.execWpartWrite g v s
  | .wpartConversionDone g => Sys2Proof.Machine.execWpartConversionDone g s
  | .dmapEnable v => Sys2Proof.Machine.execDmapEnable v s
  | .dmapMapsClear ctx => Sys2Proof.Machine.execDmapMapsClear ctx s
  | .dmapDisable v => Sys2Proof.Machine.execDmapDisable v s
  | .dirtyMapCleared ctx => Sys2Proof.Machine.execDirtyMapCleared ctx s
  | .sfqResult id => Sys2Proof.Machine.execSfqResult id s
  | .loadReply id => Sys2Proof.Machine.execLoadReply id s
  | .storeRegistrationAck id => Sys2Proof.Machine.execStoreRegistrationAck id s
  | .registryRecall pa => Sys2Proof.Machine.execRegistryRecall pa s
  | .sequenceCounterIncrement id => Sys2Proof.Machine.execSequenceCounterIncrement id s
  | .engineOpComplete core => Sys2Proof.Machine.execEngineOpComplete core s
  | .batonGrant core => Sys2Proof.Machine.execBatonGrant core s
  | .copyBatchComplete id => Sys2Proof.Machine.execCopyBatchComplete id s
  | .haloCommandComplete id => Sys2Proof.Machine.execHaloCommandComplete id s
  | .collectiveCommandComplete id => Sys2Proof.Machine.execCollectiveCommandComplete id s
  | .stackJobComplete id => Sys2Proof.Machine.execStackJobComplete id s
  | .remoteReply id k status data stamp => Sys2Proof.Machine.execRemoteReply id k status data stamp s
  | .remoteTimeout id => Sys2Proof.Machine.execRemoteTimeout id s
  | .inboundRemoteRequest r => Sys2Proof.Machine.execInboundRemoteRequest r s
  | .faultMergeWindow die => Sys2Proof.Machine.execFaultMergeWindow die s
  | .pageFaultReply ctx => Sys2Proof.Machine.execPageFaultReply ctx s
  | .barrierWatchdog cas => Sys2Proof.Machine.execBarrierWatchdog cas s
  | .progressWatchdog cas => Sys2Proof.Machine.execProgressWatchdog cas s
  | .sliceExpiry core ctx => Sys2Proof.Machine.execSliceExpiry core ctx s
  | .vgrowDeadlock core => Sys2Proof.Machine.execVgrowDeadlock core s
  | .vgrowGrant core => Sys2Proof.Machine.execVgrowGrant core s
  | .resumption cas => Sys2Proof.Machine.execResumption cas s
  | .swapOut pane => Sys2Proof.Machine.execSwapOut pane s
  | .swapIn pane => Sys2Proof.Machine.execSwapIn pane s
  | .pendingMove cas => Sys2Proof.Machine.execPendingMove cas s
  | .launchCheck ctx => Sys2Proof.Machine.execLaunchCheck ctx s
  | .taskCheck ctx => Sys2Proof.Machine.execTaskCheck ctx s
  | .taskReady ctx task => Sys2Proof.Machine.execTaskReady ctx task s
  | .admission core => Sys2Proof.Machine.execAdmission core s
  | .casementRetire cas => Sys2Proof.Machine.execCasementRetire cas s
  | .launchComplete lid => Sys2Proof.Machine.execLaunchComplete lid s
  | .taskComplete lid => Sys2Proof.Machine.execTaskComplete lid s
  | .correctedError u => Sys2Proof.Machine.execCorrectedError u s
  | .selfTestResult u pass => Sys2Proof.Machine.execSelfTestResult u pass s
  | .uncorrectableError code site ctx => Sys2Proof.Machine.execUncorrectableError code site ctx s
  | .hostLaunch ctx port off data => Sys2Proof.Machine.execHostLaunch ctx port off data s
  | .hostRdmaWrite port key addr data => Sys2Proof.Machine.execHostRdmaWrite port key addr data s
  | .hostRdmaRead port key addr len => Sys2Proof.Machine.execHostRdmaRead port key addr len s
  | .hostRdmaAtomic port key addr cas v cmp => Sys2Proof.Machine.execHostRdmaAtomic port key addr cas v cmp s
  | .installRegion src w0 w1 w2 w3 => Sys2Proof.Machine.execInstallRegion src w0 w1 w2 w3 s
  | .removeRegion src w0 w1 w2 w3 => Sys2Proof.Machine.execRemoveRegion src w0 w1 w2 w3 s
  | .bindPort src w0 w1 w2 w3 => Sys2Proof.Machine.execBindPort src w0 w1 w2 w3 s
  | .unbindPort src w0 w1 w2 w3 => Sys2Proof.Machine.execUnbindPort src w0 w1 w2 w3 s
  | .attest src n0 n1 n2 n3 => Sys2Proof.Machine.execAttest src n0 n1 n2 n3 s
  | .identityCertificates src => Sys2Proof.Machine.execIdentityCertificates src s
  | .powerReport src => Sys2Proof.Machine.execPowerReport src s
  | .setPowerLimit src watts => Sys2Proof.Machine.execSetPowerLimit src watts s
  | .stageFirmware src image => Sys2Proof.Machine.execStageFirmware src image s
  | .reset q => Sys2Proof.Machine.execReset q s
  | .defineContext src ctx root phv psv fring => Sys2Proof.Machine.execDefineContext src ctx root phv psv fring s
  | .undefineContext src ctx => Sys2Proof.Machine.execUndefineContext src ctx s
  | .setConfiguration src a b => Sys2Proof.Machine.execSetConfiguration src a b s
  | .powerOnReset bad expanders => Sys2Proof.Machine.execPowerOnReset bad expanders s
  | .blockPowerReport watts loss => Sys2Proof.Machine.execBlockPowerReport watts loss s
  | .keyExchange node ok => Sys2Proof.Machine.execKeyExchange node ok s
  | .keyExchangeTimeout node => Sys2Proof.Machine.execKeyExchangeTimeout node s
  | .keyRotation node => Sys2Proof.Machine.execKeyRotation node s
  | .stationDown k => Sys2Proof.Machine.execStationDown k s
  | .stationUp l => Sys2Proof.Machine.execStationUp l s
  | .expanderRemoved e => Sys2Proof.Machine.execExpanderRemoved e s
  | .reservedEncoding w reason => Sys2Proof.Machine.execReservedEncoding w reason s
  | .writeAcknowledged id => Sys2Proof.Machine.execWriteAcknowledged id s
  | .collectivePartialState p => Sys2Proof.Machine.execCollectivePartialState p s
  | .expanderAttached e mib => Sys2Proof.Machine.execExpanderAttached e mib s
  | .malformedPlatformRequest src op => Sys2Proof.Machine.execMalformedPlatformRequest src op s
  | .malformedManagementRequest src op => Sys2Proof.Machine.execMalformedManagementRequest src op s
  | .join => Sys2Proof.Machine.execJoin s
  | .ret => Sys2Proof.Machine.execRet s
  | .exit => Sys2Proof.Machine.execExit s
  | .nop => Sys2Proof.Machine.execNop s
  | .eret => Sys2Proof.Machine.execEret s
  | .brk => Sys2Proof.Machine.execBrk s
  | .acq => Sys2Proof.Machine.execAcq s
  | .rel => Sys2Proof.Machine.execRel s
  | .fence => Sys2Proof.Machine.execFence s
  | .bar => Sys2Proof.Machine.execBar s
  | .sbar => Sys2Proof.Machine.execSbar s
  | .cseal => Sys2Proof.Machine.execCseal s
  | .mtake => Sys2Proof.Machine.execMtake s
  | .mpassFree => Sys2Proof.Machine.execMpassFree s
  | .tyld => Sys2Proof.Machine.execTyld s
  | .trecWide => Sys2Proof.Machine.execTrecWide s
  | .bind => Sys2Proof.Machine.execBind s
  | .clauseHeader => Sys2Proof.Machine.execClauseHeader s

end Sys2Proof.Machine
end

