-- ==== Sys2Proof/Machine/Order.lean ====
section
/-! DEFINITION. The order of what falls in one ac: issues, work that completes, inputs, the other events, the next ac (R33, R37,
R159, R189, R239). -/

namespace Sys2Proof.Machine

/-- What a step does. -/
inductive Choice where
  | issue (k : Cand) (i : Instr)
  | input (i : Instr) (rest : List (Nat × Instr))
  | event (i : Instr)
  | idle
deriving DecidableEq, Repr

/-! ## Work that completes -/

/-- The first open request of a piece of work to this node's own window, when its turn has come (R205). -/
def State.ownDue (s : State) (p : Pend) (rs : List RemReq) : Option Nat :=
  if p.due ≤ s.now then rs.findIdx? fun q => q.answer.isNone && !q.host && q.node == s.dev.node else none

/-- The request of an instruction that a step of this device answers: none left, or the first addressed to this node (R205). -/
def State.remoteDue (s : State) (p : Pend) (rs : List RemReq) : Option Nat :=
  if rs.all fun q => q.answer.isSome then some 0
  else s.ownDue p rs

/-- The event by which a piece of work completes in this ac (DEDUCED, log entry 3). -/
def State.workEvent (s : State) (p : Pend) : Option Instr :=
  let ripe := decide (p.due ≤ s.now) && !p.held
  match p.work with
  | .regs .. | .longs .. | .wadr _ | .install .. | .record .. | .logged _ [] => if ripe then some (.loadReply p.id) else none
  | .reads r locs => if s.servable p r locs then some (.loadReply p.id) else none
  | .acking => if ripe then some (.storeRegistrationAck p.id) else none
  | .store _ => if s.mayPerform p then some (.storeRegistrationAck p.id) else none
  | .write _ | .rqt .. | .ordered _ => if s.mayPerform p then some (.writeAcknowledged p.id) else none
  | .count _ => if s.mayPerform p then some (.sequenceCounterIncrement p.id) else none
  | .sfq .. => if ripe then some (.sfqResult p.id) else none
  | .remote _ rs => (s.remoteDue p rs).map fun k => .remoteReply p.id k 0 0 0
  | .copy _ _ _ rs _ =>
    match s.ownDue p rs with
    | some k => some (.remoteReply p.id k 0 0 0)
    | none => if ripe && s.boundBefore p && rs.all fun q => q.answer.isSome then some (.copyBatchComplete p.id) else none
  | .halo _ _ rs _ =>
    match s.ownDue p rs with
    | some k => some (.remoteReply p.id k 0 0 0)
    | none => if s.engineTurn p then some (.haloCommandComplete p.id) else none
  | .coll c _ _ rs ph =>
    match s.ownDue p rs with
    | some k => some (.remoteReply p.id k 0 0 0)
    | none => if s.engineTurn p && s.collReady c ph then some (.collectiveCommandComplete p.id) else none
  | .job ws _ _ since _ => if ripe && s.boundBefore p && s.jobTurn p ws since then some (.stackJobComplete p.id) else none
  | .invalidate => if ripe then some (.translationInvalidated p.uid) else none
  | .mapsClear c _ => if ripe then some (.dmapMapsClear c) else none
  | .frozenClear c _ => if ripe then some (.dirtyMapCleared c) else none
  | .convert g a b =>
    if ripe && !s.writesInto (vaultSpan g a b).1 (vaultSpan g a b).2 then some (.wpartConversionDone g) else none
  | .none | .inLog _ | .logged _ (_ :: _) | .ctwt .. | .tile .. | .slotWrite .. => none

/-- Work that an engine performs, after the cores' own accesses (R159). -/
def Work.byEngine : Work → Bool
  | .copy .. | .halo .. | .coll .. | .job .. => true
  | _ => false

/-- The first of a list of completing works by core, then identity (DEDUCED, log entry 3). -/
def firstWork : List (Pend × Instr) → Option (Pend × Instr)
  | [] => none
  | q :: r => some (r.foldl (fun b x => if x.1.core < b.1.core then x else b) q)

/-- THE COMPLETION THAT COMES FIRST (R159): the cores' accesses by ascending core, then the engines'. -/
def State.dueWork (s : State) : Option Instr :=
  let ws := s.pend.vals.filterMap fun p => (s.workEvent p).map fun e => (p, e)
  match firstWork (ws.filter fun q => !q.1.work.byEngine) with
  | some q => some q.2
  | none =>
    match s.cores.find? fun c => (s.engineDue c.1).isSome with
    | some c => some (.engineOpComplete c.1)
    | none => (firstWork ws).map Prod.snd

/-! ## Events of cores and contexts -/

/-- Events on a core: the baton, register growth. -/
def State.coreEvent (s : State) (c : Nat) : Option Instr :=
  if (s.batonNext c).isSome then some (.batonGrant c)
  else if (s.vgrowNext c).isSome then some (.vgrowGrant c)
  else none

/-- A core in the state of R47, once nothing else falls in the ac: a pre-emption. -/
def State.vgrowEvent (s : State) : Option Instr :=
  (s.cores.find? fun c => (s.vgrowVictim c.1).isSome).map fun c => .vgrowDeadlock c.1

/-- Faults, replies and timeouts. -/
def State.faultEvent (s : State) : Option Instr :=
  match (List.range 8).find? fun d => !(s.closedFaults d).isEmpty with
  | some d => some (.faultMergeWindow d)
  | none => match s.ctxs.find? fun q => q.2.replies != 0 with
    | some q => some (.pageFaultReply q.1)
    | none =>
      (s.pend.find? fun q => q.2.work.reqs.any fun r => r.answer.isNone && decide (r.timeout ≤ s.now)).map fun q =>
        .remoteTimeout q.1

/-- Watchdogs, then retirement (R37, R239), then completion. -/
def State.casEvent (s : State) : Option Instr :=
  match s.cas.find? fun q => (s.barOver q.1).isSome with
  | some q => some (.barrierWatchdog q.1)
  | none => match s.cas.find? fun q => (s.progressOver q.1).isSome with
    | some q => some (.progressWatchdog q.1)
    | none => match s.cas.find? fun q => s.retirable q.1 with
      | some q => some (.casementRetire q.1)
      | none => (s.launches.find? fun q => s.finished q.1 q.2).map fun q =>
          if q.2.isTask then .taskComplete q.1 else .launchComplete q.1

/-- The slice that has expired, after any retirement (R181, R189). -/
def State.sliceEvent (s : State) : Option Instr :=
  s.cores.findSome? fun c => (c.2.slices.find? fun q => s.sliceOver c.1 q.1).map fun q => .sliceExpiry c.1 q.1

/-- Firmware: pending queues, checks, readiness, binding (R176, R177, R183, R185). -/
def State.firmwareEvent (s : State) : Option Instr :=
  match s.nextMove with
  | some c => some (.pendingMove c)
  | none => match s.launches.find? fun q => decide (q.2.phase = .queued) with
    | some q => some (if q.2.isTask then .taskCheck q.2.ctx else .launchCheck q.2.ctx)
    | none =>
      match s.launches.find? fun q => q.2.isTask && decide (q.2.phase = .accepted) && s.thresholdsMet q.2 with
      | some q => some (.taskReady q.2.ctx q.2.entry)
      | none => if s.nextBind.isSome then some .bind else none

/-- A pane of a list with its casement and launch. -/
def State.paneFacts (s : State) (q : Nat × PaneSt) : Option (CasementSt × LaunchSt) :=
  match s.cas.find q.2.cas with
  | none => none
  | some c => (s.launches.find c.lid).map fun l => (c, l)

/-- Panes that come back, records admitted, resumptions, panes that leave (R179, R187, R237). -/
def State.residenceEvent (s : State) : Option Instr :=
  match s.panes.find? fun q => ((s.paneFacts q).map fun x => (s.returnSlot q.1 q.2 x.1 x.2).isSome).getD false with
  | some q => some (.swapIn q.1)
  | none => match s.admissionNext with
    | some c => some (.admission c)
    | none =>
      match s.cas.find? fun q => decide (q.2.phase = .resuming) && (s.panesOf q.1).any fun p => p.2.saved with
      | some q => some (.resumption q.1)
      | none =>
        (s.panes.find? fun q => ((s.paneFacts q).map fun x => s.swappable q.1 q.2 x.1 x.2).getD false).map fun q => .swapOut q.1

/-- The internal event that falls in this ac next, when no work completes and no input arrives (DEDUCED, log entry 3; DESIGN
CHOICE, log entry 4). -/
def State.dueEvent (s : State) : Option Instr :=
  [fun (_ : Unit) => s.cores.findSome? fun c => s.coreEvent c.1, fun _ => s.faultEvent, fun _ => s.casEvent, fun _ => s.sliceEvent,
    fun _ => s.firmwareEvent, fun _ => s.residenceEvent,
    fun _ => (s.dev.exchanges.find? fun q => s.keyLate q.1 && !s.dev.recovery).map fun q => .keyExchangeTimeout q.1,
    fun _ => s.vgrowEvent].findSome? fun f => f ()

/-! ## Inputs -/

/-- The launch port, with its context, that an input writes (R173, R174). -/
def State.launchAt (s : State) (i : Instr) : Option (Nat × Nat) :=
  match i with
  | .hostLaunch ctx port _ _ => some (ctx, port)
  | .hostRdmaWrite _ key addr data => match s.dev.regionFor key 1 addr data.length with
    | some r => if r.launch ∧ addr / 4096 < 16 then some (r.ctx, addr / 4096) else none
    | none => none
  | _ => none

/-- An input of a list comes before the one chosen so far: it writes a lower launch port of the same context (R174, R189). -/
def State.lowerPort (s : State) (b x : Nat × Instr) : Nat × Instr :=
  match s.launchAt b.2, s.launchAt x.2 with
  | some p, some q => if q.1 = p.1 ∧ q.2 < p.2 then x else b
  | _, _ => b

/-- The next input of the ac: the oldest, but records that reach several launch ports of a context in one ac go by port number. -/
def State.nextInput (s : State) : Option (Nat × Instr) :=
  match s.inbox.filter fun q => decide (q.1 ≤ s.now) with
  | [] => none
  | q :: r => some (r.foldl s.lowerPort q)

/-- A traced start opens the ac (R197): what the ac writes goes to the new current map. -/
def State.startsNow (s : State) : Bool :=
  s.opening && (s.nextBind.map fun a => a.starts s).getD false

/-- THE ORDER OF AN AC: traced starts, issues, completing work, inputs, the other events, then the next ac (DEDUCED, log entry 3;
DESIGN CHOICE, log entry 2). -/
def State.choose (s : State) : Choice :=
  if s.startsNow then .event .bind
  else match s.nextIssue with
  | some k => .issue k (nextInstr k.u)
  | none =>
    match s.dueWork with
    | some e => .event e
    | none =>
      match s.nextInput with
      | some q => .input q.2 (s.inbox.erase q)
      | none =>
        match s.dueEvent with
        | some e => .event e
        | none => .idle

/-- The state in which an input or an event is taken: the issues of the ac are over, but for the traced starts before them. -/
def State.begun (s : State) (i : Instr) : State :=
  if s.opening ∧ i = .bind then s else (s.setIssuing false).setOpening false

/-! ## The end of an ac -/

/-- A unit waits for a seat (R58). -/
def UnitSt.queued (u : UnitSt) : Bool :=
  !u.seated && (match u.park with
    | .join _ | .bar | .sbar | .ctwt _ | .vgrow _ | .stopped => false
    | _ => true)

/-- The order of a pane's fragment queue; under DET the lowest detach sequence (R58). -/
def UnitSt.queuedBefore (det : Bool) (a b : UnitSt) : Bool :=
  if det then decide (a.seq < b.seq)
  else decide (a.queuedAt < b.queuedAt) || (decide (a.queuedAt = b.queuedAt) && decide (a.seq < b.seq))

/-- A unit put in its place in a queue. -/
def insertUnit (det : Bool) (q : Nat × UnitSt) : List (Nat × UnitSt) → List (Nat × UnitSt)
  | [] => [q]
  | x :: r => if q.2.queuedBefore det x.2 then q :: x :: r else x :: insertUnit det q r

/-- The units of a pane that take its free seats in the next ac (R58). -/
def State.seating (s : State) (pid : Nat) : List Nat :=
  let det := ((s.launchOfPane pid).map LaunchSt.det).getD false
  let us := s.unitsOf pid
  let free := (if det then 1 else 4) - (us.filter fun q => q.2.seated).length
  (((us.filter fun q => q.2.queued && decide (q.2.queuedAt ≤ s.now)).foldl (fun r q => insertUnit det q r) []).take free).map Prod.fst

/-- Free seats granted in every pane. -/
def State.seatAll (s : State) : State :=
  s.panes.foldl (fun s q => (s.seating q.1).foldl (fun s u => s.updUnit u fun x => { x with seated := true }) s) s

/-- The held bind entries of a context written while there is room (R245). -/
def State.writeHeld (s : State) (ctx : Nat) (h : HeldBind) : State :=
  if (s.ctx ctx).logRoom 1 then
    ((s.logEntry ctx h.core 0x02 h.w0 h.w1).updCtx ctx fun c => { c with heldBinds := c.heldBinds.tail }).updUnit h.uid fun u =>
      { u with logHeld := false }
  else s

/-- Every held log entry that has room written (R245). -/
def State.writeAllHeld (s : State) : State :=
  let s1 := s.ctxs.foldl (fun s q => q.2.heldBinds.foldl (fun s h => s.writeHeld q.1 h) s) s
  s1.launches.foldl (fun s q =>
    if q.2.logHeld ∧ (s.ctx q.2.ctx).logRoom 1 then
      (s.logEntry q.2.ctx 255 0x01 q.2.sig q.2.tag).updLaunch q.1 fun l => { l with logHeld := false }
    else s) s1

/-- Pre-emptions at the end of an ac: stopped sashes save, saved ones leave, and what can run nowhere ends (R237, R241, R242). -/
def State.preemptAll (s : State) : State :=
  let s1 := s.preemptStep.clearRetired
  if s1.cas.any fun q => decide (q.2.phase = .away) && q.2.leftAt == s.now then s1.retestAll else s1

/-- Wait lists tested in every pane in which a charge was released in this ac (R213). -/
def State.releaseAll (s : State) : State := s.panes.foldl (fun s q => s.releaseWaits q.1) s

/-- What was written in this ac takes effect in the next: special registers (R60, R181, R195, R211), definitions, and the
configuration record (R249, R253). -/
def State.applyWrites (s : State) : State :=
  s.takeEffect.setCtxs (s.takeEffect.ctxs.map fun q => (q.1, { q.2 with was := [] }))

/-- The next ac (R4) (DESIGN CHOICE, log entry 2). -/
def State.tick (s : State) : State :=
  { s.preemptAll.releaseAll.seatAll.writeAllHeld.applyWrites with
    now := s.now + 1
    issuing := true
    opening := true
    cur := none }

end Sys2Proof.Machine
end

