-- ==== Sys2Proof/Machine/Placed.lean ====
section
/-! DEFINITION. A program placed: a context, its tables, a launch and one resident pane whose clause is entered, so that the
next step issues the clause's first word. -/

namespace Sys2Proof.Machine

/-- Physical address of the level-4 table; tables of levels 3 to 0 follow, then the code page. -/
def placedTables : Nat := 0x10000
/-- Physical address of the page that virtual page 0 maps to. -/
def placedPage : Nat := 0x20000

/-- Tables that map virtual addresses 0 to 64 Ki − 1 for reading, writing and fetching (R222, R223). -/
def placedMem (m : Memory) (ws : List W32) : Memory :=
  let ptr := fun (k : Nat) => (placedTables + 4096 * (k + 1)) + 3 * 2 ^ 10 + 1
  let m := (List.range 4).foldl (fun m k => Memory.writeNat m (placedTables + 4096 * k) 8 (ptr k)) m
  let m := Memory.writeNat m (placedTables + 4096 * 4) 8 (placedPage + 7)
  let hdr := 5 * 2 ^ 28 + 7 * 2 ^ 25 + 31 * 2 ^ 19 + 15 * 2 ^ 15 + 7 * 2 ^ 12 + 15 * 2 ^ 8
  let m := Memory.writeNat m placedPage 4 hdr
  ws.zipIdx.foldl (fun m q => Memory.writeNat m (placedPage + 4 + 4 * q.2) 4 q.1.toNat) m

/-- The record of the placed launch: one pane, M = 1, V = Vmax = 64, W = 32, S = 30, L = 4,096, scratch 64 KiB, 64 slots
(DESIGN CHOICE, log entry 13). -/
def placedRecord : List Nat :=
  [0, 0, 1, 0, 4096 * 2 ^ 36 + 32 * 2 ^ 30 + 30 * 2 ^ 25 + 64 * 2 ^ 14 + 64 * 2 ^ 7, 64 * 2 ^ 32 + 65536,
    0, 0, 0, 0, 0, 0, 0, 0, 0, 0]

/-- The placed launch, casement and unit. -/
def placedLaunch : LaunchSt where
  ctx := 0
  kind := .launch
  words := placedRecord
  entry := 0
  phase := .running
  ready := true
  todo := []
  skipped := []
  retired := 0
  size := 1
  sig := 0
  gen := 0
  full := true
  reran := 0
  shapes := 0
  wideCnt := 0
  dropped := false
  started := false
  logHeld := false

def placedCasement (now : Nat) : CasementSt where
  lid := 1
  linear := 0
  gx := 0
  gy := 0
  gz := 0
  gm := 0
  cid := 0
  sid := 0
  core := 0
  phase := .resident
  order := 0
  admitAt := now
  leftAt := 0
  admits := 1
  ran := 0
  preAt := 0
  scratch := []
  longs := []
  run := 0
  pendQ := []
  recd := ⟨[], 0, false, false⟩
  ords := []
  barStart := none
  barPc := 0
  sbarStart := none
  sbarPc := 0
  fired := false

/-- The state with a clause of these words (five, as the longest instruction takes) entered on core 0 (DESIGN CHOICE, log
entry 13). -/
def placeWord (s : State) (ws : List W32) : State :=
  let s1 : State := { s with
    mem := placedMem s.mem ws
    nextId := 5
    issuing := true
    inbox := []
    ctxs := Map.put s.ctxs 0 { CtxSt.start 0 with ptroot := w64 (placedTables + 1) }
    launches := [(1, placedLaunch)]
    cas := [(2, placedCasement s.now)]
    panes := [(3, PaneSt.start 2 0 0 64)]
    units := [(4, UnitSt.start 3 0 0 s.now (fullMask 1))]
    pend := []
    cur := some 4 }
  match s1.fetchClause 0 0 with
  | .ok hdr fetched s2 => s2.updUnit 4 fun u => u.enter hdr fetched
  | _ => s1

end Sys2Proof.Machine
end

