-- ==== Sys2Proof/Machine/Step.lean ====
section
/-! DEFINITION. One step of the machine: an issue, an input, an event, or the next ac. -/

namespace Sys2Proof.Machine

/-- One step (95_what_each_step_holds.md: each row whole and indivisible). -/
def step (s : State) : Out :=
  match s.choose with
  | .issue k i => exec i (s.chosen k)
  | .input i r => exec i ((s.setInbox r).begun i)
  | .event i => exec i (s.begun i)
  | .idle => .next s.tick

/-- The state in which step issues next the instruction whose bits are w (log entry 13: this stands for the definition of a
context, a launch, its admission and the entry of its first clause). -/
def State.withFetchWord (s : State) (nbits w : Nat) : State := placeWord s (wordsOf (toBytes 20 (w % 2 ^ nbits)))

end Sys2Proof.Machine
end

