-- ==== Sys2Proof/Laws/Encoding.lean ====
section
/-! SUPPORT. The fields of an encoded word and the codes of its operands (R267, R278 to R281). -/

namespace Sys2Proof

/-- A code of an operand below its file's end gives the operand back; a literal comes from the word that follows. -/
theorem opndOf_code {o : Opnd} {l : W32} (h : ∀ x, o = .lit x → l = x) : opndOf o.code l = o := by
  cases o with
  | v n => simp [Opnd.code, opndOf, n.isLt]
  | w n => have := n.isLt; simp [Opnd.code, opndOf]
  | s n => have := n.isLt; simp [Opnd.code, opndOf, show ¬ 96 + n.val - 64 < 32 by omega]; omega
  | zr => simp [Opnd.code, opndOf]
  | lit x => simp [Opnd.code, opndOf, h x rfl]

theorem Opnd.code_lt (o : Opnd) : o.code < 128 := by
  cases o <;> simp [Opnd.code] <;> omega

@[simp] theorem IWidth.ofCode_toCode (t : IWidth) : IWidth.ofCode t.toCode = t := by cases t <;> rfl
@[simp] theorem FType.ofCode_toCode (t : FType) : FType.ofCode t.toCode = t := by cases t <;> rfl
@[simp] theorem RType.ofCode_toCode (t : RType) : RType.ofCode t.toCode = t := by cases t <;> rfl
@[simp] theorem AType.ofCode_toCode (t : AType) : AType.ofCode t.toCode = t := by cases t <;> rfl
@[simp] theorem AtomOp.ofCode_toCode (t : AtomOp) : AtomOp.ofCode t.toCode = t := by cases t <;> rfl
@[simp] theorem Atom2Op.ofCode_toCode (t : Atom2Op) : Atom2Op.ofCode t.toCode = t := by cases t <;> rfl
@[simp] theorem ICond.ofCode_toCode (t : ICond) : ICond.ofCode t.toCode = t := by cases t <;> rfl
@[simp] theorem FCond.ofCode_toCode (t : FCond) : FCond.ofCode t.toCode = t := by cases t <;> rfl
@[simp] theorem CvtCode.ofCode_toCode (t : CvtCode) : CvtCode.ofCode t.toCode = t := by cases t <;> rfl
@[simp] theorem SfFn.ofCode_toCode (t : SfFn) : SfFn.ofCode t.toCode = t := by cases t <;> rfl
@[simp] theorem RMode.ofCode_toCode (t : RMode) : RMode.ofCode t.toCode = t := by cases t <;> rfl
@[simp] theorem CPol.ofCode_toCode (t : CPol) : CPol.ofCode t.toCode = t := by cases t <;> rfl
@[simp] theorem MWidth.ofCode_toCode (t : MWidth) : MWidth.ofCode t.toCode = t := by cases t <;> rfl
@[simp] theorem MCount.ofCode_toCode (t : MCount) : MCount.ofCode t.toCode = t := by cases t <;> rfl
@[simp] theorem TileTy.ofCode_toCode (t : TileTy) : TileTy.ofCode t.toCode = t := by cases t <;> rfl
@[simp] theorem Q4Ty.ofCode_toCode (t : Q4Ty) : Q4Ty.ofCode t.toCode = t := by cases t <;> rfl
@[simp] theorem WtTy.ofCode_toCode (t : WtTy) : WtTy.ofCode t.toCode = t := by cases t <;> rfl

/-- The fields of a word of format A or M (R267). -/
structure FieldsA (w M fn d a b : Nat) : Prop where
  lt : w < 2 ^ 32
  f26_6 : bits w 26 6 = M
  f21_5 : bits w 21 5 = fn
  f23_3 : bits w 23 3 = fn / 4
  f21_2 : bits w 21 2 = fn % 4
  f21_3 : bits w 21 3 = fn % 8
  f21_4 : bits w 21 4 = fn % 16
  f23_2 : bits w 23 2 = fn / 4 % 4
  f23_1 : bits w 23 1 = fn / 4 % 2
  f24_2 : bits w 24 2 = fn / 8
  f24_1 : bits w 24 1 = fn / 8 % 2
  f25_1 : bits w 25 1 = fn / 16
  f14_7 : bits w 14 7 = d
  f7_7 : bits w 7 7 = a
  f0_7 : bits w 0 7 = b
  f2_5 : bits w 2 5 = b / 4
  f0_2 : bits w 0 2 = b % 4
  f0_14 : bits w 0 14 = a * 128 + b

theorem encA_fields {M fn d a b : Nat} (hM : M < 64) (hf : fn < 32) (hd : d < 128) (ha : a < 128) (hb : b < 128) :
    FieldsA (encA M fn d a b) M fn d a b := by
  simp only [encA]
  constructor <;> (try simp only [bits]) <;> omega

/-- The fields of a word of format M (R267). -/
structure FieldsM (w M fn d a n p : Nat) : Prop where
  lt : w < 2 ^ 32
  f26_6 : bits w 26 6 = M
  f21_5 : bits w 21 5 = fn
  f23_3 : bits w 23 3 = fn / 4
  f21_2 : bits w 21 2 = fn % 4
  f21_3 : bits w 21 3 = fn % 8
  f23_2 : bits w 23 2 = fn / 4 % 4
  f23_1 : bits w 23 1 = fn / 4 % 2
  f24_2 : bits w 24 2 = fn / 8
  f24_1 : bits w 24 1 = fn / 8 % 2
  f25_1 : bits w 25 1 = fn / 16
  f14_7 : bits w 14 7 = d
  f7_7 : bits w 7 7 = a
  f2_5 : bits w 2 5 = n
  f0_2 : bits w 0 2 = p

theorem encM_fields {M fn d a n p : Nat} (hM : M < 64) (hf : fn < 32) (hd : d < 128) (ha : a < 128) (hn : n < 32) (hp : p < 4) :
    FieldsM (encM M fn d a n p) M fn d a n p := by
  simp only [encM, encA]
  constructor <;> (try simp only [bits]) <;> omega

theorem CPol.toCode_lt (p : CPol) : p.toCode < 4 := by cases p <;> decide

/-- The fields of a word of format S (R267). -/
structure FieldsS (w M fn a b k : Nat) : Prop where
  lt : w < 2 ^ 32
  f26_6 : bits w 26 6 = M
  f20_6 : bits w 20 6 = fn
  f24_2 : bits w 24 2 = fn / 16
  f20_4 : bits w 20 4 = fn % 16
  f24_1 : bits w 24 1 = fn / 16 % 2
  f25_1 : bits w 25 1 = fn / 32
  f13_7 : bits w 13 7 = a
  f6_7 : bits w 6 7 = b
  f0_6 : bits w 0 6 = k
  f0_13 : bits w 0 13 = b * 64 + k
  f6_14 : bits w 6 14 = a * 128 + b
  f0_20 : bits w 0 20 = a * 8192 + b * 64 + k

theorem encS_fields {M fn a b k : Nat} (hM : M < 64) (hf : fn < 64) (ha : a < 128) (hb : b < 128) (hk : k < 64) :
    FieldsS (encS M fn a b k) M fn a b k := by
  simp only [encS]
  constructor <;> (try simp only [bits]) <;> omega

/-- The fields of a word of format C (R267). -/
structure FieldsC (w M c o : Nat) : Prop where
  lt : w < 2 ^ 32
  f26_6 : bits w 26 6 = M
  f20_6 : bits w 20 6 = c
  f24_1 : bits w 24 1 = c / 16 % 2
  f25_1 : bits w 25 1 = c / 32
  f20_4 : bits w 20 4 = c % 16
  f0_20 : bits w 0 20 = o

theorem encC_fields {M c o : Nat} (hM : M < 64) (hc : c < 64) (ho : o < 2 ^ 20) : FieldsC (encC M c o) M c o := by
  simp only [encC]
  constructor <;> (try simp only [bits]) <;> omega

/-- The fields of a word of format X (R267). -/
structure FieldsX (w M fn ad ma mb sh fl : Nat) : Prop where
  lt : w < 2 ^ 32
  f26_6 : bits w 26 6 = M
  f21_5 : bits w 21 5 = fn
  f17_4 : bits w 17 4 = ad
  f13_4 : bits w 13 4 = ma
  f9_4 : bits w 9 4 = mb
  f6_3 : bits w 6 3 = sh
  f0_6 : bits w 0 6 = fl
  f4_2 : bits w 4 2 = fl / 16
  f0_1 : bits w 0 1 = fl % 2
  f1_1 : bits w 1 1 = fl / 2 % 2
  f2_1 : bits w 2 1 = fl / 4 % 2
  f3_1 : bits w 3 1 = fl / 8 % 2
  f0_9 : bits w 0 9 = sh * 64 + fl
  f0_13 : bits w 0 13 = mb * 512 + sh * 64 + fl
  f0_17 : bits w 0 17 = ma * 8192 + mb * 512 + sh * 64 + fl
  f0_21 : bits w 0 21 = ad * 131072 + ma * 8192 + mb * 512 + sh * 64 + fl

theorem encX_fields {M fn ad ma mb sh fl : Nat} (hM : M < 64) (hf : fn < 32) (hd : ad < 16) (ha : ma < 16) (hb : mb < 16)
    (hs : sh < 8) (hl : fl < 64) : FieldsX (encX M fn ad ma mb sh fl) M fn ad ma mb sh fl := by
  simp only [encX]
  constructor <;> (try simp only [bits]) <;> omega

end Sys2Proof
end

