-- ==== Sys2Proof/Laws/PerInstr.lean ====
section
/-! SUPPORT. The round trip of the encoding: decoding the words of a well-formed instruction gives it back, one lemma
per constructor of `Instr` (R267, R278 to R281). -/

section

set_option Elab.async false
set_option linter.unusedSimpArgs false

namespace Sys2Proof.Laws.RoundTrip

/-- A well-formed instruction that has a word is what its encoding decodes to, whatever words follow. -/
def Statement (i : Instr) : Prop :=
  i.hasWord = true → i.wellFormed = true → ∀ more, ∃ w ws, encode i = w :: ws ∧ decode w (ws ++ more) = .ok i

/-- An event has no word. -/
theorem of_event {i : Instr} (h : i.hasWord = false) : Statement i := fun h' => by simp [h] at h'

/-- Of a well-formed instruction's literals there is one word, which every literal operand carries. -/
theorem literal_of {i : Instr} (hwf : i.wellFormed = true) (more : List W32) :
    ∀ o ∈ i.named.dst ++ i.named.src, ∀ x, o.1 = .lit x → (i.litWord ++ more).headD 0 = x := by
  intro o ho x hx
  have hb : litMisuse i.named = false := by
    simp only [Instr.wellFormed, Instr.illegal, Bool.and_eq_true] at hwf
    obtain ⟨-, h⟩ := hwf
    cases h1 : i.badRange <;> cases h2 : i.badLit <;> simp [h1, h2, firstBad] at h
    simp only [Instr.badLit, Bool.or_eq_false_iff] at h2
    exact h2.1
  simp only [litMisuse, Bool.or_eq_false_iff, decide_eq_false_iff_not] at hb
  obtain ⟨hd, hs⟩ := hb
  have hd' : ∀ q ∈ i.named.dst, ∀ y, q.1 ≠ .lit y := by
    intro q hq y hy
    have h3 := List.any_eq_false.1 hd q hq
    simp [hy, Opnd.isLit] at h3
  have key : ∀ (ds ss : List (Opnd × Nat)), (∀ q ∈ ds, ∀ y, q.1 ≠ .lit y) → litCount (ss.map Prod.fst) ≤ 1 → o ∈ ds ++ ss →
      ((((ds ++ ss).filterMap fun o => match o.1 with
        | .lit x => some x
        | _ => none).take 1) ++ more).headD 0 = x := by
    intro ds ss
    induction ds with
    | cons q ds ih =>
      intro h1 h2 h3
      rcases List.mem_cons.1 h3 with rfl | h3
      · exact absurd hx (h1 o (by simp) x)
      · have hn : (match q.1 with
          | .lit x => some x
          | _ => (none : Option W32)) = none := by
          cases hq : q.1 <;> simp
          exact h1 q (by simp) _ hq
        rw [List.cons_append, List.filterMap_cons]
        simp only [hn]
        exact ih (fun r hr => h1 r (by simp [hr])) h2 h3
    | nil =>
      intro _ h2 h3
      rw [List.nil_append] at h3 ⊢
      induction ss with
      | nil => simp at h3
      | cons q ss ih =>
        by_cases hq : ∃ y, q.1 = .lit y
        · obtain ⟨y, hy⟩ := hq
          rcases List.mem_cons.1 h3 with rfl | h3
          · rw [hx] at hy
            cases hy
            simp [hx]
          · exfalso
            have h4 : ∀ (l : List (Opnd × Nat)), o ∈ l → 1 ≤ litCount (l.map Prod.fst) := by
              intro l hl
              simp only [litCount]
              exact List.length_pos_iff_exists_mem.2 ⟨o.1, List.mem_filter.2 ⟨List.mem_map.2 ⟨o, hl, rfl⟩, by simp [hx, Opnd.isLit]⟩⟩
            have h5 := h4 ss h3
            simp only [litCount, List.map_cons, hy, List.filter_cons, Opnd.isLit, if_true, List.length_cons] at h2 h5
            omega
        · have hn : (match q.1 with
            | .lit x => some x
            | _ => (none : Option W32)) = none := by
            cases hq' : q.1 <;> simp
            exact hq ⟨_, hq'⟩
          rw [List.filterMap_cons]
          simp only [hn]
          rcases List.mem_cons.1 h3 with rfl | h3
          · exact absurd ⟨x, hx⟩ hq
          · refine ih ?_ h3
            simp only [litCount, List.map_cons, List.filter_cons] at h2 ⊢
            split at h2
            · simp only [List.length_cons] at h2
              omega
            · exact h2
  exact key _ _ hd' (by omega) ho

/-- The words after the first of an instruction with no pair words. -/
theorem litWord_length {i : Instr} (h : i.namesLit = true) : i.litWord.length = 1 := by
  unfold Instr.namesLit at h
  unfold Instr.litWord
  obtain ⟨o, ho, hl⟩ := List.any_eq_true.1 h
  cases hx : o.1 <;> simp [hx, Opnd.isLit] at hl
  rename_i x
  have : x ∈ (i.named.dst ++ i.named.src).filterMap fun o => match o.1 with
      | .lit x => some x
      | _ => none := List.mem_filterMap.2 ⟨o, ho, by simp [hx]⟩
  rw [List.length_take]
  exact Nat.min_eq_left (List.length_pos_iff_exists_mem.2 ⟨x, this⟩)

/-- A word that decodes with enough words after it. -/
theorem decode_of {i : Instr} {next : List W32} (h1 : i.word0 < 2 ^ 32)
    (h2 : decodeRaw i.word0 (next.headD 0) next = .ok ⟨i, true, true⟩) (h3 : i.extraWords ≤ next.length) :
    decode (BitVec.ofNat 32 i.word0) next = .ok i := by
  have hn : (BitVec.ofNat 32 i.word0).toNat = i.word0 := by
    simp only [BitVec.toNat_ofNat]
    exact Nat.mod_eq_of_lt h1
  unfold decode
  rw [hn, h2]
  simp only [if_neg (Nat.not_lt.2 h3)]
  rfl

/-- An instruction without pair words whose word decodes, under the literal that its operands carry. -/
theorem of_raw {i : Instr} (he : encode i = BitVec.ofNat 32 i.word0 :: i.litWord)
    (hx : i.extraWords = if i.namesLit then 1 else 0)
    (h : i.fits = true → i.illegal = none → ∀ l next, (∀ o ∈ i.named.dst ++ i.named.src, ∀ x, o.1 = .lit x → l = x) →
      i.word0 < 2 ^ 32 ∧ decodeRaw i.word0 l next = .ok ⟨i, true, true⟩) : Statement i := by
  intro _ hwf more
  refine ⟨_, _, he, ?_⟩
  have hf : i.fits = true ∧ i.illegal = none := by
    simpa [Instr.wellFormed, Bool.and_eq_true, Option.isNone_iff_eq_none] using hwf
  obtain ⟨h1, h2⟩ := h hf.1 hf.2 _ (i.litWord ++ more) (literal_of hwf more)
  refine decode_of h1 h2 ?_
  rw [hx]
  split
  · rename_i hl
    rw [List.length_append, litWord_length hl]
    omega
  · omega

/-- Operand o of an instruction from its code. -/
theorem operand {i : Instr} {l : W32} (hl : ∀ o ∈ i.named.dst ++ i.named.src, ∀ x, o.1 = .lit x → l = x) (o : Opnd)
    (h : o ∈ (i.named.dst ++ i.named.src).map Prod.fst) : opndOf o.code l = o := by
  obtain ⟨q, hq, rfl⟩ := List.mem_map.1 h
  exact opndOf_code fun x hx => hl q hq x hx

/-- The fields of a word of format P (R267). -/
structure FieldsP (w p d a b : Nat) : Prop where
  lt : w < 2 ^ 32
  f26_6 : bits w 26 6 = 6
  f20_6 : bits w 20 6 = p
  f13_7 : bits w 13 7 = d
  f6_7 : bits w 6 7 = a
  f0_6 : bits w 0 6 = b

theorem encP_fields {p d a b : Nat} (hp : p < 64) (hd : d < 128) (ha : a < 128) (hb : b < 64) :
    FieldsP (6 * 2 ^ 26 + p * 2 ^ 20 + d * 2 ^ 13 + a * 2 ^ 6 + b) p d a b := by
  constructor <;> (try simp only [bits]) <;> omega

theorem sel_raw (p : Nat) (d : Opnd) (a : Opnd) (b : Fin 64) (l : W32) (next : List W32) (wd : Nat)
    (F : FieldsP wd p d.code a.code b.val) (e_d : opndOf d.code l = d) (e_a : opndOf a.code l = a) :
    decodeRaw wd l next = .ok ⟨.sel p d a b, true, true⟩ := by
  simp [decodeRaw, decodeAlu, ok, F.f26_6, F.f20_6, F.f13_7, F.f6_7, F.f0_6, e_d, e_a]

theorem sel (p : Nat) (d : Opnd) (a : Opnd) (b : Fin 64) : Statement (.sel p d a b) := by
  refine of_raw rfl rfl ?_
  intro hf hi l next hl
  simp [Instr.fits] at hf
  have F := encP_fields hf.1 d.code_lt hf.2 b.isLt
  exact ⟨F.lt, sel_raw p d a b l next _ F (operand hl d (by simp [Instr.named, Named.ds])) (operand hl a (by simp [Instr.named, Named.ds]))⟩

theorem pair_ofWord {q : BmwPair} (h : q.pred < 64 ∧ q.off < 2 ^ 26) : BmwPair.ofWord q.word = q := by
  have h1 : (BitVec.ofNat 32 (q.pred * 2 ^ 26 + q.off)).toNat = q.pred * 2 ^ 26 + q.off := by
    rw [BitVec.toNat_ofNat]
    exact Nat.mod_eq_of_lt (by omega)
  have h2 : (q.pred * 2 ^ 26 + q.off) / 2 ^ 26 % 2 ^ 6 = q.pred := by omega
  have h3 : (q.pred * 2 ^ 26 + q.off) / 2 ^ 0 % 2 ^ 26 = q.off := by omega
  simp only [BmwPair.ofWord, BmwPair.word, h1, bits, h2, h3]

theorem bmw_raw (n : Nat) (ps : List BmwPair) (more : List W32) (wd : Nat) (F : FieldsC wd 21 n 0) (l : W32)
    (hlen : ps.length = n) (hps : ∀ q ∈ ps, q.pred < 64 ∧ q.off < 2 ^ 26) :
    decodeRaw wd l (ps.map BmwPair.word ++ more) = .ok ⟨.bmw n ps, true, true⟩ := by
  have ht : (ps.map BmwPair.word ++ more).take n = ps.map BmwPair.word := by
    rw [← hlen, ← List.length_map (f := BmwPair.word), List.take_left]
  have hm : (ps.map BmwPair.word).map BmwPair.ofWord = ps := by
    rw [List.map_map]
    conv_rhs => rw [← List.map_id ps]
    exact List.map_congr_left fun q hq => pair_ofWord (hps q hq)
  simp [decodeRaw, decodeCtl, F.f26_6, F.f20_6, F.f0_20, okZ, ht]
  simpa using hm

theorem bmw (n : Nat) (ps : List BmwPair) : Statement (.bmw n ps) := by
  intro _ hwf more
  have hf : n < 64 ∧ ps.length = n ∧ ∀ q ∈ ps, q.pred < 64 ∧ q.off < 2 ^ 26 := by
    simp only [Instr.wellFormed, Bool.and_eq_true] at hwf
    simpa [Instr.fits, and_assoc] using hwf.1
  have F := encC_fields (M := 21) (c := n) (o := 0) (by decide) hf.1 (by decide)
  refine ⟨_, _, rfl, decode_of F.lt (bmw_raw n ps more _ F _ hf.2.1 hf.2.2) ?_⟩
  have : (Instr.bmw n ps).extraWords = n := rfl
  rw [this, List.length_append, List.length_map]
  omega

theorem iadd_raw (w : IWidth) (d : Opnd) (a : Opnd) (b : Opnd) (l : W32) (next : List W32) (wd : Nat)
    (F : FieldsA wd 1 (4 * 0 + w.toCode) d.code a.code b.code)
    (e_d : opndOf d.code l = d)
    (e_a : opndOf a.code l = a)
    (e_b : opndOf b.code l = b) :
    decodeRaw wd l next = .ok ⟨.iadd w d a b, true, true⟩ := by
  cases w <;> simp [decodeInt1, decodeRaw, F.f26_6, F.f21_5, F.f23_3, F.f21_2, F.f21_3, F.f21_4, F.f23_2, F.f23_1, F.f24_2, F.f24_1, F.f25_1, F.f14_7, F.f7_7, F.f0_7, F.f2_5, F.f0_2, F.f0_14, e_d, e_a, e_b, ok, okZ, okR, bit1, IWidth.toCode, IWidth.ofCode]

theorem iadd (w : IWidth) (d : Opnd) (a : Opnd) (b : Opnd) : Statement (.iadd w d a b) := by
  refine of_raw rfl rfl ?_
  intro hf hi l next hl
  have F := encA_fields (M := 1) (fn := (4 * 0 + w.toCode)) (d := d.code) (a := a.code) (b := b.code) (by decide) (by cases w <;> decide) (Opnd.code_lt d) (Opnd.code_lt a) (Opnd.code_lt b)
  exact ⟨F.lt, iadd_raw w d a b l next _ F (operand hl d (by simp [Instr.named, Named.ds, Named.only, Named.mem])) (operand hl a (by simp [Instr.named, Named.ds, Named.only, Named.mem])) (operand hl b (by simp [Instr.named, Named.ds, Named.only, Named.mem]))⟩

theorem isub_raw (w : IWidth) (d : Opnd) (a : Opnd) (b : Opnd) (l : W32) (next : List W32) (wd : Nat)
    (F : FieldsA wd 1 (4 * 1 + w.toCode) d.code a.code b.code)
    (e_d : opndOf d.code l = d)
    (e_a : opndOf a.code l = a)
    (e_b : opndOf b.code l = b) :
    decodeRaw wd l next = .ok ⟨.isub w d a b, true, true⟩ := by
  cases w <;> simp [decodeInt1, decodeRaw, F.f26_6, F.f21_5, F.f23_3, F.f21_2, F.f21_3, F.f21_4, F.f23_2, F.f23_1, F.f24_2, F.f24_1, F.f25_1, F.f14_7, F.f7_7, F.f0_7, F.f2_5, F.f0_2, F.f0_14, e_d, e_a, e_b, ok, okZ, okR, bit1, IWidth.toCode, IWidth.ofCode]

theorem isub (w : IWidth) (d : Opnd) (a : Opnd) (b : Opnd) : Statement (.isub w d a b) := by
  refine of_raw rfl rfl ?_
  intro hf hi l next hl
  have F := encA_fields (M := 1) (fn := (4 * 1 + w.toCode)) (d := d.code) (a := a.code) (b := b.code) (by decide) (by cases w <;> decide) (Opnd.code_lt d) (Opnd.code_lt a) (Opnd.code_lt b)
  exact ⟨F.lt, isub_raw w d a b l next _ F (operand hl d (by simp [Instr.named, Named.ds, Named.only, Named.mem])) (operand hl a (by simp [Instr.named, Named.ds, Named.only, Named.mem])) (operand hl b (by simp [Instr.named, Named.ds, Named.only, Named.mem]))⟩

theorem imul_raw (w : IWidth) (d : Opnd) (a : Opnd) (b : Opnd) (l : W32) (next : List W32) (wd : Nat)
    (F : FieldsA wd 1 (4 * 2 + w.toCode) d.code a.code b.code)
    (e_d : opndOf d.code l = d)
    (e_a : opndOf a.code l = a)
    (e_b : opndOf b.code l = b) :
    decodeRaw wd l next = .ok ⟨.imul w d a b, true, true⟩ := by
  cases w <;> simp [decodeInt1, decodeRaw, F.f26_6, F.f21_5, F.f23_3, F.f21_2, F.f21_3, F.f21_4, F.f23_2, F.f23_1, F.f24_2, F.f24_1, F.f25_1, F.f14_7, F.f7_7, F.f0_7, F.f2_5, F.f0_2, F.f0_14, e_d, e_a, e_b, ok, okZ, okR, bit1, IWidth.toCode, IWidth.ofCode]

theorem imul (w : IWidth) (d : Opnd) (a : Opnd) (b : Opnd) : Statement (.imul w d a b) := by
  refine of_raw rfl rfl ?_
  intro hf hi l next hl
  have F := encA_fields (M := 1) (fn := (4 * 2 + w.toCode)) (d := d.code) (a := a.code) (b := b.code) (by decide) (by cases w <;> decide) (Opnd.code_lt d) (Opnd.code_lt a) (Opnd.code_lt b)
  exact ⟨F.lt, imul_raw w d a b l next _ F (operand hl d (by simp [Instr.named, Named.ds, Named.only, Named.mem])) (operand hl a (by simp [Instr.named, Named.ds, Named.only, Named.mem])) (operand hl b (by simp [Instr.named, Named.ds, Named.only, Named.mem]))⟩

theorem imulh_raw (w : IWidth) (d : Opnd) (a : Opnd) (b : Opnd) (l : W32) (next : List W32) (wd : Nat)
    (F : FieldsA wd 1 (4 * 3 + w.toCode) d.code a.code b.code)
    (e_d : opndOf d.code l = d)
    (e_a : opndOf a.code l = a)
    (e_b : opndOf b.code l = b) :
    decodeRaw wd l next = .ok ⟨.imulh w d a b, true, true⟩ := by
  cases w <;> simp [decodeInt1, decodeRaw, F.f26_6, F.f21_5, F.f23_3, F.f21_2, F.f21_3, F.f21_4, F.f23_2, F.f23_1, F.f24_2, F.f24_1, F.f25_1, F.f14_7, F.f7_7, F.f0_7, F.f2_5, F.f0_2, F.f0_14, e_d, e_a, e_b, ok, okZ, okR, bit1, IWidth.toCode, IWidth.ofCode]

theorem imulh (w : IWidth) (d : Opnd) (a : Opnd) (b : Opnd) : Statement (.imulh w d a b) := by
  refine of_raw rfl rfl ?_
  intro hf hi l next hl
  have F := encA_fields (M := 1) (fn := (4 * 3 + w.toCode)) (d := d.code) (a := a.code) (b := b.code) (by decide) (by cases w <;> decide) (Opnd.code_lt d) (Opnd.code_lt a) (Opnd.code_lt b)
  exact ⟨F.lt, imulh_raw w d a b l next _ F (operand hl d (by simp [Instr.named, Named.ds, Named.only, Named.mem])) (operand hl a (by simp [Instr.named, Named.ds, Named.only, Named.mem])) (operand hl b (by simp [Instr.named, Named.ds, Named.only, Named.mem]))⟩

theorem imin_raw (w : IWidth) (d : Opnd) (a : Opnd) (b : Opnd) (l : W32) (next : List W32) (wd : Nat)
    (F : FieldsA wd 1 (4 * 4 + w.toCode) d.code a.code b.code)
    (e_d : opndOf d.code l = d)
    (e_a : opndOf a.code l = a)
    (e_b : opndOf b.code l = b) :
    decodeRaw wd l next = .ok ⟨.imin w d a b, true, true⟩ := by
  cases w <;> simp [decodeInt1, decodeRaw, F.f26_6, F.f21_5, F.f23_3, F.f21_2, F.f21_3, F.f21_4, F.f23_2, F.f23_1, F.f24_2, F.f24_1, F.f25_1, F.f14_7, F.f7_7, F.f0_7, F.f2_5, F.f0_2, F.f0_14, e_d, e_a, e_b, ok, okZ, okR, bit1, IWidth.toCode, IWidth.ofCode]

theorem imin (w : IWidth) (d : Opnd) (a : Opnd) (b : Opnd) : Statement (.imin w d a b) := by
  refine of_raw rfl rfl ?_
  intro hf hi l next hl
  have F := encA_fields (M := 1) (fn := (4 * 4 + w.toCode)) (d := d.code) (a := a.code) (b := b.code) (by decide) (by cases w <;> decide) (Opnd.code_lt d) (Opnd.code_lt a) (Opnd.code_lt b)
  exact ⟨F.lt, imin_raw w d a b l next _ F (operand hl d (by simp [Instr.named, Named.ds, Named.only, Named.mem])) (operand hl a (by simp [Instr.named, Named.ds, Named.only, Named.mem])) (operand hl b (by simp [Instr.named, Named.ds, Named.only, Named.mem]))⟩

theorem imax_raw (w : IWidth) (d : Opnd) (a : Opnd) (b : Opnd) (l : W32) (next : List W32) (wd : Nat)
    (F : FieldsA wd 1 (4 * 5 + w.toCode) d.code a.code b.code)
    (e_d : opndOf d.code l = d)
    (e_a : opndOf a.code l = a)
    (e_b : opndOf b.code l = b) :
    decodeRaw wd l next = .ok ⟨.imax w d a b, true, true⟩ := by
  cases w <;> simp [decodeInt1, decodeRaw, F.f26_6, F.f21_5, F.f23_3, F.f21_2, F.f21_3, F.f21_4, F.f23_2, F.f23_1, F.f24_2, F.f24_1, F.f25_1, F.f14_7, F.f7_7, F.f0_7, F.f2_5, F.f0_2, F.f0_14, e_d, e_a, e_b, ok, okZ, okR, bit1, IWidth.toCode, IWidth.ofCode]

theorem imax (w : IWidth) (d : Opnd) (a : Opnd) (b : Opnd) : Statement (.imax w d a b) := by
  refine of_raw rfl rfl ?_
  intro hf hi l next hl
  have F := encA_fields (M := 1) (fn := (4 * 5 + w.toCode)) (d := d.code) (a := a.code) (b := b.code) (by decide) (by cases w <;> decide) (Opnd.code_lt d) (Opnd.code_lt a) (Opnd.code_lt b)
  exact ⟨F.lt, imax_raw w d a b l next _ F (operand hl d (by simp [Instr.named, Named.ds, Named.only, Named.mem])) (operand hl a (by simp [Instr.named, Named.ds, Named.only, Named.mem])) (operand hl b (by simp [Instr.named, Named.ds, Named.only, Named.mem]))⟩

theorem iminu_raw (w : IWidth) (d : Opnd) (a : Opnd) (b : Opnd) (l : W32) (next : List W32) (wd : Nat)
    (F : FieldsA wd 1 (4 * 6 + w.toCode) d.code a.code b.code)
    (e_d : opndOf d.code l = d)
    (e_a : opndOf a.code l = a)
    (e_b : opndOf b.code l = b) :
    decodeRaw wd l next = .ok ⟨.iminu w d a b, true, true⟩ := by
  cases w <;> simp [decodeInt1, decodeRaw, F.f26_6, F.f21_5, F.f23_3, F.f21_2, F.f21_3, F.f21_4, F.f23_2, F.f23_1, F.f24_2, F.f24_1, F.f25_1, F.f14_7, F.f7_7, F.f0_7, F.f2_5, F.f0_2, F.f0_14, e_d, e_a, e_b, ok, okZ, okR, bit1, IWidth.toCode, IWidth.ofCode]

theorem iminu (w : IWidth) (d : Opnd) (a : Opnd) (b : Opnd) : Statement (.iminu w d a b) := by
  refine of_raw rfl rfl ?_
  intro hf hi l next hl
  have F := encA_fields (M := 1) (fn := (4 * 6 + w.toCode)) (d := d.code) (a := a.code) (b := b.code) (by decide) (by cases w <;> decide) (Opnd.code_lt d) (Opnd.code_lt a) (Opnd.code_lt b)
  exact ⟨F.lt, iminu_raw w d a b l next _ F (operand hl d (by simp [Instr.named, Named.ds, Named.only, Named.mem])) (operand hl a (by simp [Instr.named, Named.ds, Named.only, Named.mem])) (operand hl b (by simp [Instr.named, Named.ds, Named.only, Named.mem]))⟩

theorem imaxu_raw (w : IWidth) (d : Opnd) (a : Opnd) (b : Opnd) (l : W32) (next : List W32) (wd : Nat)
    (F : FieldsA wd 1 (4 * 7 + w.toCode) d.code a.code b.code)
    (e_d : opndOf d.code l = d)
    (e_a : opndOf a.code l = a)
    (e_b : opndOf b.code l = b) :
    decodeRaw wd l next = .ok ⟨.imaxu w d a b, true, true⟩ := by
  cases w <;> simp [decodeInt1, decodeRaw, F.f26_6, F.f21_5, F.f23_3, F.f21_2, F.f21_3, F.f21_4, F.f23_2, F.f23_1, F.f24_2, F.f24_1, F.f25_1, F.f14_7, F.f7_7, F.f0_7, F.f2_5, F.f0_2, F.f0_14, e_d, e_a, e_b, ok, okZ, okR, bit1, IWidth.toCode, IWidth.ofCode]

theorem imaxu (w : IWidth) (d : Opnd) (a : Opnd) (b : Opnd) : Statement (.imaxu w d a b) := by
  refine of_raw rfl rfl ?_
  intro hf hi l next hl
  have F := encA_fields (M := 1) (fn := (4 * 7 + w.toCode)) (d := d.code) (a := a.code) (b := b.code) (by decide) (by cases w <;> decide) (Opnd.code_lt d) (Opnd.code_lt a) (Opnd.code_lt b)
  exact ⟨F.lt, imaxu_raw w d a b l next _ F (operand hl d (by simp [Instr.named, Named.ds, Named.only, Named.mem])) (operand hl a (by simp [Instr.named, Named.ds, Named.only, Named.mem])) (operand hl b (by simp [Instr.named, Named.ds, Named.only, Named.mem]))⟩

theorem iand_raw (w : IWidth) (d : Opnd) (a : Opnd) (b : Opnd) (l : W32) (next : List W32) (wd : Nat)
    (F : FieldsA wd 2 (4 * 0 + w.toCode) d.code a.code b.code)
    (e_d : opndOf d.code l = d)
    (e_a : opndOf a.code l = a)
    (e_b : opndOf b.code l = b) :
    decodeRaw wd l next = .ok ⟨.iand w d a b, true, true⟩ := by
  cases w <;> simp [decodeInt2, decodeRaw, F.f26_6, F.f21_5, F.f23_3, F.f21_2, F.f21_3, F.f21_4, F.f23_2, F.f23_1, F.f24_2, F.f24_1, F.f25_1, F.f14_7, F.f7_7, F.f0_7, F.f2_5, F.f0_2, F.f0_14, e_d, e_a, e_b, ok, okZ, okR, bit1, IWidth.toCode, IWidth.ofCode]

theorem iand (w : IWidth) (d : Opnd) (a : Opnd) (b : Opnd) : Statement (.iand w d a b) := by
  refine of_raw rfl rfl ?_
  intro hf hi l next hl
  have F := encA_fields (M := 2) (fn := (4 * 0 + w.toCode)) (d := d.code) (a := a.code) (b := b.code) (by decide) (by cases w <;> decide) (Opnd.code_lt d) (Opnd.code_lt a) (Opnd.code_lt b)
  exact ⟨F.lt, iand_raw w d a b l next _ F (operand hl d (by simp [Instr.named, Named.ds, Named.only, Named.mem])) (operand hl a (by simp [Instr.named, Named.ds, Named.only, Named.mem])) (operand hl b (by simp [Instr.named, Named.ds, Named.only, Named.mem]))⟩

theorem ior_raw (w : IWidth) (d : Opnd) (a : Opnd) (b : Opnd) (l : W32) (next : List W32) (wd : Nat)
    (F : FieldsA wd 2 (4 * 1 + w.toCode) d.code a.code b.code)
    (e_d : opndOf d.code l = d)
    (e_a : opndOf a.code l = a)
    (e_b : opndOf b.code l = b) :
    decodeRaw wd l next = .ok ⟨.ior w d a b, true, true⟩ := by
  cases w <;> simp [decodeInt2, decodeRaw, F.f26_6, F.f21_5, F.f23_3, F.f21_2, F.f21_3, F.f21_4, F.f23_2, F.f23_1, F.f24_2, F.f24_1, F.f25_1, F.f14_7, F.f7_7, F.f0_7, F.f2_5, F.f0_2, F.f0_14, e_d, e_a, e_b, ok, okZ, okR, bit1, IWidth.toCode, IWidth.ofCode]

theorem ior (w : IWidth) (d : Opnd) (a : Opnd) (b : Opnd) : Statement (.ior w d a b) := by
  refine of_raw rfl rfl ?_
  intro hf hi l next hl
  have F := encA_fields (M := 2) (fn := (4 * 1 + w.toCode)) (d := d.code) (a := a.code) (b := b.code) (by decide) (by cases w <;> decide) (Opnd.code_lt d) (Opnd.code_lt a) (Opnd.code_lt b)
  exact ⟨F.lt, ior_raw w d a b l next _ F (operand hl d (by simp [Instr.named, Named.ds, Named.only, Named.mem])) (operand hl a (by simp [Instr.named, Named.ds, Named.only, Named.mem])) (operand hl b (by simp [Instr.named, Named.ds, Named.only, Named.mem]))⟩

theorem ixor_raw (w : IWidth) (d : Opnd) (a : Opnd) (b : Opnd) (l : W32) (next : List W32) (wd : Nat)
    (F : FieldsA wd 2 (4 * 2 + w.toCode) d.code a.code b.code)
    (e_d : opndOf d.code l = d)
    (e_a : opndOf a.code l = a)
    (e_b : opndOf b.code l = b) :
    decodeRaw wd l next = .ok ⟨.ixor w d a b, true, true⟩ := by
  cases w <;> simp [decodeInt2, decodeRaw, F.f26_6, F.f21_5, F.f23_3, F.f21_2, F.f21_3, F.f21_4, F.f23_2, F.f23_1, F.f24_2, F.f24_1, F.f25_1, F.f14_7, F.f7_7, F.f0_7, F.f2_5, F.f0_2, F.f0_14, e_d, e_a, e_b, ok, okZ, okR, bit1, IWidth.toCode, IWidth.ofCode]

theorem ixor (w : IWidth) (d : Opnd) (a : Opnd) (b : Opnd) : Statement (.ixor w d a b) := by
  refine of_raw rfl rfl ?_
  intro hf hi l next hl
  have F := encA_fields (M := 2) (fn := (4 * 2 + w.toCode)) (d := d.code) (a := a.code) (b := b.code) (by decide) (by cases w <;> decide) (Opnd.code_lt d) (Opnd.code_lt a) (Opnd.code_lt b)
  exact ⟨F.lt, ixor_raw w d a b l next _ F (operand hl d (by simp [Instr.named, Named.ds, Named.only, Named.mem])) (operand hl a (by simp [Instr.named, Named.ds, Named.only, Named.mem])) (operand hl b (by simp [Instr.named, Named.ds, Named.only, Named.mem]))⟩

theorem iandn_raw (w : IWidth) (d : Opnd) (a : Opnd) (b : Opnd) (l : W32) (next : List W32) (wd : Nat)
    (F : FieldsA wd 2 (4 * 3 + w.toCode) d.code a.code b.code)
    (e_d : opndOf d.code l = d)
    (e_a : opndOf a.code l = a)
    (e_b : opndOf b.code l = b) :
    decodeRaw wd l next = .ok ⟨.iandn w d a b, true, true⟩ := by
  cases w <;> simp [decodeInt2, decodeRaw, F.f26_6, F.f21_5, F.f23_3, F.f21_2, F.f21_3, F.f21_4, F.f23_2, F.f23_1, F.f24_2, F.f24_1, F.f25_1, F.f14_7, F.f7_7, F.f0_7, F.f2_5, F.f0_2, F.f0_14, e_d, e_a, e_b, ok, okZ, okR, bit1, IWidth.toCode, IWidth.ofCode]

theorem iandn (w : IWidth) (d : Opnd) (a : Opnd) (b : Opnd) : Statement (.iandn w d a b) := by
  refine of_raw rfl rfl ?_
  intro hf hi l next hl
  have F := encA_fields (M := 2) (fn := (4 * 3 + w.toCode)) (d := d.code) (a := a.code) (b := b.code) (by decide) (by cases w <;> decide) (Opnd.code_lt d) (Opnd.code_lt a) (Opnd.code_lt b)
  exact ⟨F.lt, iandn_raw w d a b l next _ F (operand hl d (by simp [Instr.named, Named.ds, Named.only, Named.mem])) (operand hl a (by simp [Instr.named, Named.ds, Named.only, Named.mem])) (operand hl b (by simp [Instr.named, Named.ds, Named.only, Named.mem]))⟩

theorem ishl_raw (w : IWidth) (d : Opnd) (a : Opnd) (b : Opnd) (l : W32) (next : List W32) (wd : Nat)
    (F : FieldsA wd 2 (4 * 4 + w.toCode) d.code a.code b.code)
    (e_d : opndOf d.code l = d)
    (e_a : opndOf a.code l = a)
    (e_b : opndOf b.code l = b) :
    decodeRaw wd l next = .ok ⟨.ishl w d a b, true, true⟩ := by
  cases w <;> simp [decodeInt2, decodeRaw, F.f26_6, F.f21_5, F.f23_3, F.f21_2, F.f21_3, F.f21_4, F.f23_2, F.f23_1, F.f24_2, F.f24_1, F.f25_1, F.f14_7, F.f7_7, F.f0_7, F.f2_5, F.f0_2, F.f0_14, e_d, e_a, e_b, ok, okZ, okR, bit1, IWidth.toCode, IWidth.ofCode]

theorem ishl (w : IWidth) (d : Opnd) (a : Opnd) (b : Opnd) : Statement (.ishl w d a b) := by
  refine of_raw rfl rfl ?_
  intro hf hi l next hl
  have F := encA_fields (M := 2) (fn := (4 * 4 + w.toCode)) (d := d.code) (a := a.code) (b := b.code) (by decide) (by cases w <;> decide) (Opnd.code_lt d) (Opnd.code_lt a) (Opnd.code_lt b)
  exact ⟨F.lt, ishl_raw w d a b l next _ F (operand hl d (by simp [Instr.named, Named.ds, Named.only, Named.mem])) (operand hl a (by simp [Instr.named, Named.ds, Named.only, Named.mem])) (operand hl b (by simp [Instr.named, Named.ds, Named.only, Named.mem]))⟩

theorem ishr_raw (w : IWidth) (d : Opnd) (a : Opnd) (b : Opnd) (l : W32) (next : List W32) (wd : Nat)
    (F : FieldsA wd 2 (4 * 5 + w.toCode) d.code a.code b.code)
    (e_d : opndOf d.code l = d)
    (e_a : opndOf a.code l = a)
    (e_b : opndOf b.code l = b) :
    decodeRaw wd l next = .ok ⟨.ishr w d a b, true, true⟩ := by
  cases w <;> simp [decodeInt2, decodeRaw, F.f26_6, F.f21_5, F.f23_3, F.f21_2, F.f21_3, F.f21_4, F.f23_2, F.f23_1, F.f24_2, F.f24_1, F.f25_1, F.f14_7, F.f7_7, F.f0_7, F.f2_5, F.f0_2, F.f0_14, e_d, e_a, e_b, ok, okZ, okR, bit1, IWidth.toCode, IWidth.ofCode]

theorem ishr (w : IWidth) (d : Opnd) (a : Opnd) (b : Opnd) : Statement (.ishr w d a b) := by
  refine of_raw rfl rfl ?_
  intro hf hi l next hl
  have F := encA_fields (M := 2) (fn := (4 * 5 + w.toCode)) (d := d.code) (a := a.code) (b := b.code) (by decide) (by cases w <;> decide) (Opnd.code_lt d) (Opnd.code_lt a) (Opnd.code_lt b)
  exact ⟨F.lt, ishr_raw w d a b l next _ F (operand hl d (by simp [Instr.named, Named.ds, Named.only, Named.mem])) (operand hl a (by simp [Instr.named, Named.ds, Named.only, Named.mem])) (operand hl b (by simp [Instr.named, Named.ds, Named.only, Named.mem]))⟩

theorem isar_raw (w : IWidth) (d : Opnd) (a : Opnd) (b : Opnd) (l : W32) (next : List W32) (wd : Nat)
    (F : FieldsA wd 2 (4 * 6 + w.toCode) d.code a.code b.code)
    (e_d : opndOf d.code l = d)
    (e_a : opndOf a.code l = a)
    (e_b : opndOf b.code l = b) :
    decodeRaw wd l next = .ok ⟨.isar w d a b, true, true⟩ := by
  cases w <;> simp [decodeInt2, decodeRaw, F.f26_6, F.f21_5, F.f23_3, F.f21_2, F.f21_3, F.f21_4, F.f23_2, F.f23_1, F.f24_2, F.f24_1, F.f25_1, F.f14_7, F.f7_7, F.f0_7, F.f2_5, F.f0_2, F.f0_14, e_d, e_a, e_b, ok, okZ, okR, bit1, IWidth.toCode, IWidth.ofCode]

theorem isar (w : IWidth) (d : Opnd) (a : Opnd) (b : Opnd) : Statement (.isar w d a b) := by
  refine of_raw rfl rfl ?_
  intro hf hi l next hl
  have F := encA_fields (M := 2) (fn := (4 * 6 + w.toCode)) (d := d.code) (a := a.code) (b := b.code) (by decide) (by cases w <;> decide) (Opnd.code_lt d) (Opnd.code_lt a) (Opnd.code_lt b)
  exact ⟨F.lt, isar_raw w d a b l next _ F (operand hl d (by simp [Instr.named, Named.ds, Named.only, Named.mem])) (operand hl a (by simp [Instr.named, Named.ds, Named.only, Named.mem])) (operand hl b (by simp [Instr.named, Named.ds, Named.only, Named.mem]))⟩

theorem irot_raw (w : IWidth) (d : Opnd) (a : Opnd) (b : Opnd) (l : W32) (next : List W32) (wd : Nat)
    (F : FieldsA wd 2 (4 * 7 + w.toCode) d.code a.code b.code)
    (e_d : opndOf d.code l = d)
    (e_a : opndOf a.code l = a)
    (e_b : opndOf b.code l = b) :
    decodeRaw wd l next = .ok ⟨.irot w d a b, true, true⟩ := by
  cases w <;> simp [decodeInt2, decodeRaw, F.f26_6, F.f21_5, F.f23_3, F.f21_2, F.f21_3, F.f21_4, F.f23_2, F.f23_1, F.f24_2, F.f24_1, F.f25_1, F.f14_7, F.f7_7, F.f0_7, F.f2_5, F.f0_2, F.f0_14, e_d, e_a, e_b, ok, okZ, okR, bit1, IWidth.toCode, IWidth.ofCode]

theorem irot (w : IWidth) (d : Opnd) (a : Opnd) (b : Opnd) : Statement (.irot w d a b) := by
  refine of_raw rfl rfl ?_
  intro hf hi l next hl
  have F := encA_fields (M := 2) (fn := (4 * 7 + w.toCode)) (d := d.code) (a := a.code) (b := b.code) (by decide) (by cases w <;> decide) (Opnd.code_lt d) (Opnd.code_lt a) (Opnd.code_lt b)
  exact ⟨F.lt, irot_raw w d a b l next _ F (operand hl d (by simp [Instr.named, Named.ds, Named.only, Named.mem])) (operand hl a (by simp [Instr.named, Named.ds, Named.only, Named.mem])) (operand hl b (by simp [Instr.named, Named.ds, Named.only, Named.mem]))⟩

theorem iabs_raw (w : IWidth) (d : Opnd) (a : Opnd) (l : W32) (next : List W32) (wd : Nat)
    (F : FieldsA wd 3 (4 * 0 + w.toCode) d.code a.code 0)
    (e_d : opndOf d.code l = d)
    (e_a : opndOf a.code l = a) :
    decodeRaw wd l next = .ok ⟨.iabs w d a, true, true⟩ := by
  cases w <;> simp [decodeInt3, decodeRaw, F.f26_6, F.f21_5, F.f23_3, F.f21_2, F.f21_3, F.f21_4, F.f23_2, F.f23_1, F.f24_2, F.f24_1, F.f25_1, F.f14_7, F.f7_7, F.f0_7, F.f2_5, F.f0_2, F.f0_14, e_d, e_a, ok, okZ, okR, bit1, IWidth.toCode, IWidth.ofCode]

theorem iabs (w : IWidth) (d : Opnd) (a : Opnd) : Statement (.iabs w d a) := by
  refine of_raw rfl rfl ?_
  intro hf hi l next hl
  have F := encA_fields (M := 3) (fn := (4 * 0 + w.toCode)) (d := d.code) (a := a.code) (b := 0) (by decide) (by cases w <;> decide) (Opnd.code_lt d) (Opnd.code_lt a) (by decide)
  exact ⟨F.lt, iabs_raw w d a l next _ F (operand hl d (by simp [Instr.named, Named.ds, Named.only, Named.mem])) (operand hl a (by simp [Instr.named, Named.ds, Named.only, Named.mem]))⟩

theorem iclz_raw (w : IWidth) (d : Opnd) (a : Opnd) (l : W32) (next : List W32) (wd : Nat)
    (F : FieldsA wd 3 (4 * 1 + w.toCode) d.code a.code 0)
    (e_d : opndOf d.code l = d)
    (e_a : opndOf a.code l = a) :
    decodeRaw wd l next = .ok ⟨.iclz w d a, true, true⟩ := by
  cases w <;> simp [decodeInt3, decodeRaw, F.f26_6, F.f21_5, F.f23_3, F.f21_2, F.f21_3, F.f21_4, F.f23_2, F.f23_1, F.f24_2, F.f24_1, F.f25_1, F.f14_7, F.f7_7, F.f0_7, F.f2_5, F.f0_2, F.f0_14, e_d, e_a, ok, okZ, okR, bit1, IWidth.toCode, IWidth.ofCode]

theorem iclz (w : IWidth) (d : Opnd) (a : Opnd) : Statement (.iclz w d a) := by
  refine of_raw rfl rfl ?_
  intro hf hi l next hl
  have F := encA_fields (M := 3) (fn := (4 * 1 + w.toCode)) (d := d.code) (a := a.code) (b := 0) (by decide) (by cases w <;> decide) (Opnd.code_lt d) (Opnd.code_lt a) (by decide)
  exact ⟨F.lt, iclz_raw w d a l next _ F (operand hl d (by simp [Instr.named, Named.ds, Named.only, Named.mem])) (operand hl a (by simp [Instr.named, Named.ds, Named.only, Named.mem]))⟩

theorem ipopc_raw (w : IWidth) (d : Opnd) (a : Opnd) (l : W32) (next : List W32) (wd : Nat)
    (F : FieldsA wd 3 (4 * 2 + w.toCode) d.code a.code 0)
    (e_d : opndOf d.code l = d)
    (e_a : opndOf a.code l = a) :
    decodeRaw wd l next = .ok ⟨.ipopc w d a, true, true⟩ := by
  cases w <;> simp [decodeInt3, decodeRaw, F.f26_6, F.f21_5, F.f23_3, F.f21_2, F.f21_3, F.f21_4, F.f23_2, F.f23_1, F.f24_2, F.f24_1, F.f25_1, F.f14_7, F.f7_7, F.f0_7, F.f2_5, F.f0_2, F.f0_14, e_d, e_a, ok, okZ, okR, bit1, IWidth.toCode, IWidth.ofCode]

theorem ipopc (w : IWidth) (d : Opnd) (a : Opnd) : Statement (.ipopc w d a) := by
  refine of_raw rfl rfl ?_
  intro hf hi l next hl
  have F := encA_fields (M := 3) (fn := (4 * 2 + w.toCode)) (d := d.code) (a := a.code) (b := 0) (by decide) (by cases w <;> decide) (Opnd.code_lt d) (Opnd.code_lt a) (by decide)
  exact ⟨F.lt, ipopc_raw w d a l next _ F (operand hl d (by simp [Instr.named, Named.ds, Named.only, Named.mem])) (operand hl a (by simp [Instr.named, Named.ds, Named.only, Named.mem]))⟩

theorem ibrev_raw (w : IWidth) (d : Opnd) (a : Opnd) (l : W32) (next : List W32) (wd : Nat)
    (F : FieldsA wd 3 (4 * 3 + w.toCode) d.code a.code 0)
    (e_d : opndOf d.code l = d)
    (e_a : opndOf a.code l = a) :
    decodeRaw wd l next = .ok ⟨.ibrev w d a, true, true⟩ := by
  cases w <;> simp [decodeInt3, decodeRaw, F.f26_6, F.f21_5, F.f23_3, F.f21_2, F.f21_3, F.f21_4, F.f23_2, F.f23_1, F.f24_2, F.f24_1, F.f25_1, F.f14_7, F.f7_7, F.f0_7, F.f2_5, F.f0_2, F.f0_14, e_d, e_a, ok, okZ, okR, bit1, IWidth.toCode, IWidth.ofCode]

theorem ibrev (w : IWidth) (d : Opnd) (a : Opnd) : Statement (.ibrev w d a) := by
  refine of_raw rfl rfl ?_
  intro hf hi l next hl
  have F := encA_fields (M := 3) (fn := (4 * 3 + w.toCode)) (d := d.code) (a := a.code) (b := 0) (by decide) (by cases w <;> decide) (Opnd.code_lt d) (Opnd.code_lt a) (by decide)
  exact ⟨F.lt, ibrev_raw w d a l next _ F (operand hl d (by simp [Instr.named, Named.ds, Named.only, Named.mem])) (operand hl a (by simp [Instr.named, Named.ds, Named.only, Named.mem]))⟩

theorem iadds_raw (w : IWidth) (d : Opnd) (a : Opnd) (b : Opnd) (l : W32) (next : List W32) (wd : Nat)
    (F : FieldsA wd 3 (4 * 4 + w.toCode) d.code a.code b.code)
    (e_d : opndOf d.code l = d)
    (e_a : opndOf a.code l = a)
    (e_b : opndOf b.code l = b) :
    decodeRaw wd l next = .ok ⟨.iadds w d a b, true, true⟩ := by
  cases w <;> simp [decodeInt3, decodeRaw, F.f26_6, F.f21_5, F.f23_3, F.f21_2, F.f21_3, F.f21_4, F.f23_2, F.f23_1, F.f24_2, F.f24_1, F.f25_1, F.f14_7, F.f7_7, F.f0_7, F.f2_5, F.f0_2, F.f0_14, e_d, e_a, e_b, ok, okZ, okR, bit1, IWidth.toCode, IWidth.ofCode]

theorem iadds (w : IWidth) (d : Opnd) (a : Opnd) (b : Opnd) : Statement (.iadds w d a b) := by
  refine of_raw rfl rfl ?_
  intro hf hi l next hl
  have F := encA_fields (M := 3) (fn := (4 * 4 + w.toCode)) (d := d.code) (a := a.code) (b := b.code) (by decide) (by cases w <;> decide) (Opnd.code_lt d) (Opnd.code_lt a) (Opnd.code_lt b)
  exact ⟨F.lt, iadds_raw w d a b l next _ F (operand hl d (by simp [Instr.named, Named.ds, Named.only, Named.mem])) (operand hl a (by simp [Instr.named, Named.ds, Named.only, Named.mem])) (operand hl b (by simp [Instr.named, Named.ds, Named.only, Named.mem]))⟩

theorem isubs_raw (w : IWidth) (d : Opnd) (a : Opnd) (b : Opnd) (l : W32) (next : List W32) (wd : Nat)
    (F : FieldsA wd 3 (4 * 5 + w.toCode) d.code a.code b.code)
    (e_d : opndOf d.code l = d)
    (e_a : opndOf a.code l = a)
    (e_b : opndOf b.code l = b) :
    decodeRaw wd l next = .ok ⟨.isubs w d a b, true, true⟩ := by
  cases w <;> simp [decodeInt3, decodeRaw, F.f26_6, F.f21_5, F.f23_3, F.f21_2, F.f21_3, F.f21_4, F.f23_2, F.f23_1, F.f24_2, F.f24_1, F.f25_1, F.f14_7, F.f7_7, F.f0_7, F.f2_5, F.f0_2, F.f0_14, e_d, e_a, e_b, ok, okZ, okR, bit1, IWidth.toCode, IWidth.ofCode]

theorem isubs (w : IWidth) (d : Opnd) (a : Opnd) (b : Opnd) : Statement (.isubs w d a b) := by
  refine of_raw rfl rfl ?_
  intro hf hi l next hl
  have F := encA_fields (M := 3) (fn := (4 * 5 + w.toCode)) (d := d.code) (a := a.code) (b := b.code) (by decide) (by cases w <;> decide) (Opnd.code_lt d) (Opnd.code_lt a) (Opnd.code_lt b)
  exact ⟨F.lt, isubs_raw w d a b l next _ F (operand hl d (by simp [Instr.named, Named.ds, Named.only, Named.mem])) (operand hl a (by simp [Instr.named, Named.ds, Named.only, Named.mem])) (operand hl b (by simp [Instr.named, Named.ds, Named.only, Named.mem]))⟩

theorem imad_raw (w : IWidth) (d : Opnd) (a : Opnd) (b : Opnd) (l : W32) (next : List W32) (wd : Nat)
    (F : FieldsA wd 3 (4 * 6 + w.toCode) d.code a.code b.code)
    (e_d : opndOf d.code l = d)
    (e_a : opndOf a.code l = a)
    (e_b : opndOf b.code l = b) :
    decodeRaw wd l next = .ok ⟨.imad w d a b, true, true⟩ := by
  cases w <;> simp [decodeInt3, decodeRaw, F.f26_6, F.f21_5, F.f23_3, F.f21_2, F.f21_3, F.f21_4, F.f23_2, F.f23_1, F.f24_2, F.f24_1, F.f25_1, F.f14_7, F.f7_7, F.f0_7, F.f2_5, F.f0_2, F.f0_14, e_d, e_a, e_b, ok, okZ, okR, bit1, IWidth.toCode, IWidth.ofCode]

theorem imad (w : IWidth) (d : Opnd) (a : Opnd) (b : Opnd) : Statement (.imad w d a b) := by
  refine of_raw rfl rfl ?_
  intro hf hi l next hl
  have F := encA_fields (M := 3) (fn := (4 * 6 + w.toCode)) (d := d.code) (a := a.code) (b := b.code) (by decide) (by cases w <;> decide) (Opnd.code_lt d) (Opnd.code_lt a) (Opnd.code_lt b)
  exact ⟨F.lt, imad_raw w d a b l next _ F (operand hl d (by simp [Instr.named, Named.ds, Named.only, Named.mem])) (operand hl a (by simp [Instr.named, Named.ds, Named.only, Named.mem])) (operand hl b (by simp [Instr.named, Named.ds, Named.only, Named.mem]))⟩

theorem imulhu_raw (w : IWidth) (d : Opnd) (a : Opnd) (b : Opnd) (l : W32) (next : List W32) (wd : Nat)
    (F : FieldsA wd 3 (4 * 7 + w.toCode) d.code a.code b.code)
    (e_d : opndOf d.code l = d)
    (e_a : opndOf a.code l = a)
    (e_b : opndOf b.code l = b) :
    decodeRaw wd l next = .ok ⟨.imulhu w d a b, true, true⟩ := by
  cases w <;> simp [decodeInt3, decodeRaw, F.f26_6, F.f21_5, F.f23_3, F.f21_2, F.f21_3, F.f21_4, F.f23_2, F.f23_1, F.f24_2, F.f24_1, F.f25_1, F.f14_7, F.f7_7, F.f0_7, F.f2_5, F.f0_2, F.f0_14, e_d, e_a, e_b, ok, okZ, okR, bit1, IWidth.toCode, IWidth.ofCode]

theorem imulhu (w : IWidth) (d : Opnd) (a : Opnd) (b : Opnd) : Statement (.imulhu w d a b) := by
  refine of_raw rfl rfl ?_
  intro hf hi l next hl
  have F := encA_fields (M := 3) (fn := (4 * 7 + w.toCode)) (d := d.code) (a := a.code) (b := b.code) (by decide) (by cases w <;> decide) (Opnd.code_lt d) (Opnd.code_lt a) (Opnd.code_lt b)
  exact ⟨F.lt, imulhu_raw w d a b l next _ F (operand hl d (by simp [Instr.named, Named.ds, Named.only, Named.mem])) (operand hl a (by simp [Instr.named, Named.ds, Named.only, Named.mem])) (operand hl b (by simp [Instr.named, Named.ds, Named.only, Named.mem]))⟩

theorem icmp_raw (c : ICond) (w : IWidth) (p : Nat) (a : Opnd) (b : Opnd) (l : W32) (next : List W32) (wd : Nat)
    (F : FieldsA wd 4 (4 * c.toCode + w.toCode) p a.code b.code) (hf : (Instr.icmp c w p a b).fits = true)
    (e_a : opndOf a.code l = a)
    (e_b : opndOf b.code l = b) :
    decodeRaw wd l next = .ok ⟨.icmp c w p a b, true, true⟩ := by
  simp [Instr.fits] at hf
  cases c <;> cases w <;> simp [decodeAlu, decodeRaw, F.f26_6, F.f21_5, F.f23_3, F.f21_2, F.f21_3, F.f21_4, F.f23_2, F.f23_1, F.f24_2, F.f24_1, F.f25_1, F.f14_7, F.f7_7, F.f0_7, F.f2_5, F.f0_2, F.f0_14, e_a, e_b, ok, okZ, okR, bit1, ICond.toCode, IWidth.toCode, ICond.ofCode, IWidth.ofCode]

theorem icmp (c : ICond) (w : IWidth) (p : Nat) (a : Opnd) (b : Opnd) : Statement (.icmp c w p a b) := by
  refine of_raw rfl rfl ?_
  intro hf hi l next hl
  have hf0 := hf
  simp [Instr.fits] at hf0
  have F := encA_fields (M := 4) (fn := (4 * c.toCode + w.toCode)) (d := p) (a := a.code) (b := b.code) (by decide) (by cases c <;> cases w <;> decide) (by omega) (Opnd.code_lt a) (Opnd.code_lt b)
  exact ⟨F.lt, icmp_raw c w p a b l next _ F hf (operand hl a (by simp [Instr.named, Named.ds, Named.only, Named.mem])) (operand hl b (by simp [Instr.named, Named.ds, Named.only, Named.mem]))⟩

theorem ibfx_raw (d : Opnd) (a : Opnd) (b : Opnd) (l : W32) (next : List W32) (wd : Nat)
    (F : FieldsA wd 5 0 d.code a.code b.code)
    (e_d : opndOf d.code l = d)
    (e_a : opndOf a.code l = a)
    (e_b : opndOf b.code l = b) :
    decodeRaw wd l next = .ok ⟨.ibfx d a b, true, true⟩ := by
  simp [decodeAlu, decodeRaw, F.f26_6, F.f21_5, F.f23_3, F.f21_2, F.f21_3, F.f21_4, F.f23_2, F.f23_1, F.f24_2, F.f24_1, F.f25_1, F.f14_7, F.f7_7, F.f0_7, F.f2_5, F.f0_2, F.f0_14, e_d, e_a, e_b, ok, okZ, okR, bit1]

theorem ibfx (d : Opnd) (a : Opnd) (b : Opnd) : Statement (.ibfx d a b) := by
  refine of_raw rfl rfl ?_
  intro hf hi l next hl
  have F := encA_fields (M := 5) (fn := 0) (d := d.code) (a := a.code) (b := b.code) (by decide) (by decide) (Opnd.code_lt d) (Opnd.code_lt a) (Opnd.code_lt b)
  exact ⟨F.lt, ibfx_raw d a b l next _ F (operand hl d (by simp [Instr.named, Named.ds, Named.only, Named.mem])) (operand hl a (by simp [Instr.named, Named.ds, Named.only, Named.mem])) (operand hl b (by simp [Instr.named, Named.ds, Named.only, Named.mem]))⟩

theorem ibfxS_raw (d : Opnd) (a : Opnd) (b : Opnd) (l : W32) (next : List W32) (wd : Nat)
    (F : FieldsA wd 5 1 d.code a.code b.code)
    (e_d : opndOf d.code l = d)
    (e_a : opndOf a.code l = a)
    (e_b : opndOf b.code l = b) :
    decodeRaw wd l next = .ok ⟨.ibfxS d a b, true, true⟩ := by
  simp [decodeAlu, decodeRaw, F.f26_6, F.f21_5, F.f23_3, F.f21_2, F.f21_3, F.f21_4, F.f23_2, F.f23_1, F.f24_2, F.f24_1, F.f25_1, F.f14_7, F.f7_7, F.f0_7, F.f2_5, F.f0_2, F.f0_14, e_d, e_a, e_b, ok, okZ, okR, bit1]

theorem ibfxS (d : Opnd) (a : Opnd) (b : Opnd) : Statement (.ibfxS d a b) := by
  refine of_raw rfl rfl ?_
  intro hf hi l next hl
  have F := encA_fields (M := 5) (fn := 1) (d := d.code) (a := a.code) (b := b.code) (by decide) (by decide) (Opnd.code_lt d) (Opnd.code_lt a) (Opnd.code_lt b)
  exact ⟨F.lt, ibfxS_raw d a b l next _ F (operand hl d (by simp [Instr.named, Named.ds, Named.only, Named.mem])) (operand hl a (by simp [Instr.named, Named.ds, Named.only, Named.mem])) (operand hl b (by simp [Instr.named, Named.ds, Named.only, Named.mem]))⟩

theorem ibfi_raw (d : Opnd) (a : Opnd) (b : Opnd) (l : W32) (next : List W32) (wd : Nat)
    (F : FieldsA wd 5 2 d.code a.code b.code)
    (e_d : opndOf d.code l = d)
    (e_a : opndOf a.code l = a)
    (e_b : opndOf b.code l = b) :
    decodeRaw wd l next = .ok ⟨.ibfi d a b, true, true⟩ := by
  simp [decodeAlu, decodeRaw, F.f26_6, F.f21_5, F.f23_3, F.f21_2, F.f21_3, F.f21_4, F.f23_2, F.f23_1, F.f24_2, F.f24_1, F.f25_1, F.f14_7, F.f7_7, F.f0_7, F.f2_5, F.f0_2, F.f0_14, e_d, e_a, e_b, ok, okZ, okR, bit1]

theorem ibfi (d : Opnd) (a : Opnd) (b : Opnd) : Statement (.ibfi d a b) := by
  refine of_raw rfl rfl ?_
  intro hf hi l next hl
  have F := encA_fields (M := 5) (fn := 2) (d := d.code) (a := a.code) (b := b.code) (by decide) (by decide) (Opnd.code_lt d) (Opnd.code_lt a) (Opnd.code_lt b)
  exact ⟨F.lt, ibfi_raw d a b l next _ F (operand hl d (by simp [Instr.named, Named.ds, Named.only, Named.mem])) (operand hl a (by simp [Instr.named, Named.ds, Named.only, Named.mem])) (operand hl b (by simp [Instr.named, Named.ds, Named.only, Named.mem]))⟩

theorem mov_raw (d : Opnd) (a : Opnd) (l : W32) (next : List W32) (wd : Nat)
    (F : FieldsA wd 7 0 d.code a.code 0)
    (e_d : opndOf d.code l = d)
    (e_a : opndOf a.code l = a) :
    decodeRaw wd l next = .ok ⟨.mov d a, true, true⟩ := by
  simp [decodeAlu, decodeRaw, F.f26_6, F.f21_5, F.f23_3, F.f21_2, F.f21_3, F.f21_4, F.f23_2, F.f23_1, F.f24_2, F.f24_1, F.f25_1, F.f14_7, F.f7_7, F.f0_7, F.f2_5, F.f0_2, F.f0_14, e_d, e_a, ok, okZ, okR, bit1]

theorem mov (d : Opnd) (a : Opnd) : Statement (.mov d a) := by
  refine of_raw rfl rfl ?_
  intro hf hi l next hl
  have F := encA_fields (M := 7) (fn := 0) (d := d.code) (a := a.code) (b := 0) (by decide) (by decide) (Opnd.code_lt d) (Opnd.code_lt a) (by decide)
  exact ⟨F.lt, mov_raw d a l next _ F (operand hl d (by simp [Instr.named, Named.ds, Named.only, Named.mem])) (operand hl a (by simp [Instr.named, Named.ds, Named.only, Named.mem]))⟩

theorem fadd_raw (t : FType) (d : Opnd) (a : Opnd) (b : Opnd) (l : W32) (next : List W32) (wd : Nat)
    (F : FieldsA wd 8 (4 * 0 + t.toCode) d.code a.code b.code)
    (e_d : opndOf d.code l = d)
    (e_a : opndOf a.code l = a)
    (e_b : opndOf b.code l = b) :
    decodeRaw wd l next = .ok ⟨.fadd t d a b, true, true⟩ := by
  cases t <;> simp [decodeAlu, decodeRaw, F.f26_6, F.f21_5, F.f23_3, F.f21_2, F.f21_3, F.f21_4, F.f23_2, F.f23_1, F.f24_2, F.f24_1, F.f25_1, F.f14_7, F.f7_7, F.f0_7, F.f2_5, F.f0_2, F.f0_14, e_d, e_a, e_b, ok, okZ, okR, bit1, FType.toCode, FType.ofCode]

theorem fadd (t : FType) (d : Opnd) (a : Opnd) (b : Opnd) : Statement (.fadd t d a b) := by
  refine of_raw rfl rfl ?_
  intro hf hi l next hl
  have F := encA_fields (M := 8) (fn := (4 * 0 + t.toCode)) (d := d.code) (a := a.code) (b := b.code) (by decide) (by cases t <;> decide) (Opnd.code_lt d) (Opnd.code_lt a) (Opnd.code_lt b)
  exact ⟨F.lt, fadd_raw t d a b l next _ F (operand hl d (by simp [Instr.named, Named.ds, Named.only, Named.mem])) (operand hl a (by simp [Instr.named, Named.ds, Named.only, Named.mem])) (operand hl b (by simp [Instr.named, Named.ds, Named.only, Named.mem]))⟩

theorem fsub_raw (t : FType) (d : Opnd) (a : Opnd) (b : Opnd) (l : W32) (next : List W32) (wd : Nat)
    (F : FieldsA wd 8 (4 * 1 + t.toCode) d.code a.code b.code)
    (e_d : opndOf d.code l = d)
    (e_a : opndOf a.code l = a)
    (e_b : opndOf b.code l = b) :
    decodeRaw wd l next = .ok ⟨.fsub t d a b, true, true⟩ := by
  cases t <;> simp [decodeAlu, decodeRaw, F.f26_6, F.f21_5, F.f23_3, F.f21_2, F.f21_3, F.f21_4, F.f23_2, F.f23_1, F.f24_2, F.f24_1, F.f25_1, F.f14_7, F.f7_7, F.f0_7, F.f2_5, F.f0_2, F.f0_14, e_d, e_a, e_b, ok, okZ, okR, bit1, FType.toCode, FType.ofCode]

theorem fsub (t : FType) (d : Opnd) (a : Opnd) (b : Opnd) : Statement (.fsub t d a b) := by
  refine of_raw rfl rfl ?_
  intro hf hi l next hl
  have F := encA_fields (M := 8) (fn := (4 * 1 + t.toCode)) (d := d.code) (a := a.code) (b := b.code) (by decide) (by cases t <;> decide) (Opnd.code_lt d) (Opnd.code_lt a) (Opnd.code_lt b)
  exact ⟨F.lt, fsub_raw t d a b l next _ F (operand hl d (by simp [Instr.named, Named.ds, Named.only, Named.mem])) (operand hl a (by simp [Instr.named, Named.ds, Named.only, Named.mem])) (operand hl b (by simp [Instr.named, Named.ds, Named.only, Named.mem]))⟩

theorem fmul_raw (t : FType) (d : Opnd) (a : Opnd) (b : Opnd) (l : W32) (next : List W32) (wd : Nat)
    (F : FieldsA wd 8 (4 * 2 + t.toCode) d.code a.code b.code)
    (e_d : opndOf d.code l = d)
    (e_a : opndOf a.code l = a)
    (e_b : opndOf b.code l = b) :
    decodeRaw wd l next = .ok ⟨.fmul t d a b, true, true⟩ := by
  cases t <;> simp [decodeAlu, decodeRaw, F.f26_6, F.f21_5, F.f23_3, F.f21_2, F.f21_3, F.f21_4, F.f23_2, F.f23_1, F.f24_2, F.f24_1, F.f25_1, F.f14_7, F.f7_7, F.f0_7, F.f2_5, F.f0_2, F.f0_14, e_d, e_a, e_b, ok, okZ, okR, bit1, FType.toCode, FType.ofCode]

theorem fmul (t : FType) (d : Opnd) (a : Opnd) (b : Opnd) : Statement (.fmul t d a b) := by
  refine of_raw rfl rfl ?_
  intro hf hi l next hl
  have F := encA_fields (M := 8) (fn := (4 * 2 + t.toCode)) (d := d.code) (a := a.code) (b := b.code) (by decide) (by cases t <;> decide) (Opnd.code_lt d) (Opnd.code_lt a) (Opnd.code_lt b)
  exact ⟨F.lt, fmul_raw t d a b l next _ F (operand hl d (by simp [Instr.named, Named.ds, Named.only, Named.mem])) (operand hl a (by simp [Instr.named, Named.ds, Named.only, Named.mem])) (operand hl b (by simp [Instr.named, Named.ds, Named.only, Named.mem]))⟩

theorem ffma_raw (t : FType) (d : Opnd) (a : Opnd) (b : Opnd) (l : W32) (next : List W32) (wd : Nat)
    (F : FieldsA wd 8 (4 * 3 + t.toCode) d.code a.code b.code)
    (e_d : opndOf d.code l = d)
    (e_a : opndOf a.code l = a)
    (e_b : opndOf b.code l = b) :
    decodeRaw wd l next = .ok ⟨.ffma t d a b, true, true⟩ := by
  cases t <;> simp [decodeAlu, decodeRaw, F.f26_6, F.f21_5, F.f23_3, F.f21_2, F.f21_3, F.f21_4, F.f23_2, F.f23_1, F.f24_2, F.f24_1, F.f25_1, F.f14_7, F.f7_7, F.f0_7, F.f2_5, F.f0_2, F.f0_14, e_d, e_a, e_b, ok, okZ, okR, bit1, FType.toCode, FType.ofCode]

theorem ffma (t : FType) (d : Opnd) (a : Opnd) (b : Opnd) : Statement (.ffma t d a b) := by
  refine of_raw rfl rfl ?_
  intro hf hi l next hl
  have F := encA_fields (M := 8) (fn := (4 * 3 + t.toCode)) (d := d.code) (a := a.code) (b := b.code) (by decide) (by cases t <;> decide) (Opnd.code_lt d) (Opnd.code_lt a) (Opnd.code_lt b)
  exact ⟨F.lt, ffma_raw t d a b l next _ F (operand hl d (by simp [Instr.named, Named.ds, Named.only, Named.mem])) (operand hl a (by simp [Instr.named, Named.ds, Named.only, Named.mem])) (operand hl b (by simp [Instr.named, Named.ds, Named.only, Named.mem]))⟩

theorem ffms_raw (t : FType) (d : Opnd) (a : Opnd) (b : Opnd) (l : W32) (next : List W32) (wd : Nat)
    (F : FieldsA wd 8 (4 * 4 + t.toCode) d.code a.code b.code)
    (e_d : opndOf d.code l = d)
    (e_a : opndOf a.code l = a)
    (e_b : opndOf b.code l = b) :
    decodeRaw wd l next = .ok ⟨.ffms t d a b, true, true⟩ := by
  cases t <;> simp [decodeAlu, decodeRaw, F.f26_6, F.f21_5, F.f23_3, F.f21_2, F.f21_3, F.f21_4, F.f23_2, F.f23_1, F.f24_2, F.f24_1, F.f25_1, F.f14_7, F.f7_7, F.f0_7, F.f2_5, F.f0_2, F.f0_14, e_d, e_a, e_b, ok, okZ, okR, bit1, FType.toCode, FType.ofCode]

theorem ffms (t : FType) (d : Opnd) (a : Opnd) (b : Opnd) : Statement (.ffms t d a b) := by
  refine of_raw rfl rfl ?_
  intro hf hi l next hl
  have F := encA_fields (M := 8) (fn := (4 * 4 + t.toCode)) (d := d.code) (a := a.code) (b := b.code) (by decide) (by cases t <;> decide) (Opnd.code_lt d) (Opnd.code_lt a) (Opnd.code_lt b)
  exact ⟨F.lt, ffms_raw t d a b l next _ F (operand hl d (by simp [Instr.named, Named.ds, Named.only, Named.mem])) (operand hl a (by simp [Instr.named, Named.ds, Named.only, Named.mem])) (operand hl b (by simp [Instr.named, Named.ds, Named.only, Named.mem]))⟩

theorem fnma_raw (t : FType) (d : Opnd) (a : Opnd) (b : Opnd) (l : W32) (next : List W32) (wd : Nat)
    (F : FieldsA wd 8 (4 * 5 + t.toCode) d.code a.code b.code)
    (e_d : opndOf d.code l = d)
    (e_a : opndOf a.code l = a)
    (e_b : opndOf b.code l = b) :
    decodeRaw wd l next = .ok ⟨.fnma t d a b, true, true⟩ := by
  cases t <;> simp [decodeAlu, decodeRaw, F.f26_6, F.f21_5, F.f23_3, F.f21_2, F.f21_3, F.f21_4, F.f23_2, F.f23_1, F.f24_2, F.f24_1, F.f25_1, F.f14_7, F.f7_7, F.f0_7, F.f2_5, F.f0_2, F.f0_14, e_d, e_a, e_b, ok, okZ, okR, bit1, FType.toCode, FType.ofCode]

theorem fnma (t : FType) (d : Opnd) (a : Opnd) (b : Opnd) : Statement (.fnma t d a b) := by
  refine of_raw rfl rfl ?_
  intro hf hi l next hl
  have F := encA_fields (M := 8) (fn := (4 * 5 + t.toCode)) (d := d.code) (a := a.code) (b := b.code) (by decide) (by cases t <;> decide) (Opnd.code_lt d) (Opnd.code_lt a) (Opnd.code_lt b)
  exact ⟨F.lt, fnma_raw t d a b l next _ F (operand hl d (by simp [Instr.named, Named.ds, Named.only, Named.mem])) (operand hl a (by simp [Instr.named, Named.ds, Named.only, Named.mem])) (operand hl b (by simp [Instr.named, Named.ds, Named.only, Named.mem]))⟩

theorem fmin_raw (t : FType) (d : Opnd) (a : Opnd) (b : Opnd) (l : W32) (next : List W32) (wd : Nat)
    (F : FieldsA wd 8 (4 * 6 + t.toCode) d.code a.code b.code)
    (e_d : opndOf d.code l = d)
    (e_a : opndOf a.code l = a)
    (e_b : opndOf b.code l = b) :
    decodeRaw wd l next = .ok ⟨.fmin t d a b, true, true⟩ := by
  cases t <;> simp [decodeAlu, decodeRaw, F.f26_6, F.f21_5, F.f23_3, F.f21_2, F.f21_3, F.f21_4, F.f23_2, F.f23_1, F.f24_2, F.f24_1, F.f25_1, F.f14_7, F.f7_7, F.f0_7, F.f2_5, F.f0_2, F.f0_14, e_d, e_a, e_b, ok, okZ, okR, bit1, FType.toCode, FType.ofCode]

theorem fmin (t : FType) (d : Opnd) (a : Opnd) (b : Opnd) : Statement (.fmin t d a b) := by
  refine of_raw rfl rfl ?_
  intro hf hi l next hl
  have F := encA_fields (M := 8) (fn := (4 * 6 + t.toCode)) (d := d.code) (a := a.code) (b := b.code) (by decide) (by cases t <;> decide) (Opnd.code_lt d) (Opnd.code_lt a) (Opnd.code_lt b)
  exact ⟨F.lt, fmin_raw t d a b l next _ F (operand hl d (by simp [Instr.named, Named.ds, Named.only, Named.mem])) (operand hl a (by simp [Instr.named, Named.ds, Named.only, Named.mem])) (operand hl b (by simp [Instr.named, Named.ds, Named.only, Named.mem]))⟩

theorem fmax_raw (t : FType) (d : Opnd) (a : Opnd) (b : Opnd) (l : W32) (next : List W32) (wd : Nat)
    (F : FieldsA wd 8 (4 * 7 + t.toCode) d.code a.code b.code)
    (e_d : opndOf d.code l = d)
    (e_a : opndOf a.code l = a)
    (e_b : opndOf b.code l = b) :
    decodeRaw wd l next = .ok ⟨.fmax t d a b, true, true⟩ := by
  cases t <;> simp [decodeAlu, decodeRaw, F.f26_6, F.f21_5, F.f23_3, F.f21_2, F.f21_3, F.f21_4, F.f23_2, F.f23_1, F.f24_2, F.f24_1, F.f25_1, F.f14_7, F.f7_7, F.f0_7, F.f2_5, F.f0_2, F.f0_14, e_d, e_a, e_b, ok, okZ, okR, bit1, FType.toCode, FType.ofCode]

theorem fmax (t : FType) (d : Opnd) (a : Opnd) (b : Opnd) : Statement (.fmax t d a b) := by
  refine of_raw rfl rfl ?_
  intro hf hi l next hl
  have F := encA_fields (M := 8) (fn := (4 * 7 + t.toCode)) (d := d.code) (a := a.code) (b := b.code) (by decide) (by cases t <;> decide) (Opnd.code_lt d) (Opnd.code_lt a) (Opnd.code_lt b)
  exact ⟨F.lt, fmax_raw t d a b l next _ F (operand hl d (by simp [Instr.named, Named.ds, Named.only, Named.mem])) (operand hl a (by simp [Instr.named, Named.ds, Named.only, Named.mem])) (operand hl b (by simp [Instr.named, Named.ds, Named.only, Named.mem]))⟩

theorem fabs_raw (t : FType) (d : Opnd) (a : Opnd) (l : W32) (next : List W32) (wd : Nat)
    (F : FieldsA wd 9 (4 * 0 + t.toCode) d.code a.code 0)
    (e_d : opndOf d.code l = d)
    (e_a : opndOf a.code l = a) :
    decodeRaw wd l next = .ok ⟨.fabs t d a, true, true⟩ := by
  cases t <;> simp [decodeAlu, decodeRaw, F.f26_6, F.f21_5, F.f23_3, F.f21_2, F.f21_3, F.f21_4, F.f23_2, F.f23_1, F.f24_2, F.f24_1, F.f25_1, F.f14_7, F.f7_7, F.f0_7, F.f2_5, F.f0_2, F.f0_14, e_d, e_a, ok, okZ, okR, bit1, FType.toCode, FType.ofCode]

theorem fabs (t : FType) (d : Opnd) (a : Opnd) : Statement (.fabs t d a) := by
  refine of_raw rfl rfl ?_
  intro hf hi l next hl
  have F := encA_fields (M := 9) (fn := (4 * 0 + t.toCode)) (d := d.code) (a := a.code) (b := 0) (by decide) (by cases t <;> decide) (Opnd.code_lt d) (Opnd.code_lt a) (by decide)
  exact ⟨F.lt, fabs_raw t d a l next _ F (operand hl d (by simp [Instr.named, Named.ds, Named.only, Named.mem])) (operand hl a (by simp [Instr.named, Named.ds, Named.only, Named.mem]))⟩

theorem fneg_raw (t : FType) (d : Opnd) (a : Opnd) (l : W32) (next : List W32) (wd : Nat)
    (F : FieldsA wd 9 (4 * 1 + t.toCode) d.code a.code 0)
    (e_d : opndOf d.code l = d)
    (e_a : opndOf a.code l = a) :
    decodeRaw wd l next = .ok ⟨.fneg t d a, true, true⟩ := by
  cases t <;> simp [decodeAlu, decodeRaw, F.f26_6, F.f21_5, F.f23_3, F.f21_2, F.f21_3, F.f21_4, F.f23_2, F.f23_1, F.f24_2, F.f24_1, F.f25_1, F.f14_7, F.f7_7, F.f0_7, F.f2_5, F.f0_2, F.f0_14, e_d, e_a, ok, okZ, okR, bit1, FType.toCode, FType.ofCode]

theorem fneg (t : FType) (d : Opnd) (a : Opnd) : Statement (.fneg t d a) := by
  refine of_raw rfl rfl ?_
  intro hf hi l next hl
  have F := encA_fields (M := 9) (fn := (4 * 1 + t.toCode)) (d := d.code) (a := a.code) (b := 0) (by decide) (by cases t <;> decide) (Opnd.code_lt d) (Opnd.code_lt a) (by decide)
  exact ⟨F.lt, fneg_raw t d a l next _ F (operand hl d (by simp [Instr.named, Named.ds, Named.only, Named.mem])) (operand hl a (by simp [Instr.named, Named.ds, Named.only, Named.mem]))⟩

theorem fscl_raw (t : FType) (d : Opnd) (a : Opnd) (b : Opnd) (l : W32) (next : List W32) (wd : Nat)
    (F : FieldsA wd 9 (4 * 2 + t.toCode) d.code a.code b.code)
    (e_d : opndOf d.code l = d)
    (e_a : opndOf a.code l = a)
    (e_b : opndOf b.code l = b) :
    decodeRaw wd l next = .ok ⟨.fscl t d a b, true, true⟩ := by
  cases t <;> simp [decodeAlu, decodeRaw, F.f26_6, F.f21_5, F.f23_3, F.f21_2, F.f21_3, F.f21_4, F.f23_2, F.f23_1, F.f24_2, F.f24_1, F.f25_1, F.f14_7, F.f7_7, F.f0_7, F.f2_5, F.f0_2, F.f0_14, e_d, e_a, e_b, ok, okZ, okR, bit1, FType.toCode, FType.ofCode]

theorem fscl (t : FType) (d : Opnd) (a : Opnd) (b : Opnd) : Statement (.fscl t d a b) := by
  refine of_raw rfl rfl ?_
  intro hf hi l next hl
  have F := encA_fields (M := 9) (fn := (4 * 2 + t.toCode)) (d := d.code) (a := a.code) (b := b.code) (by decide) (by cases t <;> decide) (Opnd.code_lt d) (Opnd.code_lt a) (Opnd.code_lt b)
  exact ⟨F.lt, fscl_raw t d a b l next _ F (operand hl d (by simp [Instr.named, Named.ds, Named.only, Named.mem])) (operand hl a (by simp [Instr.named, Named.ds, Named.only, Named.mem])) (operand hl b (by simp [Instr.named, Named.ds, Named.only, Named.mem]))⟩

theorem frnd_raw (t : FType) (d : Opnd) (a : Opnd) (l : W32) (next : List W32) (wd : Nat)
    (F : FieldsA wd 9 (4 * 3 + t.toCode) d.code a.code 0)
    (e_d : opndOf d.code l = d)
    (e_a : opndOf a.code l = a) :
    decodeRaw wd l next = .ok ⟨.frnd t d a, true, true⟩ := by
  cases t <;> simp [decodeAlu, decodeRaw, F.f26_6, F.f21_5, F.f23_3, F.f21_2, F.f21_3, F.f21_4, F.f23_2, F.f23_1, F.f24_2, F.f24_1, F.f25_1, F.f14_7, F.f7_7, F.f0_7, F.f2_5, F.f0_2, F.f0_14, e_d, e_a, ok, okZ, okR, bit1, FType.toCode, FType.ofCode]

theorem frnd (t : FType) (d : Opnd) (a : Opnd) : Statement (.frnd t d a) := by
  refine of_raw rfl rfl ?_
  intro hf hi l next hl
  have F := encA_fields (M := 9) (fn := (4 * 3 + t.toCode)) (d := d.code) (a := a.code) (b := 0) (by decide) (by cases t <;> decide) (Opnd.code_lt d) (Opnd.code_lt a) (by decide)
  exact ⟨F.lt, frnd_raw t d a l next _ F (operand hl d (by simp [Instr.named, Named.ds, Named.only, Named.mem])) (operand hl a (by simp [Instr.named, Named.ds, Named.only, Named.mem]))⟩

theorem fclass_raw (t : FType) (d : Opnd) (a : Opnd) (l : W32) (next : List W32) (wd : Nat)
    (F : FieldsA wd 9 (4 * 4 + t.toCode) d.code a.code 0)
    (e_d : opndOf d.code l = d)
    (e_a : opndOf a.code l = a) :
    decodeRaw wd l next = .ok ⟨.fclass t d a, true, true⟩ := by
  cases t <;> simp [decodeAlu, decodeRaw, F.f26_6, F.f21_5, F.f23_3, F.f21_2, F.f21_3, F.f21_4, F.f23_2, F.f23_1, F.f24_2, F.f24_1, F.f25_1, F.f14_7, F.f7_7, F.f0_7, F.f2_5, F.f0_2, F.f0_14, e_d, e_a, ok, okZ, okR, bit1, FType.toCode, FType.ofCode]

theorem fclass (t : FType) (d : Opnd) (a : Opnd) : Statement (.fclass t d a) := by
  refine of_raw rfl rfl ?_
  intro hf hi l next hl
  have F := encA_fields (M := 9) (fn := (4 * 4 + t.toCode)) (d := d.code) (a := a.code) (b := 0) (by decide) (by cases t <;> decide) (Opnd.code_lt d) (Opnd.code_lt a) (by decide)
  exact ⟨F.lt, fclass_raw t d a l next _ F (operand hl d (by simp [Instr.named, Named.ds, Named.only, Named.mem])) (operand hl a (by simp [Instr.named, Named.ds, Named.only, Named.mem]))⟩

theorem fcpys_raw (t : FType) (d : Opnd) (a : Opnd) (b : Opnd) (l : W32) (next : List W32) (wd : Nat)
    (F : FieldsA wd 9 (4 * 5 + t.toCode) d.code a.code b.code)
    (e_d : opndOf d.code l = d)
    (e_a : opndOf a.code l = a)
    (e_b : opndOf b.code l = b) :
    decodeRaw wd l next = .ok ⟨.fcpys t d a b, true, true⟩ := by
  cases t <;> simp [decodeAlu, decodeRaw, F.f26_6, F.f21_5, F.f23_3, F.f21_2, F.f21_3, F.f21_4, F.f23_2, F.f23_1, F.f24_2, F.f24_1, F.f25_1, F.f14_7, F.f7_7, F.f0_7, F.f2_5, F.f0_2, F.f0_14, e_d, e_a, e_b, ok, okZ, okR, bit1, FType.toCode, FType.ofCode]

theorem fcpys (t : FType) (d : Opnd) (a : Opnd) (b : Opnd) : Statement (.fcpys t d a b) := by
  refine of_raw rfl rfl ?_
  intro hf hi l next hl
  have F := encA_fields (M := 9) (fn := (4 * 5 + t.toCode)) (d := d.code) (a := a.code) (b := b.code) (by decide) (by cases t <;> decide) (Opnd.code_lt d) (Opnd.code_lt a) (Opnd.code_lt b)
  exact ⟨F.lt, fcpys_raw t d a b l next _ F (operand hl d (by simp [Instr.named, Named.ds, Named.only, Named.mem])) (operand hl a (by simp [Instr.named, Named.ds, Named.only, Named.mem])) (operand hl b (by simp [Instr.named, Named.ds, Named.only, Named.mem]))⟩

theorem fcmp_raw (c : FCond) (t : FType) (p : Nat) (a : Opnd) (b : Opnd) (l : W32) (next : List W32) (wd : Nat)
    (F : FieldsA wd 10 (4 * c.toCode + t.toCode) p a.code b.code) (hf : (Instr.fcmp c t p a b).fits = true)
    (e_a : opndOf a.code l = a)
    (e_b : opndOf b.code l = b) :
    decodeRaw wd l next = .ok ⟨.fcmp c t p a b, true, true⟩ := by
  simp [Instr.fits] at hf
  cases c <;> cases t <;> simp [decodeAlu, decodeRaw, F.f26_6, F.f21_5, F.f23_3, F.f21_2, F.f21_3, F.f21_4, F.f23_2, F.f23_1, F.f24_2, F.f24_1, F.f25_1, F.f14_7, F.f7_7, F.f0_7, F.f2_5, F.f0_2, F.f0_14, e_a, e_b, ok, okZ, okR, bit1, FCond.toCode, FType.toCode, FCond.ofCode, FType.ofCode]

theorem fcmp (c : FCond) (t : FType) (p : Nat) (a : Opnd) (b : Opnd) : Statement (.fcmp c t p a b) := by
  refine of_raw rfl rfl ?_
  intro hf hi l next hl
  have hf0 := hf
  simp [Instr.fits] at hf0
  have F := encA_fields (M := 10) (fn := (4 * c.toCode + t.toCode)) (d := p) (a := a.code) (b := b.code) (by decide) (by cases c <;> cases t <;> decide) (by omega) (Opnd.code_lt a) (Opnd.code_lt b)
  exact ⟨F.lt, fcmp_raw c t p a b l next _ F hf (operand hl a (by simp [Instr.named, Named.ds, Named.only, Named.mem])) (operand hl b (by simp [Instr.named, Named.ds, Named.only, Named.mem]))⟩

theorem fcvt_raw (c : CvtCode) (d : Opnd) (a : Opnd) (l : W32) (next : List W32) (wd : Nat)
    (F : FieldsA wd 11 c.toCode d.code a.code 0)
    (e_d : opndOf d.code l = d)
    (e_a : opndOf a.code l = a) :
    decodeRaw wd l next = .ok ⟨.fcvt c d a, true, true⟩ := by
  cases c <;> simp [decodeAlu, decodeRaw, F.f26_6, F.f21_5, F.f23_3, F.f21_2, F.f21_3, F.f21_4, F.f23_2, F.f23_1, F.f24_2, F.f24_1, F.f25_1, F.f14_7, F.f7_7, F.f0_7, F.f2_5, F.f0_2, F.f0_14, e_d, e_a, ok, okZ, okR, bit1, CvtCode.toCode, CvtCode.ofCode]

theorem fcvt (c : CvtCode) (d : Opnd) (a : Opnd) : Statement (.fcvt c d a) := by
  refine of_raw rfl rfl ?_
  intro hf hi l next hl
  have F := encA_fields (M := 11) (fn := c.toCode) (d := d.code) (a := a.code) (b := 0) (by decide) (by cases c <;> decide) (Opnd.code_lt d) (Opnd.code_lt a) (by decide)
  exact ⟨F.lt, fcvt_raw c d a l next _ F (operand hl d (by simp [Instr.named, Named.ds, Named.only, Named.mem])) (operand hl a (by simp [Instr.named, Named.ds, Named.only, Named.mem]))⟩

theorem sfq_raw (t : FType) (f : SfFn) (d : Opnd) (a : Opnd) (k : Nat) (l : W32) (next : List W32) (wd : Nat)
    (F : FieldsS wd 12 (16 * t.toCode + f.toCode) a.code d.code k) (hf : (Instr.sfq t f d a k).fits = true)
    (e_d : opndOf d.code l = d)
    (e_a : opndOf a.code l = a) :
    decodeRaw wd l next = .ok ⟨.sfq t f d a k, true, true⟩ := by
  simp [Instr.fits] at hf
  cases t <;> cases f <;> simp [decodeSpec, decodeRaw, F.f26_6, F.f20_6, F.f24_2, F.f20_4, F.f24_1, F.f25_1, F.f13_7, F.f6_7, F.f0_6, F.f0_13, F.f6_14, F.f0_20, e_d, e_a, ok, okZ, okR, bit1, FType.toCode, SfFn.toCode, FType.ofCode, SfFn.ofCode]

theorem sfq (t : FType) (f : SfFn) (d : Opnd) (a : Opnd) (k : Nat) : Statement (.sfq t f d a k) := by
  refine of_raw rfl rfl ?_
  intro hf hi l next hl
  have hf0 := hf
  simp [Instr.fits] at hf0
  have F := encS_fields (M := 12) (fn := (16 * t.toCode + f.toCode)) (a := a.code) (b := d.code) (k := k) (by decide) (by cases t <;> cases f <;> decide) (Opnd.code_lt a) (Opnd.code_lt d) (by omega)
  exact ⟨F.lt, sfq_raw t f d a k l next _ F hf (operand hl d (by simp [Instr.named, Named.ds, Named.only, Named.mem])) (operand hl a (by simp [Instr.named, Named.ds, Named.only, Named.mem]))⟩

theorem sfw_raw (a : Opnd) (l : W32) (next : List W32) (wd : Nat)
    (F : FieldsS wd 13 0 a.code 0 0)
    (e_a : opndOf a.code l = a) :
    decodeRaw wd l next = .ok ⟨.sfw a, true, true⟩ := by
  simp [decodeSpec, decodeRaw, F.f26_6, F.f20_6, F.f24_2, F.f20_4, F.f24_1, F.f25_1, F.f13_7, F.f6_7, F.f0_6, F.f0_13, F.f6_14, F.f0_20, e_a, ok, okZ, okR, bit1]

theorem sfw (a : Opnd) : Statement (.sfw a) := by
  refine of_raw rfl rfl ?_
  intro hf hi l next hl
  have F := encS_fields (M := 13) (fn := 0) (a := a.code) (b := 0) (k := 0) (by decide) (by decide) (Opnd.code_lt a) (by decide) (by decide)
  exact ⟨F.lt, sfw_raw a l next _ F (operand hl a (by simp [Instr.named, Named.ds, Named.only, Named.mem]))⟩

theorem mbc_raw (d : Opnd) (a : Opnd) (b : Opnd) (l : W32) (next : List W32) (wd : Nat)
    (F : FieldsA wd 14 0 d.code a.code b.code)
    (e_d : opndOf d.code l = d)
    (e_a : opndOf a.code l = a)
    (e_b : opndOf b.code l = b) :
    decodeRaw wd l next = .ok ⟨.mbc d a b, true, true⟩ := by
  simp [decodeSpec, decodeRaw, F.f26_6, F.f21_5, F.f23_3, F.f21_2, F.f21_3, F.f21_4, F.f23_2, F.f23_1, F.f24_2, F.f24_1, F.f25_1, F.f14_7, F.f7_7, F.f0_7, F.f2_5, F.f0_2, F.f0_14, e_d, e_a, e_b, ok, okZ, okR, bit1]

theorem mbc (d : Opnd) (a : Opnd) (b : Opnd) : Statement (.mbc d a b) := by
  refine of_raw rfl rfl ?_
  intro hf hi l next hl
  have F := encA_fields (M := 14) (fn := 0) (d := d.code) (a := a.code) (b := b.code) (by decide) (by decide) (Opnd.code_lt d) (Opnd.code_lt a) (Opnd.code_lt b)
  exact ⟨F.lt, mbc_raw d a b l next _ F (operand hl d (by simp [Instr.named, Named.ds, Named.only, Named.mem])) (operand hl a (by simp [Instr.named, Named.ds, Named.only, Named.mem])) (operand hl b (by simp [Instr.named, Named.ds, Named.only, Named.mem]))⟩

theorem mshf_raw (d : Opnd) (a : Opnd) (b : Opnd) (l : W32) (next : List W32) (wd : Nat)
    (F : FieldsA wd 14 4 d.code a.code b.code)
    (e_d : opndOf d.code l = d)
    (e_a : opndOf a.code l = a)
    (e_b : opndOf b.code l = b) :
    decodeRaw wd l next = .ok ⟨.mshf d a b, true, true⟩ := by
  simp [decodeSpec, decodeRaw, F.f26_6, F.f21_5, F.f23_3, F.f21_2, F.f21_3, F.f21_4, F.f23_2, F.f23_1, F.f24_2, F.f24_1, F.f25_1, F.f14_7, F.f7_7, F.f0_7, F.f2_5, F.f0_2, F.f0_14, e_d, e_a, e_b, ok, okZ, okR, bit1]

theorem mshf (d : Opnd) (a : Opnd) (b : Opnd) : Statement (.mshf d a b) := by
  refine of_raw rfl rfl ?_
  intro hf hi l next hl
  have F := encA_fields (M := 14) (fn := 4) (d := d.code) (a := a.code) (b := b.code) (by decide) (by decide) (Opnd.code_lt d) (Opnd.code_lt a) (Opnd.code_lt b)
  exact ⟨F.lt, mshf_raw d a b l next _ F (operand hl d (by simp [Instr.named, Named.ds, Named.only, Named.mem])) (operand hl a (by simp [Instr.named, Named.ds, Named.only, Named.mem])) (operand hl b (by simp [Instr.named, Named.ds, Named.only, Named.mem]))⟩

theorem mredAdd_raw (t : RType) (d : Opnd) (a : Opnd) (l : W32) (next : List W32) (wd : Nat)
    (F : FieldsA wd 14 (8 + t.toCode) d.code a.code 0)
    (e_d : opndOf d.code l = d)
    (e_a : opndOf a.code l = a) :
    decodeRaw wd l next = .ok ⟨.mredAdd t d a, true, true⟩ := by
  cases t <;> simp [decodeSpec, decodeRaw, F.f26_6, F.f21_5, F.f23_3, F.f21_2, F.f21_3, F.f21_4, F.f23_2, F.f23_1, F.f24_2, F.f24_1, F.f25_1, F.f14_7, F.f7_7, F.f0_7, F.f2_5, F.f0_2, F.f0_14, e_d, e_a, ok, okZ, okR, bit1, RType.toCode, RType.ofCode]

theorem mredAdd (t : RType) (d : Opnd) (a : Opnd) : Statement (.mredAdd t d a) := by
  refine of_raw rfl rfl ?_
  intro hf hi l next hl
  have F := encA_fields (M := 14) (fn := (8 + t.toCode)) (d := d.code) (a := a.code) (b := 0) (by decide) (by cases t <;> decide) (Opnd.code_lt d) (Opnd.code_lt a) (by decide)
  exact ⟨F.lt, mredAdd_raw t d a l next _ F (operand hl d (by simp [Instr.named, Named.ds, Named.only, Named.mem])) (operand hl a (by simp [Instr.named, Named.ds, Named.only, Named.mem]))⟩

theorem mredMin_raw (t : RType) (d : Opnd) (a : Opnd) (l : W32) (next : List W32) (wd : Nat)
    (F : FieldsA wd 14 (12 + t.toCode) d.code a.code 0)
    (e_d : opndOf d.code l = d)
    (e_a : opndOf a.code l = a) :
    decodeRaw wd l next = .ok ⟨.mredMin t d a, true, true⟩ := by
  cases t <;> simp [decodeSpec, decodeRaw, F.f26_6, F.f21_5, F.f23_3, F.f21_2, F.f21_3, F.f21_4, F.f23_2, F.f23_1, F.f24_2, F.f24_1, F.f25_1, F.f14_7, F.f7_7, F.f0_7, F.f2_5, F.f0_2, F.f0_14, e_d, e_a, ok, okZ, okR, bit1, RType.toCode, RType.ofCode]

theorem mredMin (t : RType) (d : Opnd) (a : Opnd) : Statement (.mredMin t d a) := by
  refine of_raw rfl rfl ?_
  intro hf hi l next hl
  have F := encA_fields (M := 14) (fn := (12 + t.toCode)) (d := d.code) (a := a.code) (b := 0) (by decide) (by cases t <;> decide) (Opnd.code_lt d) (Opnd.code_lt a) (by decide)
  exact ⟨F.lt, mredMin_raw t d a l next _ F (operand hl d (by simp [Instr.named, Named.ds, Named.only, Named.mem])) (operand hl a (by simp [Instr.named, Named.ds, Named.only, Named.mem]))⟩

theorem mredMax_raw (t : RType) (d : Opnd) (a : Opnd) (l : W32) (next : List W32) (wd : Nat)
    (F : FieldsA wd 14 (16 + t.toCode) d.code a.code 0)
    (e_d : opndOf d.code l = d)
    (e_a : opndOf a.code l = a) :
    decodeRaw wd l next = .ok ⟨.mredMax t d a, true, true⟩ := by
  cases t <;> simp [decodeSpec, decodeRaw, F.f26_6, F.f21_5, F.f23_3, F.f21_2, F.f21_3, F.f21_4, F.f23_2, F.f23_1, F.f24_2, F.f24_1, F.f25_1, F.f14_7, F.f7_7, F.f0_7, F.f2_5, F.f0_2, F.f0_14, e_d, e_a, ok, okZ, okR, bit1, RType.toCode, RType.ofCode]

theorem mredMax (t : RType) (d : Opnd) (a : Opnd) : Statement (.mredMax t d a) := by
  refine of_raw rfl rfl ?_
  intro hf hi l next hl
  have F := encA_fields (M := 14) (fn := (16 + t.toCode)) (d := d.code) (a := a.code) (b := 0) (by decide) (by cases t <;> decide) (Opnd.code_lt d) (Opnd.code_lt a) (by decide)
  exact ⟨F.lt, mredMax_raw t d a l next _ F (operand hl d (by simp [Instr.named, Named.ds, Named.only, Named.mem])) (operand hl a (by simp [Instr.named, Named.ds, Named.only, Named.mem]))⟩

theorem msort_raw (t : RType) (d : Opnd) (a : Opnd) (l : W32) (next : List W32) (wd : Nat)
    (F : FieldsA wd 14 (20 + t.toCode) d.code a.code 0)
    (e_d : opndOf d.code l = d)
    (e_a : opndOf a.code l = a) :
    decodeRaw wd l next = .ok ⟨.msort t d a, true, true⟩ := by
  cases t <;> simp [decodeSpec, decodeRaw, F.f26_6, F.f21_5, F.f23_3, F.f21_2, F.f21_3, F.f21_4, F.f23_2, F.f23_1, F.f24_2, F.f24_1, F.f25_1, F.f14_7, F.f7_7, F.f0_7, F.f2_5, F.f0_2, F.f0_14, e_d, e_a, ok, okZ, okR, bit1, RType.toCode, RType.ofCode]

theorem msort (t : RType) (d : Opnd) (a : Opnd) : Statement (.msort t d a) := by
  refine of_raw rfl rfl ?_
  intro hf hi l next hl
  have F := encA_fields (M := 14) (fn := (20 + t.toCode)) (d := d.code) (a := a.code) (b := 0) (by decide) (by cases t <;> decide) (Opnd.code_lt d) (Opnd.code_lt a) (by decide)
  exact ⟨F.lt, msort_raw t d a l next _ F (operand hl d (by simp [Instr.named, Named.ds, Named.only, Named.mem])) (operand hl a (by simp [Instr.named, Named.ds, Named.only, Named.mem]))⟩

theorem mrank_raw (t : RType) (d : Opnd) (a : Opnd) (b : Opnd) (l : W32) (next : List W32) (wd : Nat)
    (F : FieldsA wd 14 (24 + t.toCode) d.code a.code b.code)
    (e_d : opndOf d.code l = d)
    (e_a : opndOf a.code l = a)
    (e_b : opndOf b.code l = b) :
    decodeRaw wd l next = .ok ⟨.mrank t d a b, true, true⟩ := by
  cases t <;> simp [decodeSpec, decodeRaw, F.f26_6, F.f21_5, F.f23_3, F.f21_2, F.f21_3, F.f21_4, F.f23_2, F.f23_1, F.f24_2, F.f24_1, F.f25_1, F.f14_7, F.f7_7, F.f0_7, F.f2_5, F.f0_2, F.f0_14, e_d, e_a, e_b, ok, okZ, okR, bit1, RType.toCode, RType.ofCode]

theorem mrank (t : RType) (d : Opnd) (a : Opnd) (b : Opnd) : Statement (.mrank t d a b) := by
  refine of_raw rfl rfl ?_
  intro hf hi l next hl
  have F := encA_fields (M := 14) (fn := (24 + t.toCode)) (d := d.code) (a := a.code) (b := b.code) (by decide) (by cases t <;> decide) (Opnd.code_lt d) (Opnd.code_lt a) (Opnd.code_lt b)
  exact ⟨F.lt, mrank_raw t d a b l next _ F (operand hl d (by simp [Instr.named, Named.ds, Named.only, Named.mem])) (operand hl a (by simp [Instr.named, Named.ds, Named.only, Named.mem])) (operand hl b (by simp [Instr.named, Named.ds, Named.only, Named.mem]))⟩

theorem mspr_raw (t : RType) (d : Opnd) (a : Opnd) (l : W32) (next : List W32) (wd : Nat)
    (F : FieldsA wd 14 (28 + t.toCode) d.code a.code 0)
    (e_d : opndOf d.code l = d)
    (e_a : opndOf a.code l = a) :
    decodeRaw wd l next = .ok ⟨.mspr t d a, true, true⟩ := by
  cases t <;> simp [decodeSpec, decodeRaw, F.f26_6, F.f21_5, F.f23_3, F.f21_2, F.f21_3, F.f21_4, F.f23_2, F.f23_1, F.f24_2, F.f24_1, F.f25_1, F.f14_7, F.f7_7, F.f0_7, F.f2_5, F.f0_2, F.f0_14, e_d, e_a, ok, okZ, okR, bit1, RType.toCode, RType.ofCode]

theorem mspr (t : RType) (d : Opnd) (a : Opnd) : Statement (.mspr t d a) := by
  refine of_raw rfl rfl ?_
  intro hf hi l next hl
  have F := encA_fields (M := 14) (fn := (28 + t.toCode)) (d := d.code) (a := a.code) (b := 0) (by decide) (by cases t <;> decide) (Opnd.code_lt d) (Opnd.code_lt a) (by decide)
  exact ⟨F.lt, mspr_raw t d a l next _ F (operand hl d (by simp [Instr.named, Named.ds, Named.only, Named.mem])) (operand hl a (by simp [Instr.named, Named.ds, Named.only, Named.mem]))⟩

theorem lshf_raw (d : Opnd) (a : Opnd) (b : Opnd) (l : W32) (next : List W32) (wd : Nat)
    (F : FieldsA wd 15 0 d.code a.code b.code)
    (e_d : opndOf d.code l = d)
    (e_a : opndOf a.code l = a)
    (e_b : opndOf b.code l = b) :
    decodeRaw wd l next = .ok ⟨.lshf d a b, true, true⟩ := by
  simp [decodeSpec, decodeRaw, F.f26_6, F.f21_5, F.f23_3, F.f21_2, F.f21_3, F.f21_4, F.f23_2, F.f23_1, F.f24_2, F.f24_1, F.f25_1, F.f14_7, F.f7_7, F.f0_7, F.f2_5, F.f0_2, F.f0_14, e_d, e_a, e_b, ok, okZ, okR, bit1]

theorem lshf (d : Opnd) (a : Opnd) (b : Opnd) : Statement (.lshf d a b) := by
  refine of_raw rfl rfl ?_
  intro hf hi l next hl
  have F := encA_fields (M := 15) (fn := 0) (d := d.code) (a := a.code) (b := b.code) (by decide) (by decide) (Opnd.code_lt d) (Opnd.code_lt a) (Opnd.code_lt b)
  exact ⟨F.lt, lshf_raw d a b l next _ F (operand hl d (by simp [Instr.named, Named.ds, Named.only, Named.mem])) (operand hl a (by simp [Instr.named, Named.ds, Named.only, Named.mem])) (operand hl b (by simp [Instr.named, Named.ds, Named.only, Named.mem]))⟩

theorem lbc_raw (d : Opnd) (a : Opnd) (b : Opnd) (l : W32) (next : List W32) (wd : Nat)
    (F : FieldsA wd 15 4 d.code a.code b.code)
    (e_d : opndOf d.code l = d)
    (e_a : opndOf a.code l = a)
    (e_b : opndOf b.code l = b) :
    decodeRaw wd l next = .ok ⟨.lbc d a b, true, true⟩ := by
  simp [decodeSpec, decodeRaw, F.f26_6, F.f21_5, F.f23_3, F.f21_2, F.f21_3, F.f21_4, F.f23_2, F.f23_1, F.f24_2, F.f24_1, F.f25_1, F.f14_7, F.f7_7, F.f0_7, F.f2_5, F.f0_2, F.f0_14, e_d, e_a, e_b, ok, okZ, okR, bit1]

theorem lbc (d : Opnd) (a : Opnd) (b : Opnd) : Statement (.lbc d a b) := by
  refine of_raw rfl rfl ?_
  intro hf hi l next hl
  have F := encA_fields (M := 15) (fn := 4) (d := d.code) (a := a.code) (b := b.code) (by decide) (by decide) (Opnd.code_lt d) (Opnd.code_lt a) (Opnd.code_lt b)
  exact ⟨F.lt, lbc_raw d a b l next _ F (operand hl d (by simp [Instr.named, Named.ds, Named.only, Named.mem])) (operand hl a (by simp [Instr.named, Named.ds, Named.only, Named.mem])) (operand hl b (by simp [Instr.named, Named.ds, Named.only, Named.mem]))⟩

theorem lredAdd_raw (t : RType) (d : Opnd) (a : Opnd) (l : W32) (next : List W32) (wd : Nat)
    (F : FieldsA wd 15 (8 + t.toCode) d.code a.code 0)
    (e_d : opndOf d.code l = d)
    (e_a : opndOf a.code l = a) :
    decodeRaw wd l next = .ok ⟨.lredAdd t d a, true, true⟩ := by
  cases t <;> simp [decodeSpec, decodeRaw, F.f26_6, F.f21_5, F.f23_3, F.f21_2, F.f21_3, F.f21_4, F.f23_2, F.f23_1, F.f24_2, F.f24_1, F.f25_1, F.f14_7, F.f7_7, F.f0_7, F.f2_5, F.f0_2, F.f0_14, e_d, e_a, ok, okZ, okR, bit1, RType.toCode, RType.ofCode]

theorem lredAdd (t : RType) (d : Opnd) (a : Opnd) : Statement (.lredAdd t d a) := by
  refine of_raw rfl rfl ?_
  intro hf hi l next hl
  have F := encA_fields (M := 15) (fn := (8 + t.toCode)) (d := d.code) (a := a.code) (b := 0) (by decide) (by cases t <;> decide) (Opnd.code_lt d) (Opnd.code_lt a) (by decide)
  exact ⟨F.lt, lredAdd_raw t d a l next _ F (operand hl d (by simp [Instr.named, Named.ds, Named.only, Named.mem])) (operand hl a (by simp [Instr.named, Named.ds, Named.only, Named.mem]))⟩

theorem lredMin_raw (t : RType) (d : Opnd) (a : Opnd) (l : W32) (next : List W32) (wd : Nat)
    (F : FieldsA wd 15 (12 + t.toCode) d.code a.code 0)
    (e_d : opndOf d.code l = d)
    (e_a : opndOf a.code l = a) :
    decodeRaw wd l next = .ok ⟨.lredMin t d a, true, true⟩ := by
  cases t <;> simp [decodeSpec, decodeRaw, F.f26_6, F.f21_5, F.f23_3, F.f21_2, F.f21_3, F.f21_4, F.f23_2, F.f23_1, F.f24_2, F.f24_1, F.f25_1, F.f14_7, F.f7_7, F.f0_7, F.f2_5, F.f0_2, F.f0_14, e_d, e_a, ok, okZ, okR, bit1, RType.toCode, RType.ofCode]

theorem lredMin (t : RType) (d : Opnd) (a : Opnd) : Statement (.lredMin t d a) := by
  refine of_raw rfl rfl ?_
  intro hf hi l next hl
  have F := encA_fields (M := 15) (fn := (12 + t.toCode)) (d := d.code) (a := a.code) (b := 0) (by decide) (by cases t <;> decide) (Opnd.code_lt d) (Opnd.code_lt a) (by decide)
  exact ⟨F.lt, lredMin_raw t d a l next _ F (operand hl d (by simp [Instr.named, Named.ds, Named.only, Named.mem])) (operand hl a (by simp [Instr.named, Named.ds, Named.only, Named.mem]))⟩

theorem lredMax_raw (t : RType) (d : Opnd) (a : Opnd) (l : W32) (next : List W32) (wd : Nat)
    (F : FieldsA wd 15 (16 + t.toCode) d.code a.code 0)
    (e_d : opndOf d.code l = d)
    (e_a : opndOf a.code l = a) :
    decodeRaw wd l next = .ok ⟨.lredMax t d a, true, true⟩ := by
  cases t <;> simp [decodeSpec, decodeRaw, F.f26_6, F.f21_5, F.f23_3, F.f21_2, F.f21_3, F.f21_4, F.f23_2, F.f23_1, F.f24_2, F.f24_1, F.f25_1, F.f14_7, F.f7_7, F.f0_7, F.f2_5, F.f0_2, F.f0_14, e_d, e_a, ok, okZ, okR, bit1, RType.toCode, RType.ofCode]

theorem lredMax (t : RType) (d : Opnd) (a : Opnd) : Statement (.lredMax t d a) := by
  refine of_raw rfl rfl ?_
  intro hf hi l next hl
  have F := encA_fields (M := 15) (fn := (16 + t.toCode)) (d := d.code) (a := a.code) (b := 0) (by decide) (by cases t <;> decide) (Opnd.code_lt d) (Opnd.code_lt a) (by decide)
  exact ⟨F.lt, lredMax_raw t d a l next _ F (operand hl d (by simp [Instr.named, Named.ds, Named.only, Named.mem])) (operand hl a (by simp [Instr.named, Named.ds, Named.only, Named.mem]))⟩

theorem lscan_raw (t : RType) (d : Opnd) (a : Opnd) (l : W32) (next : List W32) (wd : Nat)
    (F : FieldsA wd 15 (20 + t.toCode) d.code a.code 0)
    (e_d : opndOf d.code l = d)
    (e_a : opndOf a.code l = a) :
    decodeRaw wd l next = .ok ⟨.lscan t d a, true, true⟩ := by
  cases t <;> simp [decodeSpec, decodeRaw, F.f26_6, F.f21_5, F.f23_3, F.f21_2, F.f21_3, F.f21_4, F.f23_2, F.f23_1, F.f24_2, F.f24_1, F.f25_1, F.f14_7, F.f7_7, F.f0_7, F.f2_5, F.f0_2, F.f0_14, e_d, e_a, ok, okZ, okR, bit1, RType.toCode, RType.ofCode]

theorem lscan (t : RType) (d : Opnd) (a : Opnd) : Statement (.lscan t d a) := by
  refine of_raw rfl rfl ?_
  intro hf hi l next hl
  have F := encA_fields (M := 15) (fn := (20 + t.toCode)) (d := d.code) (a := a.code) (b := 0) (by decide) (by cases t <;> decide) (Opnd.code_lt d) (Opnd.code_lt a) (by decide)
  exact ⟨F.lt, lscan_raw t d a l next _ F (operand hl d (by simp [Instr.named, Named.ds, Named.only, Named.mem])) (operand hl a (by simp [Instr.named, Named.ds, Named.only, Named.mem]))⟩

theorem pand_raw (k : Nat) (a : Nat) (b : Nat) (l : W32) (next : List W32) (wd : Nat)
    (F : FieldsS wd 16 0 a b k) (hf : (Instr.pand k a b).fits = true) :
    decodeRaw wd l next = .ok ⟨.pand k a b, true, true⟩ := by
  simp [Instr.fits] at hf
  simp [decodeSpec, decodeRaw, F.f26_6, F.f20_6, F.f24_2, F.f20_4, F.f24_1, F.f25_1, F.f13_7, F.f6_7, F.f0_6, F.f0_13, F.f6_14, F.f0_20, ok, okZ, okR, bit1]

theorem pand (k : Nat) (a : Nat) (b : Nat) : Statement (.pand k a b) := by
  refine of_raw rfl rfl ?_
  intro hf hi l next hl
  have hf0 := hf
  simp [Instr.fits] at hf0
  have F := encS_fields (M := 16) (fn := 0) (a := a) (b := b) (k := k) (by decide) (by decide) (by omega) (by omega) (by omega)
  exact ⟨F.lt, pand_raw k a b l next _ F hf⟩

theorem por_raw (k : Nat) (a : Nat) (b : Nat) (l : W32) (next : List W32) (wd : Nat)
    (F : FieldsS wd 16 1 a b k) (hf : (Instr.por k a b).fits = true) :
    decodeRaw wd l next = .ok ⟨.por k a b, true, true⟩ := by
  simp [Instr.fits] at hf
  simp [decodeSpec, decodeRaw, F.f26_6, F.f20_6, F.f24_2, F.f20_4, F.f24_1, F.f25_1, F.f13_7, F.f6_7, F.f0_6, F.f0_13, F.f6_14, F.f0_20, ok, okZ, okR, bit1]

theorem por (k : Nat) (a : Nat) (b : Nat) : Statement (.por k a b) := by
  refine of_raw rfl rfl ?_
  intro hf hi l next hl
  have hf0 := hf
  simp [Instr.fits] at hf0
  have F := encS_fields (M := 16) (fn := 1) (a := a) (b := b) (k := k) (by decide) (by decide) (by omega) (by omega) (by omega)
  exact ⟨F.lt, por_raw k a b l next _ F hf⟩

theorem pxor_raw (k : Nat) (a : Nat) (b : Nat) (l : W32) (next : List W32) (wd : Nat)
    (F : FieldsS wd 16 2 a b k) (hf : (Instr.pxor k a b).fits = true) :
    decodeRaw wd l next = .ok ⟨.pxor k a b, true, true⟩ := by
  simp [Instr.fits] at hf
  simp [decodeSpec, decodeRaw, F.f26_6, F.f20_6, F.f24_2, F.f20_4, F.f24_1, F.f25_1, F.f13_7, F.f6_7, F.f0_6, F.f0_13, F.f6_14, F.f0_20, ok, okZ, okR, bit1]

theorem pxor (k : Nat) (a : Nat) (b : Nat) : Statement (.pxor k a b) := by
  refine of_raw rfl rfl ?_
  intro hf hi l next hl
  have hf0 := hf
  simp [Instr.fits] at hf0
  have F := encS_fields (M := 16) (fn := 2) (a := a) (b := b) (k := k) (by decide) (by decide) (by omega) (by omega) (by omega)
  exact ⟨F.lt, pxor_raw k a b l next _ F hf⟩

theorem pandn_raw (k : Nat) (a : Nat) (b : Nat) (l : W32) (next : List W32) (wd : Nat)
    (F : FieldsS wd 16 3 a b k) (hf : (Instr.pandn k a b).fits = true) :
    decodeRaw wd l next = .ok ⟨.pandn k a b, true, true⟩ := by
  simp [Instr.fits] at hf
  simp [decodeSpec, decodeRaw, F.f26_6, F.f20_6, F.f24_2, F.f20_4, F.f24_1, F.f25_1, F.f13_7, F.f6_7, F.f0_6, F.f0_13, F.f6_14, F.f0_20, ok, okZ, okR, bit1]

theorem pandn (k : Nat) (a : Nat) (b : Nat) : Statement (.pandn k a b) := by
  refine of_raw rfl rfl ?_
  intro hf hi l next hl
  have hf0 := hf
  simp [Instr.fits] at hf0
  have F := encS_fields (M := 16) (fn := 3) (a := a) (b := b) (k := k) (by decide) (by decide) (by omega) (by omega) (by omega)
  exact ⟨F.lt, pandn_raw k a b l next _ F hf⟩

theorem pset_raw (k : Nat) (l : W32) (next : List W32) (wd : Nat)
    (F : FieldsS wd 16 4 0 0 k) (hf : (Instr.pset k).fits = true) :
    decodeRaw wd l next = .ok ⟨.pset k, true, true⟩ := by
  simp [Instr.fits] at hf
  simp [decodeSpec, decodeRaw, F.f26_6, F.f20_6, F.f24_2, F.f20_4, F.f24_1, F.f25_1, F.f13_7, F.f6_7, F.f0_6, F.f0_13, F.f6_14, F.f0_20, ok, okZ, okR, bit1]

theorem pset (k : Nat) : Statement (.pset k) := by
  refine of_raw rfl rfl ?_
  intro hf hi l next hl
  have hf0 := hf
  simp [Instr.fits] at hf0
  have F := encS_fields (M := 16) (fn := 4) (a := 0) (b := 0) (k := k) (by decide) (by decide) (by decide) (by decide) (by omega)
  exact ⟨F.lt, pset_raw k l next _ F hf⟩

theorem pclr_raw (k : Nat) (l : W32) (next : List W32) (wd : Nat)
    (F : FieldsS wd 16 5 0 0 k) (hf : (Instr.pclr k).fits = true) :
    decodeRaw wd l next = .ok ⟨.pclr k, true, true⟩ := by
  simp [Instr.fits] at hf
  simp [decodeSpec, decodeRaw, F.f26_6, F.f20_6, F.f24_2, F.f20_4, F.f24_1, F.f25_1, F.f13_7, F.f6_7, F.f0_6, F.f0_13, F.f6_14, F.f0_20, ok, okZ, okR, bit1]

theorem pclr (k : Nat) : Statement (.pclr k) := by
  refine of_raw rfl rfl ?_
  intro hf hi l next hl
  have hf0 := hf
  simp [Instr.fits] at hf0
  have F := encS_fields (M := 16) (fn := 5) (a := 0) (b := 0) (k := k) (by decide) (by decide) (by decide) (by decide) (by omega)
  exact ⟨F.lt, pclr_raw k l next _ F hf⟩

theorem xmld_raw (k : Nat) (l : W32) (next : List W32) (wd : Nat)
    (F : FieldsS wd 16 6 0 0 k) (hf : (Instr.xmld k).fits = true) :
    decodeRaw wd l next = .ok ⟨.xmld k, true, true⟩ := by
  simp [Instr.fits] at hf
  simp [decodeSpec, decodeRaw, F.f26_6, F.f20_6, F.f24_2, F.f20_4, F.f24_1, F.f25_1, F.f13_7, F.f6_7, F.f0_6, F.f0_13, F.f6_14, F.f0_20, ok, okZ, okR, bit1]

theorem xmld (k : Nat) : Statement (.xmld k) := by
  refine of_raw rfl rfl ?_
  intro hf hi l next hl
  have hf0 := hf
  simp [Instr.fits] at hf0
  have F := encS_fields (M := 16) (fn := 6) (a := 0) (b := 0) (k := k) (by decide) (by decide) (by decide) (by decide) (by omega)
  exact ⟨F.lt, xmld_raw k l next _ F hf⟩

theorem xmst_raw (k : Nat) (l : W32) (next : List W32) (wd : Nat)
    (F : FieldsS wd 16 7 0 0 k) (hf : (Instr.xmst k).fits = true) :
    decodeRaw wd l next = .ok ⟨.xmst k, true, true⟩ := by
  simp [Instr.fits] at hf
  simp [decodeSpec, decodeRaw, F.f26_6, F.f20_6, F.f24_2, F.f20_4, F.f24_1, F.f25_1, F.f13_7, F.f6_7, F.f0_6, F.f0_13, F.f6_14, F.f0_20, ok, okZ, okR, bit1]

theorem xmst (k : Nat) : Statement (.xmst k) := by
  refine of_raw rfl rfl ?_
  intro hf hi l next hl
  have hf0 := hf
  simp [Instr.fits] at hf0
  have F := encS_fields (M := 16) (fn := 7) (a := 0) (b := 0) (k := k) (by decide) (by decide) (by decide) (by decide) (by omega)
  exact ⟨F.lt, xmst_raw k l next _ F hf⟩

theorem xmand_raw (k : Nat) (l : W32) (next : List W32) (wd : Nat)
    (F : FieldsS wd 16 8 0 0 k) (hf : (Instr.xmand k).fits = true) :
    decodeRaw wd l next = .ok ⟨.xmand k, true, true⟩ := by
  simp [Instr.fits] at hf
  simp [decodeSpec, decodeRaw, F.f26_6, F.f20_6, F.f24_2, F.f20_4, F.f24_1, F.f25_1, F.f13_7, F.f6_7, F.f0_6, F.f0_13, F.f6_14, F.f0_20, ok, okZ, okR, bit1]

theorem xmand (k : Nat) : Statement (.xmand k) := by
  refine of_raw rfl rfl ?_
  intro hf hi l next hl
  have hf0 := hf
  simp [Instr.fits] at hf0
  have F := encS_fields (M := 16) (fn := 8) (a := 0) (b := 0) (k := k) (by decide) (by decide) (by decide) (by decide) (by omega)
  exact ⟨F.lt, xmand_raw k l next _ F hf⟩

theorem pcnt_raw (d : Opnd) (k : Nat) (l : W32) (next : List W32) (wd : Nat)
    (F : FieldsS wd 16 9 0 d.code k) (hf : (Instr.pcnt d k).fits = true)
    (e_d : opndOf d.code l = d) :
    decodeRaw wd l next = .ok ⟨.pcnt d k, true, true⟩ := by
  simp [Instr.fits] at hf
  simp [decodeSpec, decodeRaw, F.f26_6, F.f20_6, F.f24_2, F.f20_4, F.f24_1, F.f25_1, F.f13_7, F.f6_7, F.f0_6, F.f0_13, F.f6_14, F.f0_20, e_d, ok, okZ, okR, bit1]

theorem pcnt (d : Opnd) (k : Nat) : Statement (.pcnt d k) := by
  refine of_raw rfl rfl ?_
  intro hf hi l next hl
  have hf0 := hf
  simp [Instr.fits] at hf0
  have F := encS_fields (M := 16) (fn := 9) (a := 0) (b := d.code) (k := k) (by decide) (by decide) (by decide) (Opnd.code_lt d) (by omega)
  exact ⟨F.lt, pcnt_raw d k l next _ F hf (operand hl d (by simp [Instr.named, Named.ds, Named.only, Named.mem]))⟩

theorem pbits_raw (d : Opnd) (k : Nat) (a : Opnd) (l : W32) (next : List W32) (wd : Nat)
    (F : FieldsS wd 16 10 a.code d.code k) (hf : (Instr.pbits d k a).fits = true)
    (e_d : opndOf d.code l = d)
    (e_a : opndOf a.code l = a) :
    decodeRaw wd l next = .ok ⟨.pbits d k a, true, true⟩ := by
  simp [Instr.fits] at hf
  simp [decodeSpec, decodeRaw, F.f26_6, F.f20_6, F.f24_2, F.f20_4, F.f24_1, F.f25_1, F.f13_7, F.f6_7, F.f0_6, F.f0_13, F.f6_14, F.f0_20, e_d, e_a, ok, okZ, okR, bit1]

theorem pbits (d : Opnd) (k : Nat) (a : Opnd) : Statement (.pbits d k a) := by
  refine of_raw rfl rfl ?_
  intro hf hi l next hl
  have hf0 := hf
  simp [Instr.fits] at hf0
  have F := encS_fields (M := 16) (fn := 10) (a := a.code) (b := d.code) (k := k) (by decide) (by decide) (Opnd.code_lt a) (Opnd.code_lt d) (by omega)
  exact ⟨F.lt, pbits_raw d k a l next _ F hf (operand hl d (by simp [Instr.named, Named.ds, Named.only, Named.mem])) (operand hl a (by simp [Instr.named, Named.ds, Named.only, Named.mem]))⟩

theorem bany_raw (p : Nat) (off : Nat) (l : W32) (next : List W32) (wd : Nat)
    (F : FieldsC wd 17 p off) (hf : (Instr.bany p off).fits = true) :
    decodeRaw wd l next = .ok ⟨.bany p off, true, true⟩ := by
  simp [Instr.fits] at hf
  simp [decodeCtl, decodeRaw, F.f26_6, F.f20_6, F.f24_1, F.f25_1, F.f20_4, F.f0_20, ok, okZ, okR, bit1]

theorem bany (p : Nat) (off : Nat) : Statement (.bany p off) := by
  refine of_raw rfl rfl ?_
  intro hf hi l next hl
  have hf0 := hf
  simp [Instr.fits] at hf0
  have F := encC_fields (M := 17) (c := p) (o := off) (by decide) (by omega) (by omega)
  exact ⟨F.lt, bany_raw p off l next _ F hf⟩

theorem ball_raw (p : Nat) (off : Nat) (l : W32) (next : List W32) (wd : Nat)
    (F : FieldsC wd 18 p off) (hf : (Instr.ball p off).fits = true) :
    decodeRaw wd l next = .ok ⟨.ball p off, true, true⟩ := by
  simp [Instr.fits] at hf
  simp [decodeCtl, decodeRaw, F.f26_6, F.f20_6, F.f24_1, F.f25_1, F.f20_4, F.f0_20, ok, okZ, okR, bit1]

theorem ball (p : Nat) (off : Nat) : Statement (.ball p off) := by
  refine of_raw rfl rfl ?_
  intro hf hi l next hl
  have hf0 := hf
  simp [Instr.fits] at hf0
  have F := encC_fields (M := 18) (c := p) (o := off) (by decide) (by omega) (by omega)
  exact ⟨F.lt, ball_raw p off l next _ F hf⟩

theorem jmp_raw (off : Nat) (l : W32) (next : List W32) (wd : Nat)
    (F : FieldsC wd 19 0 off) (hf : (Instr.jmp off).fits = true) :
    decodeRaw wd l next = .ok ⟨.jmp off, true, true⟩ := by
  simp [Instr.fits] at hf
  simp [decodeCtl, decodeRaw, F.f26_6, F.f20_6, F.f24_1, F.f25_1, F.f20_4, F.f0_20, ok, okZ, okR, bit1]

theorem jmp (off : Nat) : Statement (.jmp off) := by
  refine of_raw rfl rfl ?_
  intro hf hi l next hl
  have hf0 := hf
  simp [Instr.fits] at hf0
  have F := encC_fields (M := 19) (c := 0) (o := off) (by decide) (by decide) (by omega)
  exact ⟨F.lt, jmp_raw off l next _ F hf⟩

theorem call_raw (off : Nat) (l : W32) (next : List W32) (wd : Nat)
    (F : FieldsC wd 19 1 off) (hf : (Instr.call off).fits = true) :
    decodeRaw wd l next = .ok ⟨.call off, true, true⟩ := by
  simp [Instr.fits] at hf
  simp [decodeCtl, decodeRaw, F.f26_6, F.f20_6, F.f24_1, F.f25_1, F.f20_4, F.f0_20, ok, okZ, okR, bit1]

theorem call (off : Nat) : Statement (.call off) := by
  refine of_raw rfl rfl ?_
  intro hf hi l next hl
  have hf0 := hf
  simp [Instr.fits] at hf0
  have F := encC_fields (M := 19) (c := 1) (o := off) (by decide) (by decide) (by omega)
  exact ⟨F.lt, call_raw off l next _ F hf⟩

theorem bdiv_raw (p : Nat) (off : Nat) (l : W32) (next : List W32) (wd : Nat)
    (F : FieldsC wd 20 p off) (hf : (Instr.bdiv p off).fits = true) :
    decodeRaw wd l next = .ok ⟨.bdiv p off, true, true⟩ := by
  simp [Instr.fits] at hf
  simp [decodeCtl, decodeRaw, F.f26_6, F.f20_6, F.f24_1, F.f25_1, F.f20_4, F.f0_20, ok, okZ, okR, bit1]

theorem bdiv (p : Nat) (off : Nat) : Statement (.bdiv p off) := by
  refine of_raw rfl rfl ?_
  intro hf hi l next hl
  have hf0 := hf
  simp [Instr.fits] at hf0
  have F := encC_fields (M := 20) (c := p) (o := off) (by decide) (by omega) (by omega)
  exact ⟨F.lt, bdiv_raw p off l next _ F hf⟩

theorem rcv_raw (off : Nat) (l : W32) (next : List W32) (wd : Nat)
    (F : FieldsC wd 22 0 off) (hf : (Instr.rcv off).fits = true) :
    decodeRaw wd l next = .ok ⟨.rcv off, true, true⟩ := by
  simp [Instr.fits] at hf
  simp [decodeCtl, decodeRaw, F.f26_6, F.f20_6, F.f24_1, F.f25_1, F.f20_4, F.f0_20, ok, okZ, okR, bit1]

theorem rcv (off : Nat) : Statement (.rcv off) := by
  refine of_raw rfl rfl ?_
  intro hf hi l next hl
  have hf0 := hf
  simp [Instr.fits] at hf0
  have F := encC_fields (M := 22) (c := 0) (o := off) (by decide) (by decide) (by omega)
  exact ⟨F.lt, rcv_raw off l next _ F hf⟩

theorem bsaFull_raw (k : Nat) (off : Nat) (l : W32) (next : List W32) (wd : Nat)
    (F : FieldsC wd 23 k off) (hf : (Instr.bsaFull k off).fits = true) :
    decodeRaw wd l next = .ok ⟨.bsaFull k off, true, true⟩ := by
  simp [Instr.fits] at hf
  have x0 : k / 16 % 2 = 0 := by omega
  have x1 : k / 32 = 0 := by omega
  have x2 : k % 16 = k := by omega
  simp [decodeCtl, decodeRaw, F.f26_6, F.f24_1, F.f25_1, F.f20_4, F.f0_20, x0, x1, x2, ok, okZ, okR, bit1]

theorem bsaFull (k : Nat) (off : Nat) : Statement (.bsaFull k off) := by
  refine of_raw rfl rfl ?_
  intro hf hi l next hl
  have hf0 := hf
  simp [Instr.fits] at hf0
  have F := encC_fields (M := 23) (c := k) (o := off) (by decide) (by omega) (by omega)
  exact ⟨F.lt, bsaFull_raw k off l next _ F hf⟩

theorem bsaRoom_raw (k : Nat) (off : Nat) (l : W32) (next : List W32) (wd : Nat)
    (F : FieldsC wd 23 (16 + k) off) (hf : (Instr.bsaRoom k off).fits = true) :
    decodeRaw wd l next = .ok ⟨.bsaRoom k off, true, true⟩ := by
  simp [Instr.fits] at hf
  have x0 : k / 16 = 0 := by omega
  have x1 : (16 + k) / 32 = 0 := by omega
  have x2 : (16 + k) % 16 = k := by omega
  simp [decodeCtl, decodeRaw, F.f26_6, F.f24_1, F.f25_1, F.f20_4, F.f0_20, x0, x1, x2, ok, okZ, okR, bit1]

theorem bsaRoom (k : Nat) (off : Nat) : Statement (.bsaRoom k off) := by
  refine of_raw rfl rfl ?_
  intro hf hi l next hl
  have hf0 := hf
  simp [Instr.fits] at hf0
  have F := encC_fields (M := 23) (c := (16 + k)) (o := off) (by decide) (by omega) (by omega)
  exact ⟨F.lt, bsaRoom_raw k off l next _ F hf⟩

theorem jmpi_raw (a : Opnd) (l : W32) (next : List W32) (wd : Nat)
    (F : FieldsS wd 24 2 a.code 0 0)
    (e_a : opndOf a.code l = a) :
    decodeRaw wd l next = .ok ⟨.jmpi a, true, true⟩ := by
  simp [decodeCtl, decodeRaw, F.f26_6, F.f20_6, F.f24_2, F.f20_4, F.f24_1, F.f25_1, F.f13_7, F.f6_7, F.f0_6, F.f0_13, F.f6_14, F.f0_20, e_a, ok, okZ, okR, bit1]

theorem jmpi (a : Opnd) : Statement (.jmpi a) := by
  refine of_raw rfl rfl ?_
  intro hf hi l next hl
  have F := encS_fields (M := 24) (fn := 2) (a := a.code) (b := 0) (k := 0) (by decide) (by decide) (Opnd.code_lt a) (by decide) (by decide)
  exact ⟨F.lt, jmpi_raw a l next _ F (operand hl a (by simp [Instr.named, Named.ds, Named.only, Named.mem]))⟩

theorem calli_raw (a : Opnd) (l : W32) (next : List W32) (wd : Nat)
    (F : FieldsS wd 24 3 a.code 0 0)
    (e_a : opndOf a.code l = a) :
    decodeRaw wd l next = .ok ⟨.calli a, true, true⟩ := by
  simp [decodeCtl, decodeRaw, F.f26_6, F.f20_6, F.f24_2, F.f20_4, F.f24_1, F.f25_1, F.f13_7, F.f6_7, F.f0_6, F.f0_13, F.f6_14, F.f0_20, e_a, ok, okZ, okR, bit1]

theorem calli (a : Opnd) : Statement (.calli a) := by
  refine of_raw rfl rfl ?_
  intro hf hi l next hl
  have F := encS_fields (M := 24) (fn := 3) (a := a.code) (b := 0) (k := 0) (by decide) (by decide) (Opnd.code_lt a) (by decide) (by decide)
  exact ⟨F.lt, calli_raw a l next _ F (operand hl a (by simp [Instr.named, Named.ds, Named.only, Named.mem]))⟩

theorem trap_raw (k : Nat) (l : W32) (next : List W32) (wd : Nat)
    (F : FieldsS wd 24 6 0 0 k) (hf : (Instr.trap k).fits = true) :
    decodeRaw wd l next = .ok ⟨.trap k, true, true⟩ := by
  simp [Instr.fits] at hf
  simp [decodeCtl, decodeRaw, F.f26_6, F.f20_6, F.f24_2, F.f20_4, F.f24_1, F.f25_1, F.f13_7, F.f6_7, F.f0_6, F.f0_13, F.f6_14, F.f0_20, ok, okZ, okR, bit1]

theorem trap (k : Nat) : Statement (.trap k) := by
  refine of_raw rfl rfl ?_
  intro hf hi l next hl
  have hf0 := hf
  simp [Instr.fits] at hf0
  have F := encS_fields (M := 24) (fn := 6) (a := 0) (b := 0) (k := k) (by decide) (by decide) (by decide) (by decide) (by omega)
  exact ⟨F.lt, trap_raw k l next _ F hf⟩

theorem sys_raw (k : Nat) (l : W32) (next : List W32) (wd : Nat)
    (F : FieldsS wd 24 7 0 0 k) (hf : (Instr.sys k).fits = true) :
    decodeRaw wd l next = .ok ⟨.sys k, true, true⟩ := by
  simp [Instr.fits] at hf
  simp [decodeCtl, decodeRaw, F.f26_6, F.f20_6, F.f24_2, F.f20_4, F.f24_1, F.f25_1, F.f13_7, F.f6_7, F.f0_6, F.f0_13, F.f6_14, F.f0_20, ok, okZ, okR, bit1]

theorem sys (k : Nat) : Statement (.sys k) := by
  refine of_raw rfl rfl ?_
  intro hf hi l next hl
  have hf0 := hf
  simp [Instr.fits] at hf0
  have F := encS_fields (M := 24) (fn := 7) (a := 0) (b := 0) (k := k) (by decide) (by decide) (by decide) (by decide) (by omega)
  exact ⟨F.lt, sys_raw k l next _ F hf⟩

theorem ld_raw (c : MCount) (sx : Bool) (mw : MWidth) (d : Opnd) (x : Opnd) (n : Nat) (p : CPol) (l : W32) (next : List W32) (wd : Nat)
    (F : FieldsM wd 25 (8 * c.toCode + 4 * bit1 sx + mw.toCode) d.code x.code n p.toCode) (hf : (Instr.ld c sx mw d x n p).fits = true) (hi : (Instr.ld c sx mw d x n p).illegal = none)
    (e_d : opndOf d.code l = d)
    (e_x : opndOf x.code l = x) :
    decodeRaw wd l next = .ok ⟨.ld c sx mw d x n p, true, true⟩ := by
  simp [Instr.fits] at hf
  cases c <;> cases mw <;> cases sx <;> simp_all [decodeMem, decodeRaw, F.f26_6, F.f21_5, F.f23_3, F.f21_2, F.f21_3, F.f23_2, F.f23_1, F.f24_2, F.f24_1, F.f25_1, F.f14_7, F.f7_7, F.f2_5, F.f0_2, e_d, e_x, ok, okZ, okR, bit1, MCount.toCode, MWidth.toCode, MCount.ofCode, MWidth.ofCode, atomListed, Instr.illegal, Instr.badRange, firstBad, Instr.fits]

theorem ld (c : MCount) (sx : Bool) (mw : MWidth) (d : Opnd) (x : Opnd) (n : Nat) (p : CPol) : Statement (.ld c sx mw d x n p) := by
  refine of_raw rfl rfl ?_
  intro hf hi l next hl
  have hf0 := hf
  simp [Instr.fits] at hf0
  have F := encM_fields (M := 25) (fn := (8 * c.toCode + 4 * bit1 sx + mw.toCode)) (d := d.code) (a := x.code) (n := n) (p := p.toCode) (by decide) (by cases c <;> cases mw <;> cases sx <;> decide) (Opnd.code_lt d) (Opnd.code_lt x) (by omega) (CPol.toCode_lt p)
  exact ⟨F.lt, ld_raw c sx mw d x n p l next _ F hf hi (operand hl d (by simp [Instr.named, Named.ds, Named.only, Named.mem])) (operand hl x (by simp [Instr.named, Named.ds, Named.only, Named.mem]))⟩

theorem st_raw (c : MCount) (mw : MWidth) (d : Opnd) (x : Opnd) (n : Nat) (p : CPol) (l : W32) (next : List W32) (wd : Nat)
    (F : FieldsM wd 26 (8 * c.toCode + mw.toCode) d.code x.code n p.toCode) (hf : (Instr.st c mw d x n p).fits = true)
    (e_d : opndOf d.code l = d)
    (e_x : opndOf x.code l = x) :
    decodeRaw wd l next = .ok ⟨.st c mw d x n p, true, true⟩ := by
  simp [Instr.fits] at hf
  cases c <;> cases mw <;> simp [decodeMem, decodeRaw, F.f26_6, F.f21_5, F.f23_3, F.f21_2, F.f21_3, F.f23_2, F.f23_1, F.f24_2, F.f24_1, F.f25_1, F.f14_7, F.f7_7, F.f2_5, F.f0_2, e_d, e_x, ok, okZ, okR, bit1, MCount.toCode, MWidth.toCode, MCount.ofCode, MWidth.ofCode]

theorem st (c : MCount) (mw : MWidth) (d : Opnd) (x : Opnd) (n : Nat) (p : CPol) : Statement (.st c mw d x n p) := by
  refine of_raw rfl rfl ?_
  intro hf hi l next hl
  have hf0 := hf
  simp [Instr.fits] at hf0
  have F := encM_fields (M := 26) (fn := (8 * c.toCode + mw.toCode)) (d := d.code) (a := x.code) (n := n) (p := p.toCode) (by decide) (by cases c <;> cases mw <;> decide) (Opnd.code_lt d) (Opnd.code_lt x) (by omega) (CPol.toCode_lt p)
  exact ⟨F.lt, st_raw c mw d x n p l next _ F hf (operand hl d (by simp [Instr.named, Named.ds, Named.only, Named.mem])) (operand hl x (by simp [Instr.named, Named.ds, Named.only, Named.mem]))⟩

theorem lds_raw (two : Bool) (sx : Bool) (mw : MWidth) (d : Opnd) (x : Opnd) (l : W32) (next : List W32) (wd : Nat)
    (F : FieldsA wd 27 (8 * bit1 two + 4 * bit1 sx + mw.toCode) d.code x.code 0) (hf : (Instr.lds two sx mw d x).fits = true) (hi : (Instr.lds two sx mw d x).illegal = none)
    (e_d : opndOf d.code l = d)
    (e_x : opndOf x.code l = x) :
    decodeRaw wd l next = .ok ⟨.lds two sx mw d x, true, true⟩ := by
  cases mw <;> cases two <;> cases sx <;> simp_all [decodeMem, decodeRaw, F.f26_6, F.f21_5, F.f23_3, F.f21_2, F.f21_3, F.f21_4, F.f23_2, F.f23_1, F.f24_2, F.f24_1, F.f25_1, F.f14_7, F.f7_7, F.f0_7, F.f2_5, F.f0_2, F.f0_14, e_d, e_x, ok, okZ, okR, bit1, MWidth.toCode, MWidth.ofCode, atomListed, Instr.illegal, Instr.badRange, firstBad, Instr.fits]

theorem lds (two : Bool) (sx : Bool) (mw : MWidth) (d : Opnd) (x : Opnd) : Statement (.lds two sx mw d x) := by
  refine of_raw rfl rfl ?_
  intro hf hi l next hl
  have F := encA_fields (M := 27) (fn := (8 * bit1 two + 4 * bit1 sx + mw.toCode)) (d := d.code) (a := x.code) (b := 0) (by decide) (by cases mw <;> cases two <;> cases sx <;> decide) (Opnd.code_lt d) (Opnd.code_lt x) (by decide)
  exact ⟨F.lt, lds_raw two sx mw d x l next _ F hf hi (operand hl d (by simp [Instr.named, Named.ds, Named.only, Named.mem])) (operand hl x (by simp [Instr.named, Named.ds, Named.only, Named.mem]))⟩

theorem sts_raw (two : Bool) (mw : MWidth) (d : Opnd) (x : Opnd) (l : W32) (next : List W32) (wd : Nat)
    (F : FieldsA wd 27 (16 + 8 * bit1 two + mw.toCode) d.code x.code 0)
    (e_d : opndOf d.code l = d)
    (e_x : opndOf x.code l = x) :
    decodeRaw wd l next = .ok ⟨.sts two mw d x, true, true⟩ := by
  cases mw <;> cases two <;> simp [decodeMem, decodeRaw, F.f26_6, F.f21_5, F.f23_3, F.f21_2, F.f21_3, F.f21_4, F.f23_2, F.f23_1, F.f24_2, F.f24_1, F.f25_1, F.f14_7, F.f7_7, F.f0_7, F.f2_5, F.f0_2, F.f0_14, e_d, e_x, ok, okZ, okR, bit1, MWidth.toCode, MWidth.ofCode]

theorem sts (two : Bool) (mw : MWidth) (d : Opnd) (x : Opnd) : Statement (.sts two mw d x) := by
  refine of_raw rfl rfl ?_
  intro hf hi l next hl
  have F := encA_fields (M := 27) (fn := (16 + 8 * bit1 two + mw.toCode)) (d := d.code) (a := x.code) (b := 0) (by decide) (by cases mw <;> cases two <;> decide) (Opnd.code_lt d) (Opnd.code_lt x) (by decide)
  exact ⟨F.lt, sts_raw two mw d x l next _ F (operand hl d (by simp [Instr.named, Named.ds, Named.only, Named.mem])) (operand hl x (by simp [Instr.named, Named.ds, Named.only, Named.mem]))⟩

theorem ldl_raw (two : Bool) (sx : Bool) (mw : MWidth) (d : Opnd) (x : Opnd) (l : W32) (next : List W32) (wd : Nat)
    (F : FieldsA wd 28 (8 * bit1 two + 4 * bit1 sx + mw.toCode) d.code x.code 0) (hf : (Instr.ldl two sx mw d x).fits = true) (hi : (Instr.ldl two sx mw d x).illegal = none)
    (e_d : opndOf d.code l = d)
    (e_x : opndOf x.code l = x) :
    decodeRaw wd l next = .ok ⟨.ldl two sx mw d x, true, true⟩ := by
  cases mw <;> cases two <;> cases sx <;> simp_all [decodeMem, decodeRaw, F.f26_6, F.f21_5, F.f23_3, F.f21_2, F.f21_3, F.f21_4, F.f23_2, F.f23_1, F.f24_2, F.f24_1, F.f25_1, F.f14_7, F.f7_7, F.f0_7, F.f2_5, F.f0_2, F.f0_14, e_d, e_x, ok, okZ, okR, bit1, MWidth.toCode, MWidth.ofCode, atomListed, Instr.illegal, Instr.badRange, firstBad, Instr.fits]

theorem ldl (two : Bool) (sx : Bool) (mw : MWidth) (d : Opnd) (x : Opnd) : Statement (.ldl two sx mw d x) := by
  refine of_raw rfl rfl ?_
  intro hf hi l next hl
  have F := encA_fields (M := 28) (fn := (8 * bit1 two + 4 * bit1 sx + mw.toCode)) (d := d.code) (a := x.code) (b := 0) (by decide) (by cases mw <;> cases two <;> cases sx <;> decide) (Opnd.code_lt d) (Opnd.code_lt x) (by decide)
  exact ⟨F.lt, ldl_raw two sx mw d x l next _ F hf hi (operand hl d (by simp [Instr.named, Named.ds, Named.only, Named.mem])) (operand hl x (by simp [Instr.named, Named.ds, Named.only, Named.mem]))⟩

theorem stl_raw (two : Bool) (mw : MWidth) (d : Opnd) (x : Opnd) (l : W32) (next : List W32) (wd : Nat)
    (F : FieldsA wd 28 (16 + 8 * bit1 two + mw.toCode) d.code x.code 0)
    (e_d : opndOf d.code l = d)
    (e_x : opndOf x.code l = x) :
    decodeRaw wd l next = .ok ⟨.stl two mw d x, true, true⟩ := by
  cases mw <;> cases two <;> simp [decodeMem, decodeRaw, F.f26_6, F.f21_5, F.f23_3, F.f21_2, F.f21_3, F.f21_4, F.f23_2, F.f23_1, F.f24_2, F.f24_1, F.f25_1, F.f14_7, F.f7_7, F.f0_7, F.f2_5, F.f0_2, F.f0_14, e_d, e_x, ok, okZ, okR, bit1, MWidth.toCode, MWidth.ofCode]

theorem stl (two : Bool) (mw : MWidth) (d : Opnd) (x : Opnd) : Statement (.stl two mw d x) := by
  refine of_raw rfl rfl ?_
  intro hf hi l next hl
  have F := encA_fields (M := 28) (fn := (16 + 8 * bit1 two + mw.toCode)) (d := d.code) (a := x.code) (b := 0) (by decide) (by cases mw <;> cases two <;> decide) (Opnd.code_lt d) (Opnd.code_lt x) (by decide)
  exact ⟨F.lt, stl_raw two mw d x l next _ F (operand hl d (by simp [Instr.named, Named.ds, Named.only, Named.mem])) (operand hl x (by simp [Instr.named, Named.ds, Named.only, Named.mem]))⟩

theorem atom_raw (o : AtomOp) (t : AType) (d : Opnd) (x : Opnd) (n : Nat) (p : CPol) (l : W32) (next : List W32) (wd : Nat)
    (F : FieldsM wd 29 (4 * o.toCode + t.toCode) d.code x.code n p.toCode) (hf : (Instr.atom o t d x n p).fits = true) (hi : (Instr.atom o t d x n p).illegal = none)
    (e_d : opndOf d.code l = d)
    (e_x : opndOf x.code l = x) :
    decodeRaw wd l next = .ok ⟨.atom o t d x n p, true, true⟩ := by
  simp [Instr.fits] at hf
  cases o <;> cases t <;> simp_all [decodeMem, decodeRaw, F.f26_6, F.f21_5, F.f23_3, F.f21_2, F.f21_3, F.f23_2, F.f23_1, F.f24_2, F.f24_1, F.f25_1, F.f14_7, F.f7_7, F.f2_5, F.f0_2, e_d, e_x, ok, okZ, okR, bit1, AType.toCode, AtomOp.toCode, AType.ofCode, AtomOp.ofCode, atomListed, Instr.illegal, Instr.badRange, firstBad, Instr.fits]

theorem atom (o : AtomOp) (t : AType) (d : Opnd) (x : Opnd) (n : Nat) (p : CPol) : Statement (.atom o t d x n p) := by
  refine of_raw rfl rfl ?_
  intro hf hi l next hl
  have hf0 := hf
  simp [Instr.fits] at hf0
  have F := encM_fields (M := 29) (fn := (4 * o.toCode + t.toCode)) (d := d.code) (a := x.code) (n := n) (p := p.toCode) (by decide) (by cases o <;> cases t <;> decide) (Opnd.code_lt d) (Opnd.code_lt x) (by omega) (CPol.toCode_lt p)
  exact ⟨F.lt, atom_raw o t d x n p l next _ F hf hi (operand hl d (by simp [Instr.named, Named.ds, Named.only, Named.mem])) (operand hl x (by simp [Instr.named, Named.ds, Named.only, Named.mem]))⟩

theorem atom2_raw (o : Atom2Op) (d : Opnd) (x : Opnd) (n : Nat) (p : CPol) (l : W32) (next : List W32) (wd : Nat)
    (F : FieldsM wd 30 o.toCode d.code x.code n p.toCode) (hf : (Instr.atom2 o d x n p).fits = true)
    (e_d : opndOf d.code l = d)
    (e_x : opndOf x.code l = x) :
    decodeRaw wd l next = .ok ⟨.atom2 o d x n p, true, true⟩ := by
  simp [Instr.fits] at hf
  cases o <;> simp [decodeMem, decodeRaw, F.f26_6, F.f21_5, F.f23_3, F.f21_2, F.f21_3, F.f23_2, F.f23_1, F.f24_2, F.f24_1, F.f25_1, F.f14_7, F.f7_7, F.f2_5, F.f0_2, e_d, e_x, ok, okZ, okR, bit1, Atom2Op.toCode, Atom2Op.ofCode]

theorem atom2 (o : Atom2Op) (d : Opnd) (x : Opnd) (n : Nat) (p : CPol) : Statement (.atom2 o d x n p) := by
  refine of_raw rfl rfl ?_
  intro hf hi l next hl
  have hf0 := hf
  simp [Instr.fits] at hf0
  have F := encM_fields (M := 30) (fn := o.toCode) (d := d.code) (a := x.code) (n := n) (p := p.toCode) (by decide) (by cases o <;> decide) (Opnd.code_lt d) (Opnd.code_lt x) (by omega) (CPol.toCode_lt p)
  exact ⟨F.lt, atom2_raw o d x n p l next _ F hf (operand hl d (by simp [Instr.named, Named.ds, Named.only, Named.mem])) (operand hl x (by simp [Instr.named, Named.ds, Named.only, Named.mem]))⟩

theorem bset_raw (n : Nat) (x : Opnd) (m : Nat) (l : W32) (next : List W32) (wd : Nat)
    (F : FieldsS wd 31 0 x.code m n) (hf : (Instr.bset n x m).fits = true)
    (e_x : opndOf x.code l = x) :
    decodeRaw wd l next = .ok ⟨.bset n x m, true, true⟩ := by
  simp [Instr.fits] at hf
  simp [decodeMem, decodeRaw, F.f26_6, F.f20_6, F.f24_2, F.f20_4, F.f24_1, F.f25_1, F.f13_7, F.f6_7, F.f0_6, F.f0_13, F.f6_14, F.f0_20, e_x, ok, okZ, okR, bit1]

theorem bset (n : Nat) (x : Opnd) (m : Nat) : Statement (.bset n x m) := by
  refine of_raw rfl rfl ?_
  intro hf hi l next hl
  have hf0 := hf
  simp [Instr.fits] at hf0
  have F := encS_fields (M := 31) (fn := 0) (a := x.code) (b := m) (k := n) (by decide) (by decide) (Opnd.code_lt x) (by omega) (by omega)
  exact ⟨F.lt, bset_raw n x m l next _ F hf (operand hl x (by simp [Instr.named, Named.ds, Named.only, Named.mem]))⟩

theorem bsetS_raw (n : Nat) (k : Nat) (l : W32) (next : List W32) (wd : Nat)
    (F : FieldsS wd 31 1 k 0 n) (hf : (Instr.bsetS n k).fits = true) :
    decodeRaw wd l next = .ok ⟨.bsetS n k, true, true⟩ := by
  simp [Instr.fits] at hf
  simp [decodeMem, decodeRaw, F.f26_6, F.f20_6, F.f24_2, F.f20_4, F.f24_1, F.f25_1, F.f13_7, F.f6_7, F.f0_6, F.f0_13, F.f6_14, F.f0_20, ok, okZ, okR, bit1]

theorem bsetS (n : Nat) (k : Nat) : Statement (.bsetS n k) := by
  refine of_raw rfl rfl ?_
  intro hf hi l next hl
  have hf0 := hf
  simp [Instr.fits] at hf0
  have F := encS_fields (M := 31) (fn := 1) (a := k) (b := 0) (k := n) (by decide) (by decide) (by omega) (by decide) (by omega)
  exact ⟨F.lt, bsetS_raw n k l next _ F hf⟩

theorem bget_raw (d : Opnd) (n : Nat) (i1 : Nat) (l : W32) (next : List W32) (wd : Nat)
    (F : FieldsS wd 31 2 i1 d.code n) (hf : (Instr.bget d n i1).fits = true)
    (e_d : opndOf d.code l = d) :
    decodeRaw wd l next = .ok ⟨.bget d n i1, true, true⟩ := by
  simp [Instr.fits] at hf
  simp [decodeMem, decodeRaw, F.f26_6, F.f20_6, F.f24_2, F.f20_4, F.f24_1, F.f25_1, F.f13_7, F.f6_7, F.f0_6, F.f0_13, F.f6_14, F.f0_20, e_d, ok, okZ, okR, bit1]

theorem bget (d : Opnd) (n : Nat) (i1 : Nat) : Statement (.bget d n i1) := by
  refine of_raw rfl rfl ?_
  intro hf hi l next hl
  have hf0 := hf
  simp [Instr.fits] at hf0
  have F := encS_fields (M := 31) (fn := 2) (a := i1) (b := d.code) (k := n) (by decide) (by decide) (by omega) (Opnd.code_lt d) (by omega)
  exact ⟨F.lt, bget_raw d n i1 l next _ F hf (operand hl d (by simp [Instr.named, Named.ds, Named.only, Named.mem]))⟩

theorem wadr_raw (d : Opnd) (x : Opnd) (n : Nat) (l : W32) (next : List W32) (wd : Nat)
    (F : FieldsM wd 33 0 d.code x.code n 0) (hf : (Instr.wadr d x n).fits = true)
    (e_d : opndOf d.code l = d)
    (e_x : opndOf x.code l = x) :
    decodeRaw wd l next = .ok ⟨.wadr d x n, true, true⟩ := by
  simp [Instr.fits] at hf
  simp [decodeMem, decodeRaw, F.f26_6, F.f21_5, F.f23_3, F.f21_2, F.f21_3, F.f23_2, F.f23_1, F.f24_2, F.f24_1, F.f25_1, F.f14_7, F.f7_7, F.f2_5, F.f0_2, e_d, e_x, ok, okZ, okR, bit1]

theorem wadr (d : Opnd) (x : Opnd) (n : Nat) : Statement (.wadr d x n) := by
  refine of_raw rfl rfl ?_
  intro hf hi l next hl
  have hf0 := hf
  simp [Instr.fits] at hf0
  have F := encM_fields (M := 33) (fn := 0) (d := d.code) (a := x.code) (n := n) (p := 0) (by decide) (by decide) (Opnd.code_lt d) (Opnd.code_lt x) (by omega) (by decide)
  exact ⟨F.lt, wadr_raw d x n l next _ F hf (operand hl d (by simp [Instr.named, Named.ds, Named.only, Named.mem])) (operand hl x (by simp [Instr.named, Named.ds, Named.only, Named.mem]))⟩

theorem ctwt_raw (t : Opnd) (x : Opnd) (n : Nat) (l : W32) (next : List W32) (wd : Nat)
    (F : FieldsM wd 33 1 t.code x.code n 0) (hf : (Instr.ctwt t x n).fits = true)
    (e_t : opndOf t.code l = t)
    (e_x : opndOf x.code l = x) :
    decodeRaw wd l next = .ok ⟨.ctwt t x n, true, true⟩ := by
  simp [Instr.fits] at hf
  simp [decodeMem, decodeRaw, F.f26_6, F.f21_5, F.f23_3, F.f21_2, F.f21_3, F.f23_2, F.f23_1, F.f24_2, F.f24_1, F.f25_1, F.f14_7, F.f7_7, F.f2_5, F.f0_2, e_t, e_x, ok, okZ, okR, bit1]

theorem ctwt (t : Opnd) (x : Opnd) (n : Nat) : Statement (.ctwt t x n) := by
  refine of_raw rfl rfl ?_
  intro hf hi l next hl
  have hf0 := hf
  simp [Instr.fits] at hf0
  have F := encM_fields (M := 33) (fn := 1) (d := t.code) (a := x.code) (n := n) (p := 0) (by decide) (by decide) (Opnd.code_lt t) (Opnd.code_lt x) (by omega) (by decide)
  exact ⟨F.lt, ctwt_raw t x n l next _ F hf (operand hl t (by simp [Instr.named, Named.ds, Named.only, Named.mem])) (operand hl x (by simp [Instr.named, Named.ds, Named.only, Named.mem]))⟩

theorem ctinc_raw (a : Opnd) (x : Opnd) (n : Nat) (l : W32) (next : List W32) (wd : Nat)
    (F : FieldsM wd 33 2 a.code x.code n 0) (hf : (Instr.ctinc a x n).fits = true)
    (e_a : opndOf a.code l = a)
    (e_x : opndOf x.code l = x) :
    decodeRaw wd l next = .ok ⟨.ctinc a x n, true, true⟩ := by
  simp [Instr.fits] at hf
  simp [decodeMem, decodeRaw, F.f26_6, F.f21_5, F.f23_3, F.f21_2, F.f21_3, F.f23_2, F.f23_1, F.f24_2, F.f24_1, F.f25_1, F.f14_7, F.f7_7, F.f2_5, F.f0_2, e_a, e_x, ok, okZ, okR, bit1]

theorem ctinc (a : Opnd) (x : Opnd) (n : Nat) : Statement (.ctinc a x n) := by
  refine of_raw rfl rfl ?_
  intro hf hi l next hl
  have hf0 := hf
  simp [Instr.fits] at hf0
  have F := encM_fields (M := 33) (fn := 2) (d := a.code) (a := x.code) (n := n) (p := 0) (by decide) (by decide) (Opnd.code_lt a) (Opnd.code_lt x) (by omega) (by decide)
  exact ⟨F.lt, ctinc_raw a x n l next _ F hf (operand hl a (by simp [Instr.named, Named.ds, Named.only, Named.mem])) (operand hl x (by simp [Instr.named, Named.ds, Named.only, Named.mem]))⟩

theorem cpy_raw (sz : Nat) (d : Opnd) (x : Opnd) (n : Nat) (p : CPol) (l : W32) (next : List W32) (wd : Nat)
    (F : FieldsM wd 34 sz d.code x.code n p.toCode) (hf : (Instr.cpy sz d x n p).fits = true)
    (e_d : opndOf d.code l = d)
    (e_x : opndOf x.code l = x) :
    decodeRaw wd l next = .ok ⟨.cpy sz d x n p, true, true⟩ := by
  simp [Instr.fits] at hf
  have x0 : sz % 8 = sz := by omega
  have x1 : sz / 8 = 0 := by omega
  have x2 : sz ≠ 7 := by omega
  simp [decodeMem, decodeRaw, F.f26_6, F.f21_5, F.f23_3, F.f21_2, F.f21_3, F.f23_2, F.f23_1, F.f24_2, F.f24_1, F.f25_1, F.f14_7, F.f7_7, F.f2_5, F.f0_2, e_d, e_x, x0, x1, x2, ok, okZ, okR, bit1]

theorem cpy (sz : Nat) (d : Opnd) (x : Opnd) (n : Nat) (p : CPol) : Statement (.cpy sz d x n p) := by
  refine of_raw rfl rfl ?_
  intro hf hi l next hl
  have hf0 := hf
  simp [Instr.fits] at hf0
  have F := encM_fields (M := 34) (fn := sz) (d := d.code) (a := x.code) (n := n) (p := p.toCode) (by decide) (by omega) (Opnd.code_lt d) (Opnd.code_lt x) (by omega) (CPol.toCode_lt p)
  exact ⟨F.lt, cpy_raw sz d x n p l next _ F hf (operand hl d (by simp [Instr.named, Named.ds, Named.only, Named.mem])) (operand hl x (by simp [Instr.named, Named.ds, Named.only, Named.mem]))⟩

theorem cpyIn_raw (sz : Nat) (d : Opnd) (x : Opnd) (n : Nat) (p : CPol) (l : W32) (next : List W32) (wd : Nat)
    (F : FieldsM wd 34 (8 + sz) d.code x.code n p.toCode) (hf : (Instr.cpyIn sz d x n p).fits = true)
    (e_d : opndOf d.code l = d)
    (e_x : opndOf x.code l = x) :
    decodeRaw wd l next = .ok ⟨.cpyIn sz d x n p, true, true⟩ := by
  simp [Instr.fits] at hf
  have x0 : (8 + sz) % 8 = sz := by omega
  have x1 : (8 + sz) / 8 = 1 := by omega
  have x2 : sz ≠ 7 := by omega
  simp [decodeMem, decodeRaw, F.f26_6, F.f21_5, F.f23_3, F.f21_2, F.f21_3, F.f23_2, F.f23_1, F.f24_2, F.f24_1, F.f25_1, F.f14_7, F.f7_7, F.f2_5, F.f0_2, e_d, e_x, x0, x1, x2, ok, okZ, okR, bit1]

theorem cpyIn (sz : Nat) (d : Opnd) (x : Opnd) (n : Nat) (p : CPol) : Statement (.cpyIn sz d x n p) := by
  refine of_raw rfl rfl ?_
  intro hf hi l next hl
  have hf0 := hf
  simp [Instr.fits] at hf0
  have F := encM_fields (M := 34) (fn := (8 + sz)) (d := d.code) (a := x.code) (n := n) (p := p.toCode) (by decide) (by omega) (Opnd.code_lt d) (Opnd.code_lt x) (by omega) (CPol.toCode_lt p)
  exact ⟨F.lt, cpyIn_raw sz d x n p l next _ F hf (operand hl d (by simp [Instr.named, Named.ds, Named.only, Named.mem])) (operand hl x (by simp [Instr.named, Named.ds, Named.only, Named.mem]))⟩

theorem cpyOut_raw (sz : Nat) (d : Opnd) (x : Opnd) (n : Nat) (p : CPol) (l : W32) (next : List W32) (wd : Nat)
    (F : FieldsM wd 34 (24 + sz) d.code x.code n p.toCode) (hf : (Instr.cpyOut sz d x n p).fits = true)
    (e_d : opndOf d.code l = d)
    (e_x : opndOf x.code l = x) :
    decodeRaw wd l next = .ok ⟨.cpyOut sz d x n p, true, true⟩ := by
  simp [Instr.fits] at hf
  have x0 : (24 + sz) % 8 = sz := by omega
  have x1 : (24 + sz) / 8 = 3 := by omega
  have x2 : sz ≠ 7 := by omega
  simp [decodeMem, decodeRaw, F.f26_6, F.f21_5, F.f23_3, F.f21_2, F.f21_3, F.f23_2, F.f23_1, F.f24_2, F.f24_1, F.f25_1, F.f14_7, F.f7_7, F.f2_5, F.f0_2, e_d, e_x, x0, x1, x2, ok, okZ, okR, bit1]

theorem cpyOut (sz : Nat) (d : Opnd) (x : Opnd) (n : Nat) (p : CPol) : Statement (.cpyOut sz d x n p) := by
  refine of_raw rfl rfl ?_
  intro hf hi l next hl
  have hf0 := hf
  simp [Instr.fits] at hf0
  have F := encM_fields (M := 34) (fn := (24 + sz)) (d := d.code) (a := x.code) (n := n) (p := p.toCode) (by decide) (by omega) (Opnd.code_lt d) (Opnd.code_lt x) (by omega) (CPol.toCode_lt p)
  exact ⟨F.lt, cpyOut_raw sz d x n p l next _ F hf (operand hl d (by simp [Instr.named, Named.ds, Named.only, Named.mem])) (operand hl x (by simp [Instr.named, Named.ds, Named.only, Named.mem]))⟩

theorem cwait_raw (k : Nat) (l : W32) (next : List W32) (wd : Nat)
    (F : FieldsS wd 35 1 0 0 k) (hf : (Instr.cwait k).fits = true) :
    decodeRaw wd l next = .ok ⟨.cwait k, true, true⟩ := by
  simp [Instr.fits] at hf
  simp [decodeMem, decodeRaw, F.f26_6, F.f20_6, F.f24_2, F.f20_4, F.f24_1, F.f25_1, F.f13_7, F.f6_7, F.f0_6, F.f0_13, F.f6_14, F.f0_20, ok, okZ, okR, bit1]

theorem cwait (k : Nat) : Statement (.cwait k) := by
  refine of_raw rfl rfl ?_
  intro hf hi l next hl
  have hf0 := hf
  simp [Instr.fits] at hf0
  have F := encS_fields (M := 35) (fn := 1) (a := 0) (b := 0) (k := k) (by decide) (by decide) (by decide) (by decide) (by omega)
  exact ⟨F.lt, cwait_raw k l next _ F hf⟩

theorem qw_raw (q : Nat) (a : Opnd) (l : W32) (next : List W32) (wd : Nat)
    (F : FieldsS wd 36 0 a.code 0 q) (hf : (Instr.qw q a).fits = true)
    (e_a : opndOf a.code l = a) :
    decodeRaw wd l next = .ok ⟨.qw q a, true, true⟩ := by
  simp [Instr.fits] at hf
  simp [decodeMem, decodeRaw, F.f26_6, F.f20_6, F.f24_2, F.f20_4, F.f24_1, F.f25_1, F.f13_7, F.f6_7, F.f0_6, F.f0_13, F.f6_14, F.f0_20, e_a, ok, okZ, okR, bit1]

theorem qw (q : Nat) (a : Opnd) : Statement (.qw q a) := by
  refine of_raw rfl rfl ?_
  intro hf hi l next hl
  have hf0 := hf
  simp [Instr.fits] at hf0
  have F := encS_fields (M := 36) (fn := 0) (a := a.code) (b := 0) (k := q) (by decide) (by decide) (Opnd.code_lt a) (by decide) (by omega)
  exact ⟨F.lt, qw_raw q a l next _ F hf (operand hl a (by simp [Instr.named, Named.ds, Named.only, Named.mem]))⟩

theorem qr_raw (b : Opnd) (q : Nat) (l : W32) (next : List W32) (wd : Nat)
    (F : FieldsS wd 36 1 0 b.code q) (hf : (Instr.qr b q).fits = true)
    (e_b : opndOf b.code l = b) :
    decodeRaw wd l next = .ok ⟨.qr b q, true, true⟩ := by
  simp [Instr.fits] at hf
  simp [decodeMem, decodeRaw, F.f26_6, F.f20_6, F.f24_2, F.f20_4, F.f24_1, F.f25_1, F.f13_7, F.f6_7, F.f0_6, F.f0_13, F.f6_14, F.f0_20, e_b, ok, okZ, okR, bit1]

theorem qr (b : Opnd) (q : Nat) : Statement (.qr b q) := by
  refine of_raw rfl rfl ?_
  intro hf hi l next hl
  have hf0 := hf
  simp [Instr.fits] at hf0
  have F := encS_fields (M := 36) (fn := 1) (a := 0) (b := b.code) (k := q) (by decide) (by decide) (by decide) (Opnd.code_lt b) (by omega)
  exact ⟨F.lt, qr_raw b q l next _ F hf (operand hl b (by simp [Instr.named, Named.ds, Named.only, Named.mem]))⟩

theorem sard_raw (b : Opnd) (a : Opnd) (k : Nat) (l : W32) (next : List W32) (wd : Nat)
    (F : FieldsS wd 37 0 a.code b.code k) (hf : (Instr.sard b a k).fits = true)
    (e_b : opndOf b.code l = b)
    (e_a : opndOf a.code l = a) :
    decodeRaw wd l next = .ok ⟨.sard b a k, true, true⟩ := by
  simp [Instr.fits] at hf
  simp [decodeMem, decodeRaw, F.f26_6, F.f20_6, F.f24_2, F.f20_4, F.f24_1, F.f25_1, F.f13_7, F.f6_7, F.f0_6, F.f0_13, F.f6_14, F.f0_20, e_b, e_a, ok, okZ, okR, bit1]

theorem sard (b : Opnd) (a : Opnd) (k : Nat) : Statement (.sard b a k) := by
  refine of_raw rfl rfl ?_
  intro hf hi l next hl
  have hf0 := hf
  simp [Instr.fits] at hf0
  have F := encS_fields (M := 37) (fn := 0) (a := a.code) (b := b.code) (k := k) (by decide) (by decide) (Opnd.code_lt a) (Opnd.code_lt b) (by omega)
  exact ⟨F.lt, sard_raw b a k l next _ F hf (operand hl b (by simp [Instr.named, Named.ds, Named.only, Named.mem])) (operand hl a (by simp [Instr.named, Named.ds, Named.only, Named.mem]))⟩

theorem sawt_raw (a : Opnd) (k : Nat) (l : W32) (next : List W32) (wd : Nat)
    (F : FieldsS wd 37 1 a.code 126 k) (hf : (Instr.sawt a k).fits = true)
    (e_a : opndOf a.code l = a) :
    decodeRaw wd l next = .ok ⟨.sawt a k, true, true⟩ := by
  simp [Instr.fits] at hf
  simp [decodeMem, decodeRaw, F.f26_6, F.f20_6, F.f24_2, F.f20_4, F.f24_1, F.f25_1, F.f13_7, F.f6_7, F.f0_6, F.f0_13, F.f6_14, F.f0_20, e_a, ok, okZ, okR, bit1]

theorem sawt (a : Opnd) (k : Nat) : Statement (.sawt a k) := by
  refine of_raw rfl rfl ?_
  intro hf hi l next hl
  have hf0 := hf
  simp [Instr.fits] at hf0
  have F := encS_fields (M := 37) (fn := 1) (a := a.code) (b := 126) (k := k) (by decide) (by decide) (Opnd.code_lt a) (by decide) (by omega)
  exact ⟨F.lt, sawt_raw a k l next _ F hf (operand hl a (by simp [Instr.named, Named.ds, Named.only, Named.mem]))⟩

theorem mld_raw (ms : Bool) (t : TileTy) (d : Nat) (x : Opnd) (n : Nat) (p : CPol) (l : W32) (next : List W32) (wd : Nat)
    (F : FieldsM wd 38 (8 * bit1 ms + t.toCode) d x.code n p.toCode) (hf : (Instr.mld ms t d x n p).fits = true)
    (e_x : opndOf x.code l = x) :
    decodeRaw wd l next = .ok ⟨.mld ms t d x n p, true, true⟩ := by
  simp [Instr.fits] at hf
  cases t <;> cases ms <;> simp [decodeMx, decodeRaw, F.f26_6, F.f21_5, F.f23_3, F.f21_2, F.f21_3, F.f23_2, F.f23_1, F.f24_2, F.f24_1, F.f25_1, F.f14_7, F.f7_7, F.f2_5, F.f0_2, e_x, ok, okZ, okR, bit1, TileTy.toCode, TileTy.ofCode]

theorem mld (ms : Bool) (t : TileTy) (d : Nat) (x : Opnd) (n : Nat) (p : CPol) : Statement (.mld ms t d x n p) := by
  refine of_raw rfl rfl ?_
  intro hf hi l next hl
  have hf0 := hf
  simp [Instr.fits] at hf0
  have F := encM_fields (M := 38) (fn := (8 * bit1 ms + t.toCode)) (d := d) (a := x.code) (n := n) (p := p.toCode) (by decide) (by cases t <;> cases ms <;> decide) (by omega) (Opnd.code_lt x) (by omega) (CPol.toCode_lt p)
  exact ⟨F.lt, mld_raw ms t d x n p l next _ F hf (operand hl x (by simp [Instr.named, Named.ds, Named.only, Named.mem]))⟩

theorem mldSb_raw (ms : Bool) (d : Nat) (x : Opnd) (n : Nat) (p : CPol) (l : W32) (next : List W32) (wd : Nat)
    (F : FieldsM wd 38 (16 + 8 * bit1 ms + 7) d x.code n p.toCode) (hf : (Instr.mldSb ms d x n p).fits = true)
    (e_x : opndOf x.code l = x) :
    decodeRaw wd l next = .ok ⟨.mldSb ms d x n p, true, true⟩ := by
  simp [Instr.fits] at hf
  cases ms <;> simp [decodeMx, decodeRaw, F.f26_6, F.f21_5, F.f23_3, F.f21_2, F.f21_3, F.f23_2, F.f23_1, F.f24_2, F.f24_1, F.f25_1, F.f14_7, F.f7_7, F.f2_5, F.f0_2, e_x, ok, okZ, okR, bit1]

theorem mldSb (ms : Bool) (d : Nat) (x : Opnd) (n : Nat) (p : CPol) : Statement (.mldSb ms d x n p) := by
  refine of_raw rfl rfl ?_
  intro hf hi l next hl
  have hf0 := hf
  simp [Instr.fits] at hf0
  have F := encM_fields (M := 38) (fn := (16 + 8 * bit1 ms + 7)) (d := d) (a := x.code) (n := n) (p := p.toCode) (by decide) (by cases ms <;> decide) (by omega) (Opnd.code_lt x) (by omega) (CPol.toCode_lt p)
  exact ⟨F.lt, mldSb_raw ms d x n p l next _ F hf (operand hl x (by simp [Instr.named, Named.ds, Named.only, Named.mem]))⟩

theorem mst_raw (ms : Bool) (t : TileTy) (d : Nat) (x : Opnd) (n : Nat) (p : CPol) (l : W32) (next : List W32) (wd : Nat)
    (F : FieldsM wd 39 (8 * bit1 ms + t.toCode) d x.code n p.toCode) (hf : (Instr.mst ms t d x n p).fits = true)
    (e_x : opndOf x.code l = x) :
    decodeRaw wd l next = .ok ⟨.mst ms t d x n p, true, true⟩ := by
  simp [Instr.fits] at hf
  cases t <;> cases ms <;> simp [decodeMx, decodeRaw, F.f26_6, F.f21_5, F.f23_3, F.f21_2, F.f21_3, F.f23_2, F.f23_1, F.f24_2, F.f24_1, F.f25_1, F.f14_7, F.f7_7, F.f2_5, F.f0_2, e_x, ok, okZ, okR, bit1, TileTy.toCode, TileTy.ofCode]

theorem mst (ms : Bool) (t : TileTy) (d : Nat) (x : Opnd) (n : Nat) (p : CPol) : Statement (.mst ms t d x n p) := by
  refine of_raw rfl rfl ?_
  intro hf hi l next hl
  have hf0 := hf
  simp [Instr.fits] at hf0
  have F := encM_fields (M := 39) (fn := (8 * bit1 ms + t.toCode)) (d := d) (a := x.code) (n := n) (p := p.toCode) (by decide) (by cases t <;> cases ms <;> decide) (by omega) (Opnd.code_lt x) (by omega) (CPol.toCode_lt p)
  exact ⟨F.lt, mst_raw ms t d x n p l next _ F hf (operand hl x (by simp [Instr.named, Named.ds, Named.only, Named.mem]))⟩

theorem mstSb_raw (ms : Bool) (d : Nat) (x : Opnd) (n : Nat) (p : CPol) (l : W32) (next : List W32) (wd : Nat)
    (F : FieldsM wd 39 (16 + 8 * bit1 ms + 7) d x.code n p.toCode) (hf : (Instr.mstSb ms d x n p).fits = true)
    (e_x : opndOf x.code l = x) :
    decodeRaw wd l next = .ok ⟨.mstSb ms d x n p, true, true⟩ := by
  simp [Instr.fits] at hf
  cases ms <;> simp [decodeMx, decodeRaw, F.f26_6, F.f21_5, F.f23_3, F.f21_2, F.f21_3, F.f23_2, F.f23_1, F.f24_2, F.f24_1, F.f25_1, F.f14_7, F.f7_7, F.f2_5, F.f0_2, e_x, ok, okZ, okR, bit1]

theorem mstSb (ms : Bool) (d : Nat) (x : Opnd) (n : Nat) (p : CPol) : Statement (.mstSb ms d x n p) := by
  refine of_raw rfl rfl ?_
  intro hf hi l next hl
  have hf0 := hf
  simp [Instr.fits] at hf0
  have F := encM_fields (M := 39) (fn := (16 + 8 * bit1 ms + 7)) (d := d) (a := x.code) (n := n) (p := p.toCode) (by decide) (by cases ms <;> decide) (by omega) (Opnd.code_lt x) (by omega) (CPol.toCode_lt p)
  exact ⟨F.lt, mstSb_raw ms d x n p l next _ F hf (operand hl x (by simp [Instr.named, Named.ds, Named.only, Named.mem]))⟩

theorem mmd_raw (ad : Nat) (ma : Nat) (mb : Nat) (f : MFlags) (l : W32) (next : List W32) (wd : Nat)
    (F : FieldsX wd 40 0 ad ma mb 0 f.toCode) (hf : (Instr.mmd ad ma mb f).fits = true) :
    decodeRaw wd l next = .ok ⟨.mmd ad ma mb f, true, true⟩ := by
  simp [Instr.fits] at hf
  rcases f with ⟨a1, a2, a3, a4⟩
  cases a1 <;> cases a2 <;> cases a3 <;> cases a4 <;> simp [decodeMx, decodeRaw, F.f26_6, F.f21_5, F.f17_4, F.f13_4, F.f9_4, F.f6_3, F.f0_6, F.f4_2, F.f0_1, F.f1_1, F.f2_1, F.f3_1, F.f0_9, F.f0_13, F.f0_17, F.f0_21, ok, okZ, okR, bit1, MFlags.ofCode, MFlags.toCode]

theorem mmd (ad : Nat) (ma : Nat) (mb : Nat) (f : MFlags) : Statement (.mmd ad ma mb f) := by
  refine of_raw rfl rfl ?_
  intro hf hi l next hl
  have hf0 := hf
  simp [Instr.fits] at hf0
  have F := encX_fields (M := 40) (fn := 0) (ad := ad) (ma := ma) (mb := mb) (sh := 0) (fl := f.toCode) (by decide) (by decide) (by omega) (by omega) (by omega) (by decide) (by rcases f with ⟨a1, a2, a3, a4⟩; cases a1 <;> cases a2 <;> cases a3 <;> cases a4 <;> decide)
  exact ⟨F.lt, mmd_raw ad ma mb f l next _ F hf⟩

theorem mms_raw (ad : Nat) (ma : Nat) (mb : Nat) (sh : Nat) (f : MFlags) (l : W32) (next : List W32) (wd : Nat)
    (F : FieldsX wd 40 1 ad ma mb sh f.toCode) (hf : (Instr.mms ad ma mb sh f).fits = true) :
    decodeRaw wd l next = .ok ⟨.mms ad ma mb sh f, true, true⟩ := by
  simp [Instr.fits] at hf
  rcases f with ⟨a1, a2, a3, a4⟩
  cases a1 <;> cases a2 <;> cases a3 <;> cases a4 <;> simp [decodeMx, decodeRaw, F.f26_6, F.f21_5, F.f17_4, F.f13_4, F.f9_4, F.f6_3, F.f0_6, F.f4_2, F.f0_1, F.f1_1, F.f2_1, F.f3_1, F.f0_9, F.f0_13, F.f0_17, F.f0_21, ok, okZ, okR, bit1, MFlags.ofCode, MFlags.toCode]

theorem mms (ad : Nat) (ma : Nat) (mb : Nat) (sh : Nat) (f : MFlags) : Statement (.mms ad ma mb sh f) := by
  refine of_raw rfl rfl ?_
  intro hf hi l next hl
  have hf0 := hf
  simp [Instr.fits] at hf0
  have F := encX_fields (M := 40) (fn := 1) (ad := ad) (ma := ma) (mb := mb) (sh := sh) (fl := f.toCode) (by decide) (by decide) (by omega) (by omega) (by omega) (by omega) (by rcases f with ⟨a1, a2, a3, a4⟩; cases a1 <;> cases a2 <;> cases a3 <;> cases a4 <;> decide)
  exact ⟨F.lt, mms_raw ad ma mb sh f l next _ F hf⟩

theorem mmh_raw (t : HalfTy) (ad : Nat) (ma : Nat) (mb : Nat) (sh : Nat) (f : MFlags) (l : W32) (next : List W32) (wd : Nat)
    (F : FieldsX wd 40 (2 + t.toCode) ad ma mb sh f.toCode) (hf : (Instr.mmh t ad ma mb sh f).fits = true) :
    decodeRaw wd l next = .ok ⟨.mmh t ad ma mb sh f, true, true⟩ := by
  simp [Instr.fits] at hf
  rcases f with ⟨a1, a2, a3, a4⟩
  cases t <;> cases a1 <;> cases a2 <;> cases a3 <;> cases a4 <;> simp [decodeMx, decodeRaw, F.f26_6, F.f21_5, F.f17_4, F.f13_4, F.f9_4, F.f6_3, F.f0_6, F.f4_2, F.f0_1, F.f1_1, F.f2_1, F.f3_1, F.f0_9, F.f0_13, F.f0_17, F.f0_21, ok, okZ, okR, bit1, HalfTy.toCode, HalfTy.ofCode, MFlags.ofCode, MFlags.toCode]

theorem mmh (t : HalfTy) (ad : Nat) (ma : Nat) (mb : Nat) (sh : Nat) (f : MFlags) : Statement (.mmh t ad ma mb sh f) := by
  refine of_raw rfl rfl ?_
  intro hf hi l next hl
  have hf0 := hf
  simp [Instr.fits] at hf0
  have F := encX_fields (M := 40) (fn := (2 + t.toCode)) (ad := ad) (ma := ma) (mb := mb) (sh := sh) (fl := f.toCode) (by decide) (by cases t <;> decide) (by omega) (by omega) (by omega) (by omega) (by rcases f with ⟨a1, a2, a3, a4⟩; cases a1 <;> cases a2 <;> cases a3 <;> cases a4 <;> decide)
  exact ⟨F.lt, mmh_raw t ad ma mb sh f l next _ F hf⟩

theorem mmf_raw (t : F8Ty) (ad : Nat) (ma : Nat) (mb : Nat) (sh : Nat) (f : MFlags) (l : W32) (next : List W32) (wd : Nat)
    (F : FieldsX wd 40 (4 + t.toCode) ad ma mb sh f.toCode) (hf : (Instr.mmf t ad ma mb sh f).fits = true) :
    decodeRaw wd l next = .ok ⟨.mmf t ad ma mb sh f, true, true⟩ := by
  simp [Instr.fits] at hf
  rcases f with ⟨a1, a2, a3, a4⟩
  cases t <;> cases a1 <;> cases a2 <;> cases a3 <;> cases a4 <;> simp [decodeMx, decodeRaw, F.f26_6, F.f21_5, F.f17_4, F.f13_4, F.f9_4, F.f6_3, F.f0_6, F.f4_2, F.f0_1, F.f1_1, F.f2_1, F.f3_1, F.f0_9, F.f0_13, F.f0_17, F.f0_21, ok, okZ, okR, bit1, F8Ty.toCode, F8Ty.ofCode, MFlags.ofCode, MFlags.toCode]

theorem mmf (t : F8Ty) (ad : Nat) (ma : Nat) (mb : Nat) (sh : Nat) (f : MFlags) : Statement (.mmf t ad ma mb sh f) := by
  refine of_raw rfl rfl ?_
  intro hf hi l next hl
  have hf0 := hf
  simp [Instr.fits] at hf0
  have F := encX_fields (M := 40) (fn := (4 + t.toCode)) (ad := ad) (ma := ma) (mb := mb) (sh := sh) (fl := f.toCode) (by decide) (by cases t <;> decide) (by omega) (by omega) (by omega) (by omega) (by rcases f with ⟨a1, a2, a3, a4⟩; cases a1 <;> cases a2 <;> cases a3 <;> cases a4 <;> decide)
  exact ⟨F.lt, mmf_raw t ad ma mb sh f l next _ F hf⟩

theorem mmi_raw (t : I8Ty) (ad : Nat) (ma : Nat) (mb : Nat) (f : MFlags) (l : W32) (next : List W32) (wd : Nat)
    (F : FieldsX wd 40 (8 + t.toCode) ad ma mb 0 f.toCode) (hf : (Instr.mmi t ad ma mb f).fits = true) :
    decodeRaw wd l next = .ok ⟨.mmi t ad ma mb f, true, true⟩ := by
  simp [Instr.fits] at hf
  rcases f with ⟨a1, a2, a3, a4⟩
  cases t <;> cases a1 <;> cases a2 <;> cases a3 <;> cases a4 <;> simp [decodeMx, decodeRaw, F.f26_6, F.f21_5, F.f17_4, F.f13_4, F.f9_4, F.f6_3, F.f0_6, F.f4_2, F.f0_1, F.f1_1, F.f2_1, F.f3_1, F.f0_9, F.f0_13, F.f0_17, F.f0_21, ok, okZ, okR, bit1, I8Ty.toCode, I8Ty.ofCode, MFlags.ofCode, MFlags.toCode]

theorem mmi (t : I8Ty) (ad : Nat) (ma : Nat) (mb : Nat) (f : MFlags) : Statement (.mmi t ad ma mb f) := by
  refine of_raw rfl rfl ?_
  intro hf hi l next hl
  have hf0 := hf
  simp [Instr.fits] at hf0
  have F := encX_fields (M := 40) (fn := (8 + t.toCode)) (ad := ad) (ma := ma) (mb := mb) (sh := 0) (fl := f.toCode) (by decide) (by cases t <;> decide) (by omega) (by omega) (by omega) (by decide) (by rcases f with ⟨a1, a2, a3, a4⟩; cases a1 <;> cases a2 <;> cases a3 <;> cases a4 <;> decide)
  exact ⟨F.lt, mmi_raw t ad ma mb f l next _ F hf⟩

theorem mmq_raw (ma : Nat) (mb : Nat) (ta : Bool) (tb : Bool) (ms : Bool) (l : W32) (next : List W32) (wd : Nat)
    (F : FieldsX wd 40 12 0 ma mb 0 (MFlags.toCode ⟨ta, tb, ms, false⟩)) (hf : (Instr.mmq ma mb ta tb ms).fits = true) :
    decodeRaw wd l next = .ok ⟨.mmq ma mb ta tb ms, true, true⟩ := by
  simp [Instr.fits] at hf
  cases ta <;> cases tb <;> cases ms <;> simp [decodeMx, decodeRaw, F.f26_6, F.f21_5, F.f17_4, F.f13_4, F.f9_4, F.f6_3, F.f0_6, F.f4_2, F.f0_1, F.f1_1, F.f2_1, F.f3_1, F.f0_9, F.f0_13, F.f0_17, F.f0_21, ok, okZ, okR, bit1, MFlags.ofCode, MFlags.toCode]

theorem mmq (ma : Nat) (mb : Nat) (ta : Bool) (tb : Bool) (ms : Bool) : Statement (.mmq ma mb ta tb ms) := by
  refine of_raw rfl rfl ?_
  intro hf hi l next hl
  have hf0 := hf
  simp [Instr.fits] at hf0
  have F := encX_fields (M := 40) (fn := 12) (ad := 0) (ma := ma) (mb := mb) (sh := 0) (fl := (MFlags.toCode ⟨ta, tb, ms, false⟩)) (by decide) (by decide) (by decide) (by omega) (by omega) (by decide) (by cases ta <;> cases tb <;> cases ms <;> decide)
  exact ⟨F.lt, mmq_raw ma mb ta tb ms l next _ F hf⟩

theorem mscl_raw (ad : Nat) (ma : Nat) (mb : Nat) (cf : Bool) (l : W32) (next : List W32) (wd : Nat)
    (F : FieldsX wd 41 0 ad ma mb 0 (8 * bit1 cf)) (hf : (Instr.mscl ad ma mb cf).fits = true) :
    decodeRaw wd l next = .ok ⟨.mscl ad ma mb cf, true, true⟩ := by
  simp [Instr.fits] at hf
  cases cf <;> simp [decodeMx, decodeRaw, F.f26_6, F.f21_5, F.f17_4, F.f13_4, F.f9_4, F.f6_3, F.f0_6, F.f4_2, F.f0_1, F.f1_1, F.f2_1, F.f3_1, F.f0_9, F.f0_13, F.f0_17, F.f0_21, ok, okZ, okR, bit1, MFlags.ofCode, MFlags.toCode]

theorem mscl (ad : Nat) (ma : Nat) (mb : Nat) (cf : Bool) : Statement (.mscl ad ma mb cf) := by
  refine of_raw rfl rfl ?_
  intro hf hi l next hl
  have hf0 := hf
  simp [Instr.fits] at hf0
  have F := encX_fields (M := 41) (fn := 0) (ad := ad) (ma := ma) (mb := mb) (sh := 0) (fl := (8 * bit1 cf)) (by decide) (by decide) (by omega) (by omega) (by omega) (by decide) (by cases cf <;> decide)
  exact ⟨F.lt, mscl_raw ad ma mb cf l next _ F hf⟩

theorem manc_raw (ad : Nat) (ma : Nat) (mb : Nat) (l : W32) (next : List W32) (wd : Nat)
    (F : FieldsX wd 41 1 ad ma mb 0 0) (hf : (Instr.manc ad ma mb).fits = true) :
    decodeRaw wd l next = .ok ⟨.manc ad ma mb, true, true⟩ := by
  simp [Instr.fits] at hf
  simp [decodeMx, decodeRaw, F.f26_6, F.f21_5, F.f17_4, F.f13_4, F.f9_4, F.f6_3, F.f0_6, F.f4_2, F.f0_1, F.f1_1, F.f2_1, F.f3_1, F.f0_9, F.f0_13, F.f0_17, F.f0_21, ok, okZ, okR, bit1, MFlags.ofCode, MFlags.toCode]

theorem manc (ad : Nat) (ma : Nat) (mb : Nat) : Statement (.manc ad ma mb) := by
  refine of_raw rfl rfl ?_
  intro hf hi l next hl
  have hf0 := hf
  simp [Instr.fits] at hf0
  have F := encX_fields (M := 41) (fn := 1) (ad := ad) (ma := ma) (mb := mb) (sh := 0) (fl := 0) (by decide) (by decide) (by omega) (by omega) (by omega) (by decide) (by decide)
  exact ⟨F.lt, manc_raw ad ma mb l next _ F hf⟩

theorem macz_raw (ad : Nat) (l : W32) (next : List W32) (wd : Nat)
    (F : FieldsX wd 41 2 ad 0 0 0 0) (hf : (Instr.macz ad).fits = true) :
    decodeRaw wd l next = .ok ⟨.macz ad, true, true⟩ := by
  simp [Instr.fits] at hf
  simp [decodeMx, decodeRaw, F.f26_6, F.f21_5, F.f17_4, F.f13_4, F.f9_4, F.f6_3, F.f0_6, F.f4_2, F.f0_1, F.f1_1, F.f2_1, F.f3_1, F.f0_9, F.f0_13, F.f0_17, F.f0_21, ok, okZ, okR, bit1, MFlags.ofCode, MFlags.toCode]

theorem macz (ad : Nat) : Statement (.macz ad) := by
  refine of_raw rfl rfl ?_
  intro hf hi l next hl
  have hf0 := hf
  simp [Instr.fits] at hf0
  have F := encX_fields (M := 41) (fn := 2) (ad := ad) (ma := 0) (mb := 0) (sh := 0) (fl := 0) (by decide) (by decide) (by omega) (by decide) (by decide) (by decide) (by decide)
  exact ⟨F.lt, macz_raw ad l next _ F hf⟩

theorem maczF32_raw (ad : Nat) (l : W32) (next : List W32) (wd : Nat)
    (F : FieldsX wd 41 3 ad 0 0 0 0) (hf : (Instr.maczF32 ad).fits = true) :
    decodeRaw wd l next = .ok ⟨.maczF32 ad, true, true⟩ := by
  simp [Instr.fits] at hf
  simp [decodeMx, decodeRaw, F.f26_6, F.f21_5, F.f17_4, F.f13_4, F.f9_4, F.f6_3, F.f0_6, F.f4_2, F.f0_1, F.f1_1, F.f2_1, F.f3_1, F.f0_9, F.f0_13, F.f0_17, F.f0_21, ok, okZ, okR, bit1, MFlags.ofCode, MFlags.toCode]

theorem maczF32 (ad : Nat) : Statement (.maczF32 ad) := by
  refine of_raw rfl rfl ?_
  intro hf hi l next hl
  have hf0 := hf
  simp [Instr.fits] at hf0
  have F := encX_fields (M := 41) (fn := 3) (ad := ad) (ma := 0) (mb := 0) (sh := 0) (fl := 0) (by decide) (by decide) (by omega) (by decide) (by decide) (by decide) (by decide)
  exact ⟨F.lt, maczF32_raw ad l next _ F hf⟩

theorem mdrn_raw (t : FType) (ad : Nat) (v4 : Nat) (md : Nat) (l : W32) (next : List W32) (wd : Nat)
    (F : FieldsX wd 41 (4 + t.toCode) ad v4 0 md 0) (hf : (Instr.mdrn t ad v4 md).fits = true) :
    decodeRaw wd l next = .ok ⟨.mdrn t ad v4 md, true, true⟩ := by
  simp [Instr.fits] at hf
  cases t <;> simp [decodeMx, decodeRaw, F.f26_6, F.f21_5, F.f17_4, F.f13_4, F.f9_4, F.f6_3, F.f0_6, F.f4_2, F.f0_1, F.f1_1, F.f2_1, F.f3_1, F.f0_9, F.f0_13, F.f0_17, F.f0_21, ok, okZ, okR, bit1, FType.toCode, FType.ofCode, MFlags.ofCode, MFlags.toCode]

theorem mdrn (t : FType) (ad : Nat) (v4 : Nat) (md : Nat) : Statement (.mdrn t ad v4 md) := by
  refine of_raw rfl rfl ?_
  intro hf hi l next hl
  have hf0 := hf
  simp [Instr.fits] at hf0
  have F := encX_fields (M := 41) (fn := (4 + t.toCode)) (ad := ad) (ma := v4) (mb := 0) (sh := md) (fl := 0) (by decide) (by cases t <;> decide) (by omega) (by omega) (by decide) (by omega) (by decide)
  exact ⟨F.lt, mdrn_raw t ad v4 md l next _ F hf⟩

theorem mtlIn_raw (t : Nat) (v4 : Nat) (l : W32) (next : List W32) (wd : Nat)
    (F : FieldsX wd 41 8 0 t v4 0 0) (hf : (Instr.mtlIn t v4).fits = true) :
    decodeRaw wd l next = .ok ⟨.mtlIn t v4, true, true⟩ := by
  simp [Instr.fits] at hf
  simp [decodeMx, decodeRaw, F.f26_6, F.f21_5, F.f17_4, F.f13_4, F.f9_4, F.f6_3, F.f0_6, F.f4_2, F.f0_1, F.f1_1, F.f2_1, F.f3_1, F.f0_9, F.f0_13, F.f0_17, F.f0_21, ok, okZ, okR, bit1, MFlags.ofCode, MFlags.toCode]

theorem mtlIn (t : Nat) (v4 : Nat) : Statement (.mtlIn t v4) := by
  refine of_raw rfl rfl ?_
  intro hf hi l next hl
  have hf0 := hf
  simp [Instr.fits] at hf0
  have F := encX_fields (M := 41) (fn := 8) (ad := 0) (ma := t) (mb := v4) (sh := 0) (fl := 0) (by decide) (by decide) (by decide) (by omega) (by omega) (by decide) (by decide)
  exact ⟨F.lt, mtlIn_raw t v4 l next _ F hf⟩

theorem mtlOut_raw (t : Nat) (v4 : Nat) (l : W32) (next : List W32) (wd : Nat)
    (F : FieldsX wd 41 9 0 t v4 0 0) (hf : (Instr.mtlOut t v4).fits = true) :
    decodeRaw wd l next = .ok ⟨.mtlOut t v4, true, true⟩ := by
  simp [Instr.fits] at hf
  simp [decodeMx, decodeRaw, F.f26_6, F.f21_5, F.f17_4, F.f13_4, F.f9_4, F.f6_3, F.f0_6, F.f4_2, F.f0_1, F.f1_1, F.f2_1, F.f3_1, F.f0_9, F.f0_13, F.f0_17, F.f0_21, ok, okZ, okR, bit1, MFlags.ofCode, MFlags.toCode]

theorem mtlOut (t : Nat) (v4 : Nat) : Statement (.mtlOut t v4) := by
  refine of_raw rfl rfl ?_
  intro hf hi l next hl
  have hf0 := hf
  simp [Instr.fits] at hf0
  have F := encX_fields (M := 41) (fn := 9) (ad := 0) (ma := t) (mb := v4) (sh := 0) (fl := 0) (by decide) (by decide) (by decide) (by omega) (by omega) (by decide) (by decide)
  exact ⟨F.lt, mtlOut_raw t v4 l next _ F hf⟩

theorem mtlSb_raw (t : Nat) (v4 : Nat) (l : W32) (next : List W32) (wd : Nat)
    (F : FieldsX wd 41 10 0 t v4 0 0) (hf : (Instr.mtlSb t v4).fits = true) :
    decodeRaw wd l next = .ok ⟨.mtlSb t v4, true, true⟩ := by
  simp [Instr.fits] at hf
  simp [decodeMx, decodeRaw, F.f26_6, F.f21_5, F.f17_4, F.f13_4, F.f9_4, F.f6_3, F.f0_6, F.f4_2, F.f0_1, F.f1_1, F.f2_1, F.f3_1, F.f0_9, F.f0_13, F.f0_17, F.f0_21, ok, okZ, okR, bit1, MFlags.ofCode, MFlags.toCode]

theorem mtlSb (t : Nat) (v4 : Nat) : Statement (.mtlSb t v4) := by
  refine of_raw rfl rfl ?_
  intro hf hi l next hl
  have hf0 := hf
  simp [Instr.fits] at hf0
  have F := encX_fields (M := 41) (fn := 10) (ad := 0) (ma := t) (mb := v4) (sh := 0) (fl := 0) (by decide) (by decide) (by decide) (by omega) (by omega) (by decide) (by decide)
  exact ⟨F.lt, mtlSb_raw t v4 l next _ F hf⟩

theorem mflg_raw (ad : Nat) (t : Nat) (l : W32) (next : List W32) (wd : Nat)
    (F : FieldsX wd 41 11 ad t 0 0 0) (hf : (Instr.mflg ad t).fits = true) :
    decodeRaw wd l next = .ok ⟨.mflg ad t, true, true⟩ := by
  simp [Instr.fits] at hf
  simp [decodeMx, decodeRaw, F.f26_6, F.f21_5, F.f17_4, F.f13_4, F.f9_4, F.f6_3, F.f0_6, F.f4_2, F.f0_1, F.f1_1, F.f2_1, F.f3_1, F.f0_9, F.f0_13, F.f0_17, F.f0_21, ok, okZ, okR, bit1, MFlags.ofCode, MFlags.toCode]

theorem mflg (ad : Nat) (t : Nat) : Statement (.mflg ad t) := by
  refine of_raw rfl rfl ?_
  intro hf hi l next hl
  have hf0 := hf
  simp [Instr.fits] at hf0
  have F := encX_fields (M := 41) (fn := 11) (ad := ad) (ma := t) (mb := 0) (sh := 0) (fl := 0) (by decide) (by decide) (by omega) (by omega) (by decide) (by decide) (by decide)
  exact ⟨F.lt, mflg_raw ad t l next _ F hf⟩

theorem mpass_raw (px : Nat) (l : W32) (next : List W32) (wd : Nat)
    (F : FieldsX wd 41 13 0 px 0 0 0) (hf : (Instr.mpass px).fits = true) :
    decodeRaw wd l next = .ok ⟨.mpass px, true, true⟩ := by
  simp [Instr.fits] at hf
  simp [decodeMx, decodeRaw, F.f26_6, F.f21_5, F.f17_4, F.f13_4, F.f9_4, F.f6_3, F.f0_6, F.f4_2, F.f0_1, F.f1_1, F.f2_1, F.f3_1, F.f0_9, F.f0_13, F.f0_17, F.f0_21, ok, okZ, okR, bit1, MFlags.ofCode, MFlags.toCode]

theorem mpass (px : Nat) : Statement (.mpass px) := by
  refine of_raw rfl rfl ?_
  intro hf hi l next hl
  have hf0 := hf
  simp [Instr.fits] at hf0
  have F := encX_fields (M := 41) (fn := 13) (ad := 0) (ma := px) (mb := 0) (sh := 0) (fl := 0) (by decide) (by decide) (by decide) (by omega) (by decide) (by decide) (by decide)
  exact ⟨F.lt, mpass_raw px l next _ F hf⟩

theorem rqt_raw (t : Q4Ty) (x : Opnd) (n : Nat) (p : CPol) (l : W32) (next : List W32) (wd : Nat)
    (F : FieldsM wd 42 t.toCode x.code 126 n p.toCode) (hf : (Instr.rqt t x n p).fits = true)
    (e_x : opndOf x.code l = x) :
    decodeRaw wd l next = .ok ⟨.rqt t x n p, true, true⟩ := by
  simp [Instr.fits] at hf
  cases t <;> simp [decodeMx, decodeRaw, F.f26_6, F.f21_5, F.f23_3, F.f21_2, F.f21_3, F.f23_2, F.f23_1, F.f24_2, F.f24_1, F.f25_1, F.f14_7, F.f7_7, F.f2_5, F.f0_2, e_x, ok, okZ, okR, bit1, Q4Ty.toCode, Q4Ty.ofCode]

theorem rqt (t : Q4Ty) (x : Opnd) (n : Nat) (p : CPol) : Statement (.rqt t x n p) := by
  refine of_raw rfl rfl ?_
  intro hf hi l next hl
  have hf0 := hf
  simp [Instr.fits] at hf0
  have F := encM_fields (M := 42) (fn := t.toCode) (d := x.code) (a := 126) (n := n) (p := p.toCode) (by decide) (by cases t <;> decide) (Opnd.code_lt x) (by decide) (by omega) (CPol.toCode_lt p)
  exact ⟨F.lt, rqt_raw t x n p l next _ F hf (operand hl x (by simp [Instr.named, Named.ds, Named.only, Named.mem]))⟩

theorem smv_raw (t : WtTy) (x : Opnd) (n : Nat) (l : W32) (next : List W32) (wd : Nat)
    (F : FieldsM wd 43 t.toCode x.code 126 n 0) (hf : (Instr.smv t x n).fits = true) (hi : (Instr.smv t x n).illegal = none)
    (e_x : opndOf x.code l = x) :
    decodeRaw wd l next = .ok ⟨.smv t x n, true, true⟩ := by
  simp [Instr.fits] at hf
  cases t <;> simp_all [decodeMx, decodeRaw, F.f26_6, F.f21_5, F.f23_3, F.f21_2, F.f21_3, F.f23_2, F.f23_1, F.f24_2, F.f24_1, F.f25_1, F.f14_7, F.f7_7, F.f2_5, F.f0_2, e_x, ok, okZ, okR, bit1, WtTy.toCode, WtTy.ofCode, atomListed, Instr.illegal, Instr.badRange, firstBad, Instr.fits]

theorem smv (t : WtTy) (x : Opnd) (n : Nat) : Statement (.smv t x n) := by
  refine of_raw rfl rfl ?_
  intro hf hi l next hl
  have hf0 := hf
  simp [Instr.fits] at hf0
  have F := encM_fields (M := 43) (fn := t.toCode) (d := x.code) (a := 126) (n := n) (p := 0) (by decide) (by cases t <;> decide) (Opnd.code_lt x) (by decide) (by omega) (by decide)
  exact ⟨F.lt, smv_raw t x n l next _ F hf hi (operand hl x (by simp [Instr.named, Named.ds, Named.only, Named.mem]))⟩

theorem smvw_raw (t : WtTy) (x : Opnd) (n : Nat) (l : W32) (next : List W32) (wd : Nat)
    (F : FieldsM wd 43 (16 + t.toCode) x.code 126 n 0) (hf : (Instr.smvw t x n).fits = true) (hi : (Instr.smvw t x n).illegal = none)
    (e_x : opndOf x.code l = x) :
    decodeRaw wd l next = .ok ⟨.smvw t x n, true, true⟩ := by
  simp [Instr.fits] at hf
  cases t <;> simp_all [decodeMx, decodeRaw, F.f26_6, F.f21_5, F.f23_3, F.f21_2, F.f21_3, F.f23_2, F.f23_1, F.f24_2, F.f24_1, F.f25_1, F.f14_7, F.f7_7, F.f2_5, F.f0_2, e_x, ok, okZ, okR, bit1, WtTy.toCode, WtTy.ofCode, atomListed, Instr.illegal, Instr.badRange, firstBad, Instr.fits]

theorem smvw (t : WtTy) (x : Opnd) (n : Nat) : Statement (.smvw t x n) := by
  refine of_raw rfl rfl ?_
  intro hf hi l next hl
  have hf0 := hf
  simp [Instr.fits] at hf0
  have F := encM_fields (M := 43) (fn := (16 + t.toCode)) (d := x.code) (a := 126) (n := n) (p := 0) (by decide) (by cases t <;> decide) (Opnd.code_lt x) (by decide) (by omega) (by decide)
  exact ⟨F.lt, smvw_raw t x n l next _ F hf hi (operand hl x (by simp [Instr.named, Named.ds, Named.only, Named.mem]))⟩

theorem lclr_raw (z : Opnd) (l : W32) (next : List W32) (wd : Nat)
    (F : FieldsA wd 44 0 z.code 0 0)
    (e_z : opndOf z.code l = z) :
    decodeRaw wd l next = .ok ⟨.lclr z, true, true⟩ := by
  simp [decodeSys, decodeRaw, F.f26_6, F.f21_5, F.f23_3, F.f21_2, F.f21_3, F.f21_4, F.f23_2, F.f23_1, F.f24_2, F.f24_1, F.f25_1, F.f14_7, F.f7_7, F.f0_7, F.f2_5, F.f0_2, F.f0_14, e_z, ok, okZ, okR, bit1]

theorem lclr (z : Opnd) : Statement (.lclr z) := by
  refine of_raw rfl rfl ?_
  intro hf hi l next hl
  have F := encA_fields (M := 44) (fn := 0) (d := z.code) (a := 0) (b := 0) (by decide) (by decide) (Opnd.code_lt z) (by decide) (by decide)
  exact ⟨F.lt, lclr_raw z l next _ F (operand hl z (by simp [Instr.named, Named.ds, Named.only, Named.mem]))⟩

theorem laddF64_raw (z : Opnd) (s1 : Opnd) (l : W32) (next : List W32) (wd : Nat)
    (F : FieldsA wd 44 1 z.code s1.code 0)
    (e_z : opndOf z.code l = z)
    (e_s1 : opndOf s1.code l = s1) :
    decodeRaw wd l next = .ok ⟨.laddF64 z s1, true, true⟩ := by
  simp [decodeSys, decodeRaw, F.f26_6, F.f21_5, F.f23_3, F.f21_2, F.f21_3, F.f21_4, F.f23_2, F.f23_1, F.f24_2, F.f24_1, F.f25_1, F.f14_7, F.f7_7, F.f0_7, F.f2_5, F.f0_2, F.f0_14, e_z, e_s1, ok, okZ, okR, bit1]

theorem laddF64 (z : Opnd) (s1 : Opnd) : Statement (.laddF64 z s1) := by
  refine of_raw rfl rfl ?_
  intro hf hi l next hl
  have F := encA_fields (M := 44) (fn := 1) (d := z.code) (a := s1.code) (b := 0) (by decide) (by decide) (Opnd.code_lt z) (Opnd.code_lt s1) (by decide)
  exact ⟨F.lt, laddF64_raw z s1 l next _ F (operand hl z (by simp [Instr.named, Named.ds, Named.only, Named.mem])) (operand hl s1 (by simp [Instr.named, Named.ds, Named.only, Named.mem]))⟩

theorem laddF32_raw (z : Opnd) (s1 : Opnd) (l : W32) (next : List W32) (wd : Nat)
    (F : FieldsA wd 44 2 z.code s1.code 0)
    (e_z : opndOf z.code l = z)
    (e_s1 : opndOf s1.code l = s1) :
    decodeRaw wd l next = .ok ⟨.laddF32 z s1, true, true⟩ := by
  simp [decodeSys, decodeRaw, F.f26_6, F.f21_5, F.f23_3, F.f21_2, F.f21_3, F.f21_4, F.f23_2, F.f23_1, F.f24_2, F.f24_1, F.f25_1, F.f14_7, F.f7_7, F.f0_7, F.f2_5, F.f0_2, F.f0_14, e_z, e_s1, ok, okZ, okR, bit1]

theorem laddF32 (z : Opnd) (s1 : Opnd) : Statement (.laddF32 z s1) := by
  refine of_raw rfl rfl ?_
  intro hf hi l next hl
  have F := encA_fields (M := 44) (fn := 2) (d := z.code) (a := s1.code) (b := 0) (by decide) (by decide) (Opnd.code_lt z) (Opnd.code_lt s1) (by decide)
  exact ⟨F.lt, laddF32_raw z s1 l next _ F (operand hl z (by simp [Instr.named, Named.ds, Named.only, Named.mem])) (operand hl s1 (by simp [Instr.named, Named.ds, Named.only, Named.mem]))⟩

theorem laddBf16_raw (z : Opnd) (s1 : Opnd) (l : W32) (next : List W32) (wd : Nat)
    (F : FieldsA wd 44 3 z.code s1.code 0)
    (e_z : opndOf z.code l = z)
    (e_s1 : opndOf s1.code l = s1) :
    decodeRaw wd l next = .ok ⟨.laddBf16 z s1, true, true⟩ := by
  simp [decodeSys, decodeRaw, F.f26_6, F.f21_5, F.f23_3, F.f21_2, F.f21_3, F.f21_4, F.f23_2, F.f23_1, F.f24_2, F.f24_1, F.f25_1, F.f14_7, F.f7_7, F.f0_7, F.f2_5, F.f0_2, F.f0_14, e_z, e_s1, ok, okZ, okR, bit1]

theorem laddBf16 (z : Opnd) (s1 : Opnd) : Statement (.laddBf16 z s1) := by
  refine of_raw rfl rfl ?_
  intro hf hi l next hl
  have F := encA_fields (M := 44) (fn := 3) (d := z.code) (a := s1.code) (b := 0) (by decide) (by decide) (Opnd.code_lt z) (Opnd.code_lt s1) (by decide)
  exact ⟨F.lt, laddBf16_raw z s1 l next _ F (operand hl z (by simp [Instr.named, Named.ds, Named.only, Named.mem])) (operand hl s1 (by simp [Instr.named, Named.ds, Named.only, Named.mem]))⟩

theorem lmacF64_raw (z : Opnd) (s1 : Opnd) (u : Opnd) (l : W32) (next : List W32) (wd : Nat)
    (F : FieldsA wd 44 4 z.code s1.code u.code)
    (e_z : opndOf z.code l = z)
    (e_s1 : opndOf s1.code l = s1)
    (e_u : opndOf u.code l = u) :
    decodeRaw wd l next = .ok ⟨.lmacF64 z s1 u, true, true⟩ := by
  simp [decodeSys, decodeRaw, F.f26_6, F.f21_5, F.f23_3, F.f21_2, F.f21_3, F.f21_4, F.f23_2, F.f23_1, F.f24_2, F.f24_1, F.f25_1, F.f14_7, F.f7_7, F.f0_7, F.f2_5, F.f0_2, F.f0_14, e_z, e_s1, e_u, ok, okZ, okR, bit1]

theorem lmacF64 (z : Opnd) (s1 : Opnd) (u : Opnd) : Statement (.lmacF64 z s1 u) := by
  refine of_raw rfl rfl ?_
  intro hf hi l next hl
  have F := encA_fields (M := 44) (fn := 4) (d := z.code) (a := s1.code) (b := u.code) (by decide) (by decide) (Opnd.code_lt z) (Opnd.code_lt s1) (Opnd.code_lt u)
  exact ⟨F.lt, lmacF64_raw z s1 u l next _ F (operand hl z (by simp [Instr.named, Named.ds, Named.only, Named.mem])) (operand hl s1 (by simp [Instr.named, Named.ds, Named.only, Named.mem])) (operand hl u (by simp [Instr.named, Named.ds, Named.only, Named.mem]))⟩

theorem lmacF32_raw (z : Opnd) (s1 : Opnd) (u : Opnd) (l : W32) (next : List W32) (wd : Nat)
    (F : FieldsA wd 44 5 z.code s1.code u.code)
    (e_z : opndOf z.code l = z)
    (e_s1 : opndOf s1.code l = s1)
    (e_u : opndOf u.code l = u) :
    decodeRaw wd l next = .ok ⟨.lmacF32 z s1 u, true, true⟩ := by
  simp [decodeSys, decodeRaw, F.f26_6, F.f21_5, F.f23_3, F.f21_2, F.f21_3, F.f21_4, F.f23_2, F.f23_1, F.f24_2, F.f24_1, F.f25_1, F.f14_7, F.f7_7, F.f0_7, F.f2_5, F.f0_2, F.f0_14, e_z, e_s1, e_u, ok, okZ, okR, bit1]

theorem lmacF32 (z : Opnd) (s1 : Opnd) (u : Opnd) : Statement (.lmacF32 z s1 u) := by
  refine of_raw rfl rfl ?_
  intro hf hi l next hl
  have F := encA_fields (M := 44) (fn := 5) (d := z.code) (a := s1.code) (b := u.code) (by decide) (by decide) (Opnd.code_lt z) (Opnd.code_lt s1) (Opnd.code_lt u)
  exact ⟨F.lt, lmacF32_raw z s1 u l next _ F (operand hl z (by simp [Instr.named, Named.ds, Named.only, Named.mem])) (operand hl s1 (by simp [Instr.named, Named.ds, Named.only, Named.mem])) (operand hl u (by simp [Instr.named, Named.ds, Named.only, Named.mem]))⟩

theorem lmrg_raw (z : Opnd) (y : Opnd) (l : W32) (next : List W32) (wd : Nat)
    (F : FieldsA wd 44 6 z.code y.code 0)
    (e_z : opndOf z.code l = z)
    (e_y : opndOf y.code l = y) :
    decodeRaw wd l next = .ok ⟨.lmrg z y, true, true⟩ := by
  simp [decodeSys, decodeRaw, F.f26_6, F.f21_5, F.f23_3, F.f21_2, F.f21_3, F.f21_4, F.f23_2, F.f23_1, F.f24_2, F.f24_1, F.f25_1, F.f14_7, F.f7_7, F.f0_7, F.f2_5, F.f0_2, F.f0_14, e_z, e_y, ok, okZ, okR, bit1]

theorem lmrg (z : Opnd) (y : Opnd) : Statement (.lmrg z y) := by
  refine of_raw rfl rfl ?_
  intro hf hi l next hl
  have F := encA_fields (M := 44) (fn := 6) (d := z.code) (a := y.code) (b := 0) (by decide) (by decide) (Opnd.code_lt z) (Opnd.code_lt y) (by decide)
  exact ⟨F.lt, lmrg_raw z y l next _ F (operand hl z (by simp [Instr.named, Named.ds, Named.only, Named.mem])) (operand hl y (by simp [Instr.named, Named.ds, Named.only, Named.mem]))⟩

theorem lnrm_raw (z : Opnd) (l : W32) (next : List W32) (wd : Nat)
    (F : FieldsA wd 44 7 z.code 0 0)
    (e_z : opndOf z.code l = z) :
    decodeRaw wd l next = .ok ⟨.lnrm z, true, true⟩ := by
  simp [decodeSys, decodeRaw, F.f26_6, F.f21_5, F.f23_3, F.f21_2, F.f21_3, F.f21_4, F.f23_2, F.f23_1, F.f24_2, F.f24_1, F.f25_1, F.f14_7, F.f7_7, F.f0_7, F.f2_5, F.f0_2, F.f0_14, e_z, ok, okZ, okR, bit1]

theorem lnrm (z : Opnd) : Statement (.lnrm z) := by
  refine of_raw rfl rfl ?_
  intro hf hi l next hl
  have F := encA_fields (M := 44) (fn := 7) (d := z.code) (a := 0) (b := 0) (by decide) (by decide) (Opnd.code_lt z) (by decide) (by decide)
  exact ⟨F.lt, lnrm_raw z l next _ F (operand hl z (by simp [Instr.named, Named.ds, Named.only, Named.mem]))⟩

theorem lrnd_raw (f32 : Bool) (rm : RMode) (d : Opnd) (z : Opnd) (l : W32) (next : List W32) (wd : Nat)
    (F : FieldsA wd 44 (8 + 4 * bit1 f32 + rm.toCode) d.code z.code 0)
    (e_d : opndOf d.code l = d)
    (e_z : opndOf z.code l = z) :
    decodeRaw wd l next = .ok ⟨.lrnd f32 rm d z, true, true⟩ := by
  cases rm <;> cases f32 <;> simp [decodeSys, decodeRaw, F.f26_6, F.f21_5, F.f23_3, F.f21_2, F.f21_3, F.f21_4, F.f23_2, F.f23_1, F.f24_2, F.f24_1, F.f25_1, F.f14_7, F.f7_7, F.f0_7, F.f2_5, F.f0_2, F.f0_14, e_d, e_z, ok, okZ, okR, bit1, RMode.toCode, RMode.ofCode]

theorem lrnd (f32 : Bool) (rm : RMode) (d : Opnd) (z : Opnd) : Statement (.lrnd f32 rm d z) := by
  refine of_raw rfl rfl ?_
  intro hf hi l next hl
  have F := encA_fields (M := 44) (fn := (8 + 4 * bit1 f32 + rm.toCode)) (d := d.code) (a := z.code) (b := 0) (by decide) (by cases rm <;> cases f32 <;> decide) (Opnd.code_lt d) (Opnd.code_lt z) (by decide)
  exact ⟨F.lt, lrnd_raw f32 rm d z l next _ F (operand hl d (by simp [Instr.named, Named.ds, Named.only, Named.mem])) (operand hl z (by simp [Instr.named, Named.ds, Named.only, Named.mem]))⟩

theorem lrdl_raw (d : Opnd) (z : Opnd) (j : Opnd) (l : W32) (next : List W32) (wd : Nat)
    (F : FieldsA wd 44 16 d.code z.code j.code)
    (e_d : opndOf d.code l = d)
    (e_z : opndOf z.code l = z)
    (e_j : opndOf j.code l = j) :
    decodeRaw wd l next = .ok ⟨.lrdl d z j, true, true⟩ := by
  simp [decodeSys, decodeRaw, F.f26_6, F.f21_5, F.f23_3, F.f21_2, F.f21_3, F.f21_4, F.f23_2, F.f23_1, F.f24_2, F.f24_1, F.f25_1, F.f14_7, F.f7_7, F.f0_7, F.f2_5, F.f0_2, F.f0_14, e_d, e_z, e_j, ok, okZ, okR, bit1]

theorem lrdl (d : Opnd) (z : Opnd) (j : Opnd) : Statement (.lrdl d z j) := by
  refine of_raw rfl rfl ?_
  intro hf hi l next hl
  have F := encA_fields (M := 44) (fn := 16) (d := d.code) (a := z.code) (b := j.code) (by decide) (by decide) (Opnd.code_lt d) (Opnd.code_lt z) (Opnd.code_lt j)
  exact ⟨F.lt, lrdl_raw d z j l next _ F (operand hl d (by simp [Instr.named, Named.ds, Named.only, Named.mem])) (operand hl z (by simp [Instr.named, Named.ds, Named.only, Named.mem])) (operand hl j (by simp [Instr.named, Named.ds, Named.only, Named.mem]))⟩

theorem lwrl_raw (z : Opnd) (s1 : Opnd) (j : Opnd) (l : W32) (next : List W32) (wd : Nat)
    (F : FieldsA wd 44 17 z.code s1.code j.code)
    (e_z : opndOf z.code l = z)
    (e_s1 : opndOf s1.code l = s1)
    (e_j : opndOf j.code l = j) :
    decodeRaw wd l next = .ok ⟨.lwrl z s1 j, true, true⟩ := by
  simp [decodeSys, decodeRaw, F.f26_6, F.f21_5, F.f23_3, F.f21_2, F.f21_3, F.f21_4, F.f23_2, F.f23_1, F.f24_2, F.f24_1, F.f25_1, F.f14_7, F.f7_7, F.f0_7, F.f2_5, F.f0_2, F.f0_14, e_z, e_s1, e_j, ok, okZ, okR, bit1]

theorem lwrl (z : Opnd) (s1 : Opnd) (j : Opnd) : Statement (.lwrl z s1 j) := by
  refine of_raw rfl rfl ?_
  intro hf hi l next hl
  have F := encA_fields (M := 44) (fn := 17) (d := z.code) (a := s1.code) (b := j.code) (by decide) (by decide) (Opnd.code_lt z) (Opnd.code_lt s1) (Opnd.code_lt j)
  exact ⟨F.lt, lwrl_raw z s1 j l next _ F (operand hl z (by simp [Instr.named, Named.ds, Named.only, Named.mem])) (operand hl s1 (by simp [Instr.named, Named.ds, Named.only, Named.mem])) (operand hl j (by simp [Instr.named, Named.ds, Named.only, Named.mem]))⟩

theorem lst_raw (d : Opnd) (z : Opnd) (l : W32) (next : List W32) (wd : Nat)
    (F : FieldsA wd 44 18 d.code z.code 0)
    (e_d : opndOf d.code l = d)
    (e_z : opndOf z.code l = z) :
    decodeRaw wd l next = .ok ⟨.lst d z, true, true⟩ := by
  simp [decodeSys, decodeRaw, F.f26_6, F.f21_5, F.f23_3, F.f21_2, F.f21_3, F.f21_4, F.f23_2, F.f23_1, F.f24_2, F.f24_1, F.f25_1, F.f14_7, F.f7_7, F.f0_7, F.f2_5, F.f0_2, F.f0_14, e_d, e_z, ok, okZ, okR, bit1]

theorem lst (d : Opnd) (z : Opnd) : Statement (.lst d z) := by
  refine of_raw rfl rfl ?_
  intro hf hi l next hl
  have F := encA_fields (M := 44) (fn := 18) (d := d.code) (a := z.code) (b := 0) (by decide) (by decide) (Opnd.code_lt d) (Opnd.code_lt z) (by decide)
  exact ⟨F.lt, lst_raw d z l next _ F (operand hl d (by simp [Instr.named, Named.ds, Named.only, Named.mem])) (operand hl z (by simp [Instr.named, Named.ds, Named.only, Named.mem]))⟩

theorem lsv_raw (z : Opnd) (x : Opnd) (n : Nat) (p : CPol) (l : W32) (next : List W32) (wd : Nat)
    (F : FieldsM wd 45 0 z.code x.code n p.toCode) (hf : (Instr.lsv z x n p).fits = true)
    (e_z : opndOf z.code l = z)
    (e_x : opndOf x.code l = x) :
    decodeRaw wd l next = .ok ⟨.lsv z x n p, true, true⟩ := by
  simp [Instr.fits] at hf
  simp [decodeSys, decodeRaw, F.f26_6, F.f21_5, F.f23_3, F.f21_2, F.f21_3, F.f23_2, F.f23_1, F.f24_2, F.f24_1, F.f25_1, F.f14_7, F.f7_7, F.f2_5, F.f0_2, e_z, e_x, ok, okZ, okR, bit1]

theorem lsv (z : Opnd) (x : Opnd) (n : Nat) (p : CPol) : Statement (.lsv z x n p) := by
  refine of_raw rfl rfl ?_
  intro hf hi l next hl
  have hf0 := hf
  simp [Instr.fits] at hf0
  have F := encM_fields (M := 45) (fn := 0) (d := z.code) (a := x.code) (n := n) (p := p.toCode) (by decide) (by decide) (Opnd.code_lt z) (Opnd.code_lt x) (by omega) (CPol.toCode_lt p)
  exact ⟨F.lt, lsv_raw z x n p l next _ F hf (operand hl z (by simp [Instr.named, Named.ds, Named.only, Named.mem])) (operand hl x (by simp [Instr.named, Named.ds, Named.only, Named.mem]))⟩

theorem lld_raw (z : Opnd) (x : Opnd) (n : Nat) (p : CPol) (l : W32) (next : List W32) (wd : Nat)
    (F : FieldsM wd 45 1 z.code x.code n p.toCode) (hf : (Instr.lld z x n p).fits = true)
    (e_z : opndOf z.code l = z)
    (e_x : opndOf x.code l = x) :
    decodeRaw wd l next = .ok ⟨.lld z x n p, true, true⟩ := by
  simp [Instr.fits] at hf
  simp [decodeSys, decodeRaw, F.f26_6, F.f21_5, F.f23_3, F.f21_2, F.f21_3, F.f23_2, F.f23_1, F.f24_2, F.f24_1, F.f25_1, F.f14_7, F.f7_7, F.f2_5, F.f0_2, e_z, e_x, ok, okZ, okR, bit1]

theorem lld (z : Opnd) (x : Opnd) (n : Nat) (p : CPol) : Statement (.lld z x n p) := by
  refine of_raw rfl rfl ?_
  intro hf hi l next hl
  have hf0 := hf
  simp [Instr.fits] at hf0
  have F := encM_fields (M := 45) (fn := 1) (d := z.code) (a := x.code) (n := n) (p := p.toCode) (by decide) (by decide) (Opnd.code_lt z) (Opnd.code_lt x) (by omega) (CPol.toCode_lt p)
  exact ⟨F.lt, lld_raw z x n p l next _ F hf (operand hl z (by simp [Instr.named, Named.ds, Named.only, Named.mem])) (operand hl x (by simp [Instr.named, Named.ds, Named.only, Named.mem]))⟩

theorem pvsel_raw (f32 : Bool) (d : Opnd) (a : Opnd) (b : Opnd) (l : W32) (next : List W32) (wd : Nat)
    (F : FieldsA wd 46 (bit1 f32) d.code a.code b.code)
    (e_d : opndOf d.code l = d)
    (e_a : opndOf a.code l = a)
    (e_b : opndOf b.code l = b) :
    decodeRaw wd l next = .ok ⟨.pvsel f32 d a b, true, true⟩ := by
  cases f32 <;> simp [decodeSys, decodeRaw, F.f26_6, F.f21_5, F.f23_3, F.f21_2, F.f21_3, F.f21_4, F.f23_2, F.f23_1, F.f24_2, F.f24_1, F.f25_1, F.f14_7, F.f7_7, F.f0_7, F.f2_5, F.f0_2, F.f0_14, e_d, e_a, e_b, ok, okZ, okR, bit1]

theorem pvsel (f32 : Bool) (d : Opnd) (a : Opnd) (b : Opnd) : Statement (.pvsel f32 d a b) := by
  refine of_raw rfl rfl ?_
  intro hf hi l next hl
  have F := encA_fields (M := 46) (fn := (bit1 f32)) (d := d.code) (a := a.code) (b := b.code) (by decide) (by cases f32 <;> decide) (Opnd.code_lt d) (Opnd.code_lt a) (Opnd.code_lt b)
  exact ⟨F.lt, pvsel_raw f32 d a b l next _ F (operand hl d (by simp [Instr.named, Named.ds, Named.only, Named.mem])) (operand hl a (by simp [Instr.named, Named.ds, Named.only, Named.mem])) (operand hl b (by simp [Instr.named, Named.ds, Named.only, Named.mem]))⟩

theorem pvreg_raw (f32 : Bool) (d : Opnd) (a : Opnd) (b : Opnd) (l : W32) (next : List W32) (wd : Nat)
    (F : FieldsA wd 46 (2 + bit1 f32) d.code a.code b.code)
    (e_d : opndOf d.code l = d)
    (e_a : opndOf a.code l = a)
    (e_b : opndOf b.code l = b) :
    decodeRaw wd l next = .ok ⟨.pvreg f32 d a b, true, true⟩ := by
  cases f32 <;> simp [decodeSys, decodeRaw, F.f26_6, F.f21_5, F.f23_3, F.f21_2, F.f21_3, F.f21_4, F.f23_2, F.f23_1, F.f24_2, F.f24_1, F.f25_1, F.f14_7, F.f7_7, F.f0_7, F.f2_5, F.f0_2, F.f0_14, e_d, e_a, e_b, ok, okZ, okR, bit1]

theorem pvreg (f32 : Bool) (d : Opnd) (a : Opnd) (b : Opnd) : Statement (.pvreg f32 d a b) := by
  refine of_raw rfl rfl ?_
  intro hf hi l next hl
  have F := encA_fields (M := 46) (fn := (2 + bit1 f32)) (d := d.code) (a := a.code) (b := b.code) (by decide) (by cases f32 <;> decide) (Opnd.code_lt d) (Opnd.code_lt a) (Opnd.code_lt b)
  exact ⟨F.lt, pvreg_raw f32 d a b l next _ F (operand hl d (by simp [Instr.named, Named.ds, Named.only, Named.mem])) (operand hl a (by simp [Instr.named, Named.ds, Named.only, Named.mem])) (operand hl b (by simp [Instr.named, Named.ds, Named.only, Named.mem]))⟩

theorem fxmac_raw (sh : Nat) (d : Opnd) (a : Opnd) (b : Opnd) (l : W32) (next : List W32) (wd : Nat)
    (F : FieldsA wd 47 sh d.code a.code b.code) (hf : (Instr.fxmac sh d a b).fits = true)
    (e_d : opndOf d.code l = d)
    (e_a : opndOf a.code l = a)
    (e_b : opndOf b.code l = b) :
    decodeRaw wd l next = .ok ⟨.fxmac sh d a b, true, true⟩ := by
  simp [Instr.fits] at hf
  have x0 : sh / 16 = 0 := by omega
  have x1 : sh % 16 = sh := by omega
  simp [decodeSys, decodeRaw, F.f26_6, F.f21_5, F.f23_3, F.f21_2, F.f21_3, F.f21_4, F.f23_2, F.f23_1, F.f24_2, F.f24_1, F.f25_1, F.f14_7, F.f7_7, F.f0_7, F.f2_5, F.f0_2, F.f0_14, e_d, e_a, e_b, x0, x1, ok, okZ, okR, bit1]

theorem fxmac (sh : Nat) (d : Opnd) (a : Opnd) (b : Opnd) : Statement (.fxmac sh d a b) := by
  refine of_raw rfl rfl ?_
  intro hf hi l next hl
  have hf0 := hf
  simp [Instr.fits] at hf0
  have F := encA_fields (M := 47) (fn := sh) (d := d.code) (a := a.code) (b := b.code) (by decide) (by omega) (Opnd.code_lt d) (Opnd.code_lt a) (Opnd.code_lt b)
  exact ⟨F.lt, fxmac_raw sh d a b l next _ F hf (operand hl d (by simp [Instr.named, Named.ds, Named.only, Named.mem])) (operand hl a (by simp [Instr.named, Named.ds, Named.only, Named.mem])) (operand hl b (by simp [Instr.named, Named.ds, Named.only, Named.mem]))⟩

theorem rngck_raw (p : Nat) (a : Opnd) (b : Opnd) (l : W32) (next : List W32) (wd : Nat)
    (F : FieldsA wd 47 16 p a.code b.code) (hf : (Instr.rngck p a b).fits = true)
    (e_a : opndOf a.code l = a)
    (e_b : opndOf b.code l = b) :
    decodeRaw wd l next = .ok ⟨.rngck p a b, true, true⟩ := by
  simp [Instr.fits] at hf
  simp [decodeSys, decodeRaw, F.f26_6, F.f21_5, F.f23_3, F.f21_2, F.f21_3, F.f21_4, F.f23_2, F.f23_1, F.f24_2, F.f24_1, F.f25_1, F.f14_7, F.f7_7, F.f0_7, F.f2_5, F.f0_2, F.f0_14, e_a, e_b, ok, okZ, okR, bit1]

theorem rngck (p : Nat) (a : Opnd) (b : Opnd) : Statement (.rngck p a b) := by
  refine of_raw rfl rfl ?_
  intro hf hi l next hl
  have hf0 := hf
  simp [Instr.fits] at hf0
  have F := encA_fields (M := 47) (fn := 16) (d := p) (a := a.code) (b := b.code) (by decide) (by decide) (by omega) (Opnd.code_lt a) (Opnd.code_lt b)
  exact ⟨F.lt, rngck_raw p a b l next _ F hf (operand hl a (by simp [Instr.named, Named.ds, Named.only, Named.mem])) (operand hl b (by simp [Instr.named, Named.ds, Named.only, Named.mem]))⟩

theorem glaunch_raw (x : Opnd) (n : Nat) (l : W32) (next : List W32) (wd : Nat)
    (F : FieldsS wd 48 0 x.code 126 n) (hf : (Instr.glaunch x n).fits = true)
    (e_x : opndOf x.code l = x) :
    decodeRaw wd l next = .ok ⟨.glaunch x n, true, true⟩ := by
  simp [Instr.fits] at hf
  simp [decodeSys, decodeRaw, F.f26_6, F.f20_6, F.f24_2, F.f20_4, F.f24_1, F.f25_1, F.f13_7, F.f6_7, F.f0_6, F.f0_13, F.f6_14, F.f0_20, e_x, ok, okZ, okR, bit1]

theorem glaunch (x : Opnd) (n : Nat) : Statement (.glaunch x n) := by
  refine of_raw rfl rfl ?_
  intro hf hi l next hl
  have hf0 := hf
  simp [Instr.fits] at hf0
  have F := encS_fields (M := 48) (fn := 0) (a := x.code) (b := 126) (k := n) (by decide) (by decide) (Opnd.code_lt x) (by decide) (by omega)
  exact ⟨F.lt, glaunch_raw x n l next _ F hf (operand hl x (by simp [Instr.named, Named.ds, Named.only, Named.mem]))⟩

theorem glaunchNb_raw (x : Opnd) (n : Nat) (l : W32) (next : List W32) (wd : Nat)
    (F : FieldsS wd 48 1 x.code 126 n) (hf : (Instr.glaunchNb x n).fits = true)
    (e_x : opndOf x.code l = x) :
    decodeRaw wd l next = .ok ⟨.glaunchNb x n, true, true⟩ := by
  simp [Instr.fits] at hf
  simp [decodeSys, decodeRaw, F.f26_6, F.f20_6, F.f24_2, F.f20_4, F.f24_1, F.f25_1, F.f13_7, F.f6_7, F.f0_6, F.f0_13, F.f6_14, F.f0_20, e_x, ok, okZ, okR, bit1]

theorem glaunchNb (x : Opnd) (n : Nat) : Statement (.glaunchNb x n) := by
  refine of_raw rfl rfl ?_
  intro hf hi l next hl
  have hf0 := hf
  simp [Instr.fits] at hf0
  have F := encS_fields (M := 48) (fn := 1) (a := x.code) (b := 126) (k := n) (by decide) (by decide) (Opnd.code_lt x) (by decide) (by omega)
  exact ⟨F.lt, glaunchNb_raw x n l next _ F hf (operand hl x (by simp [Instr.named, Named.ds, Named.only, Named.mem]))⟩

theorem tlaunch_raw (x : Opnd) (n : Nat) (l : W32) (next : List W32) (wd : Nat)
    (F : FieldsS wd 48 2 x.code 126 n) (hf : (Instr.tlaunch x n).fits = true)
    (e_x : opndOf x.code l = x) :
    decodeRaw wd l next = .ok ⟨.tlaunch x n, true, true⟩ := by
  simp [Instr.fits] at hf
  simp [decodeSys, decodeRaw, F.f26_6, F.f20_6, F.f24_2, F.f20_4, F.f24_1, F.f25_1, F.f13_7, F.f6_7, F.f0_6, F.f0_13, F.f6_14, F.f0_20, e_x, ok, okZ, okR, bit1]

theorem tlaunch (x : Opnd) (n : Nat) : Statement (.tlaunch x n) := by
  refine of_raw rfl rfl ?_
  intro hf hi l next hl
  have hf0 := hf
  simp [Instr.fits] at hf0
  have F := encS_fields (M := 48) (fn := 2) (a := x.code) (b := 126) (k := n) (by decide) (by decide) (Opnd.code_lt x) (by decide) (by omega)
  exact ⟨F.lt, tlaunch_raw x n l next _ F hf (operand hl x (by simp [Instr.named, Named.ds, Named.only, Named.mem]))⟩

theorem rerun_raw (x : Opnd) (n : Nat) (l : W32) (next : List W32) (wd : Nat)
    (F : FieldsS wd 48 3 x.code 126 n) (hf : (Instr.rerun x n).fits = true)
    (e_x : opndOf x.code l = x) :
    decodeRaw wd l next = .ok ⟨.rerun x n, true, true⟩ := by
  simp [Instr.fits] at hf
  simp [decodeSys, decodeRaw, F.f26_6, F.f20_6, F.f24_2, F.f20_4, F.f24_1, F.f25_1, F.f13_7, F.f6_7, F.f0_6, F.f0_13, F.f6_14, F.f0_20, e_x, ok, okZ, okR, bit1]

theorem rerun (x : Opnd) (n : Nat) : Statement (.rerun x n) := by
  refine of_raw rfl rfl ?_
  intro hf hi l next hl
  have hf0 := hf
  simp [Instr.fits] at hf0
  have F := encS_fields (M := 48) (fn := 3) (a := x.code) (b := 126) (k := n) (by decide) (by decide) (Opnd.code_lt x) (by decide) (by omega)
  exact ⟨F.lt, rerun_raw x n l next _ F hf (operand hl x (by simp [Instr.named, Named.ds, Named.only, Named.mem]))⟩

theorem dtst_raw (d : Opnd) (x : Opnd) (n : Nat) (l : W32) (next : List W32) (wd : Nat)
    (F : FieldsS wd 48 5 x.code d.code n) (hf : (Instr.dtst d x n).fits = true)
    (e_d : opndOf d.code l = d)
    (e_x : opndOf x.code l = x) :
    decodeRaw wd l next = .ok ⟨.dtst d x n, true, true⟩ := by
  simp [Instr.fits] at hf
  simp [decodeSys, decodeRaw, F.f26_6, F.f20_6, F.f24_2, F.f20_4, F.f24_1, F.f25_1, F.f13_7, F.f6_7, F.f0_6, F.f0_13, F.f6_14, F.f0_20, e_d, e_x, ok, okZ, okR, bit1]

theorem dtst (d : Opnd) (x : Opnd) (n : Nat) : Statement (.dtst d x n) := by
  refine of_raw rfl rfl ?_
  intro hf hi l next hl
  have hf0 := hf
  simp [Instr.fits] at hf0
  have F := encS_fields (M := 48) (fn := 5) (a := x.code) (b := d.code) (k := n) (by decide) (by decide) (Opnd.code_lt x) (Opnd.code_lt d) (by omega)
  exact ⟨F.lt, dtst_raw d x n l next _ F hf (operand hl d (by simp [Instr.named, Named.ds, Named.only, Named.mem])) (operand hl x (by simp [Instr.named, Named.ds, Named.only, Named.mem]))⟩

theorem trec_raw (x : Opnd) (n : Nat) (l : W32) (next : List W32) (wd : Nat)
    (F : FieldsS wd 48 6 x.code 126 n) (hf : (Instr.trec x n).fits = true)
    (e_x : opndOf x.code l = x) :
    decodeRaw wd l next = .ok ⟨.trec x n, true, true⟩ := by
  simp [Instr.fits] at hf
  have hx : x.code = 126 → x.isZr = true := by cases x <;> simp [Opnd.code, Opnd.isZr] <;> omega
  simp [decodeSys, decodeRaw, F.f26_6, F.f20_6, F.f24_2, F.f20_4, F.f24_1, F.f25_1, F.f13_7, F.f6_7, F.f0_6, F.f0_13, F.f6_14, F.f0_20, e_x, ok, okZ, okR, bit1]
  intro h1 h2
  simp_all

theorem trec (x : Opnd) (n : Nat) : Statement (.trec x n) := by
  refine of_raw rfl rfl ?_
  intro hf hi l next hl
  have hf0 := hf
  simp [Instr.fits] at hf0
  have F := encS_fields (M := 48) (fn := 6) (a := x.code) (b := 126) (k := n) (by decide) (by decide) (Opnd.code_lt x) (by decide) (by omega)
  exact ⟨F.lt, trec_raw x n l next _ F hf (operand hl x (by simp [Instr.named, Named.ds, Named.only, Named.mem]))⟩

theorem vgrow_raw (n : Opnd) (l : W32) (next : List W32) (wd : Nat)
    (F : FieldsS wd 49 0 n.code 0 0)
    (e_n : opndOf n.code l = n) :
    decodeRaw wd l next = .ok ⟨.vgrow n, true, true⟩ := by
  simp [decodeSys, decodeRaw, F.f26_6, F.f20_6, F.f24_2, F.f20_4, F.f24_1, F.f25_1, F.f13_7, F.f6_7, F.f0_6, F.f0_13, F.f6_14, F.f0_20, e_n, ok, okZ, okR, bit1]

theorem vgrow (n : Opnd) : Statement (.vgrow n) := by
  refine of_raw rfl rfl ?_
  intro hf hi l next hl
  have F := encS_fields (M := 49) (fn := 0) (a := n.code) (b := 0) (k := 0) (by decide) (by decide) (Opnd.code_lt n) (by decide) (by decide)
  exact ⟨F.lt, vgrow_raw n l next _ F (operand hl n (by simp [Instr.named, Named.ds, Named.only, Named.mem]))⟩

theorem vshr_raw (n : Opnd) (l : W32) (next : List W32) (wd : Nat)
    (F : FieldsS wd 49 1 n.code 0 0)
    (e_n : opndOf n.code l = n) :
    decodeRaw wd l next = .ok ⟨.vshr n, true, true⟩ := by
  simp [decodeSys, decodeRaw, F.f26_6, F.f20_6, F.f24_2, F.f20_4, F.f24_1, F.f25_1, F.f13_7, F.f6_7, F.f0_6, F.f0_13, F.f6_14, F.f0_20, e_n, ok, okZ, okR, bit1]

theorem vshr (n : Opnd) : Statement (.vshr n) := by
  refine of_raw rfl rfl ?_
  intro hf hi l next hl
  have F := encS_fields (M := 49) (fn := 1) (a := n.code) (b := 0) (k := 0) (by decide) (by decide) (Opnd.code_lt n) (by decide) (by decide)
  exact ⟨F.lt, vshr_raw n l next _ F (operand hl n (by simp [Instr.named, Named.ds, Named.only, Named.mem]))⟩

theorem srd_raw (d : Opnd) (i1 : Nat) (l : W32) (next : List W32) (wd : Nat)
    (F : FieldsS wd 50 0 i1 d.code 0) (hf : (Instr.srd d i1).fits = true)
    (e_d : opndOf d.code l = d) :
    decodeRaw wd l next = .ok ⟨.srd d i1, true, true⟩ := by
  simp [Instr.fits] at hf
  simp [decodeSys, decodeRaw, F.f26_6, F.f20_6, F.f24_2, F.f20_4, F.f24_1, F.f25_1, F.f13_7, F.f6_7, F.f0_6, F.f0_13, F.f6_14, F.f0_20, e_d, ok, okZ, okR, bit1]

theorem srd (d : Opnd) (i1 : Nat) : Statement (.srd d i1) := by
  refine of_raw rfl rfl ?_
  intro hf hi l next hl
  have hf0 := hf
  simp [Instr.fits] at hf0
  have F := encS_fields (M := 50) (fn := 0) (a := i1) (b := d.code) (k := 0) (by decide) (by decide) (by omega) (Opnd.code_lt d) (by decide)
  exact ⟨F.lt, srd_raw d i1 l next _ F hf (operand hl d (by simp [Instr.named, Named.ds, Named.only, Named.mem]))⟩

theorem swr_raw (i1 : Nat) (a : Opnd) (l : W32) (next : List W32) (wd : Nat)
    (F : FieldsS wd 50 1 a.code i1 0) (hf : (Instr.swr i1 a).fits = true)
    (e_a : opndOf a.code l = a) :
    decodeRaw wd l next = .ok ⟨.swr i1 a, true, true⟩ := by
  simp [Instr.fits] at hf
  simp [decodeSys, decodeRaw, F.f26_6, F.f20_6, F.f24_2, F.f20_4, F.f24_1, F.f25_1, F.f13_7, F.f6_7, F.f0_6, F.f0_13, F.f6_14, F.f0_20, e_a, ok, okZ, okR, bit1]

theorem swr (i1 : Nat) (a : Opnd) : Statement (.swr i1 a) := by
  refine of_raw rfl rfl ?_
  intro hf hi l next hl
  have hf0 := hf
  simp [Instr.fits] at hf0
  have F := encS_fields (M := 50) (fn := 1) (a := a.code) (b := i1) (k := 0) (by decide) (by decide) (Opnd.code_lt a) (by omega) (by decide)
  exact ⟨F.lt, swr_raw i1 a l next _ F hf (operand hl a (by simp [Instr.named, Named.ds, Named.only, Named.mem]))⟩

theorem logm_raw (a : Opnd) (k : Nat) (l : W32) (next : List W32) (wd : Nat)
    (F : FieldsS wd 50 2 a.code 126 k) (hf : (Instr.logm a k).fits = true)
    (e_a : opndOf a.code l = a) :
    decodeRaw wd l next = .ok ⟨.logm a k, true, true⟩ := by
  simp [Instr.fits] at hf
  simp [decodeSys, decodeRaw, F.f26_6, F.f20_6, F.f24_2, F.f20_4, F.f24_1, F.f25_1, F.f13_7, F.f6_7, F.f0_6, F.f0_13, F.f6_14, F.f0_20, e_a, ok, okZ, okR, bit1]

theorem logm (a : Opnd) (k : Nat) : Statement (.logm a k) := by
  refine of_raw rfl rfl ?_
  intro hf hi l next hl
  have hf0 := hf
  simp [Instr.fits] at hf0
  have F := encS_fields (M := 50) (fn := 2) (a := a.code) (b := 126) (k := k) (by decide) (by decide) (Opnd.code_lt a) (by decide) (by omega)
  exact ⟨F.lt, logm_raw a k l next _ F hf (operand hl a (by simp [Instr.named, Named.ds, Named.only, Named.mem]))⟩

theorem psavePane_raw (x : Opnd) (n : Nat) (l : W32) (next : List W32) (wd : Nat)
    (F : FieldsS wd 50 3 x.code 0 n) (hf : (Instr.psavePane x n).fits = true)
    (e_x : opndOf x.code l = x) :
    decodeRaw wd l next = .ok ⟨.psavePane x n, true, true⟩ := by
  simp [Instr.fits] at hf
  simp [decodeSys, decodeRaw, F.f26_6, F.f20_6, F.f24_2, F.f20_4, F.f24_1, F.f25_1, F.f13_7, F.f6_7, F.f0_6, F.f0_13, F.f6_14, F.f0_20, e_x, ok, okZ, okR, bit1]

theorem psavePane (x : Opnd) (n : Nat) : Statement (.psavePane x n) := by
  refine of_raw rfl rfl ?_
  intro hf hi l next hl
  have hf0 := hf
  simp [Instr.fits] at hf0
  have F := encS_fields (M := 50) (fn := 3) (a := x.code) (b := 0) (k := n) (by decide) (by decide) (Opnd.code_lt x) (by decide) (by omega)
  exact ⟨F.lt, psavePane_raw x n l next _ F hf (operand hl x (by simp [Instr.named, Named.ds, Named.only, Named.mem]))⟩

theorem psaveMx_raw (x : Opnd) (n : Nat) (l : W32) (next : List W32) (wd : Nat)
    (F : FieldsS wd 50 3 x.code 1 n) (hf : (Instr.psaveMx x n).fits = true)
    (e_x : opndOf x.code l = x) :
    decodeRaw wd l next = .ok ⟨.psaveMx x n, true, true⟩ := by
  simp [Instr.fits] at hf
  simp [decodeSys, decodeRaw, F.f26_6, F.f20_6, F.f24_2, F.f20_4, F.f24_1, F.f25_1, F.f13_7, F.f6_7, F.f0_6, F.f0_13, F.f6_14, F.f0_20, e_x, ok, okZ, okR, bit1]

theorem psaveMx (x : Opnd) (n : Nat) : Statement (.psaveMx x n) := by
  refine of_raw rfl rfl ?_
  intro hf hi l next hl
  have hf0 := hf
  simp [Instr.fits] at hf0
  have F := encS_fields (M := 50) (fn := 3) (a := x.code) (b := 1) (k := n) (by decide) (by decide) (Opnd.code_lt x) (by decide) (by omega)
  exact ⟨F.lt, psaveMx_raw x n l next _ F hf (operand hl x (by simp [Instr.named, Named.ds, Named.only, Named.mem]))⟩

theorem psaveLx_raw (x : Opnd) (n : Nat) (l : W32) (next : List W32) (wd : Nat)
    (F : FieldsS wd 50 3 x.code 2 n) (hf : (Instr.psaveLx x n).fits = true)
    (e_x : opndOf x.code l = x) :
    decodeRaw wd l next = .ok ⟨.psaveLx x n, true, true⟩ := by
  simp [Instr.fits] at hf
  simp [decodeSys, decodeRaw, F.f26_6, F.f20_6, F.f24_2, F.f20_4, F.f24_1, F.f25_1, F.f13_7, F.f6_7, F.f0_6, F.f0_13, F.f6_14, F.f0_20, e_x, ok, okZ, okR, bit1]

theorem psaveLx (x : Opnd) (n : Nat) : Statement (.psaveLx x n) := by
  refine of_raw rfl rfl ?_
  intro hf hi l next hl
  have hf0 := hf
  simp [Instr.fits] at hf0
  have F := encS_fields (M := 50) (fn := 3) (a := x.code) (b := 2) (k := n) (by decide) (by decide) (Opnd.code_lt x) (by decide) (by omega)
  exact ⟨F.lt, psaveLx_raw x n l next _ F hf (operand hl x (by simp [Instr.named, Named.ds, Named.only, Named.mem]))⟩

theorem prestPane_raw (x : Opnd) (n : Nat) (l : W32) (next : List W32) (wd : Nat)
    (F : FieldsS wd 50 4 x.code 0 n) (hf : (Instr.prestPane x n).fits = true)
    (e_x : opndOf x.code l = x) :
    decodeRaw wd l next = .ok ⟨.prestPane x n, true, true⟩ := by
  simp [Instr.fits] at hf
  simp [decodeSys, decodeRaw, F.f26_6, F.f20_6, F.f24_2, F.f20_4, F.f24_1, F.f25_1, F.f13_7, F.f6_7, F.f0_6, F.f0_13, F.f6_14, F.f0_20, e_x, ok, okZ, okR, bit1]

theorem prestPane (x : Opnd) (n : Nat) : Statement (.prestPane x n) := by
  refine of_raw rfl rfl ?_
  intro hf hi l next hl
  have hf0 := hf
  simp [Instr.fits] at hf0
  have F := encS_fields (M := 50) (fn := 4) (a := x.code) (b := 0) (k := n) (by decide) (by decide) (Opnd.code_lt x) (by decide) (by omega)
  exact ⟨F.lt, prestPane_raw x n l next _ F hf (operand hl x (by simp [Instr.named, Named.ds, Named.only, Named.mem]))⟩

theorem prestMx_raw (x : Opnd) (n : Nat) (l : W32) (next : List W32) (wd : Nat)
    (F : FieldsS wd 50 4 x.code 1 n) (hf : (Instr.prestMx x n).fits = true)
    (e_x : opndOf x.code l = x) :
    decodeRaw wd l next = .ok ⟨.prestMx x n, true, true⟩ := by
  simp [Instr.fits] at hf
  simp [decodeSys, decodeRaw, F.f26_6, F.f20_6, F.f24_2, F.f20_4, F.f24_1, F.f25_1, F.f13_7, F.f6_7, F.f0_6, F.f0_13, F.f6_14, F.f0_20, e_x, ok, okZ, okR, bit1]

theorem prestMx (x : Opnd) (n : Nat) : Statement (.prestMx x n) := by
  refine of_raw rfl rfl ?_
  intro hf hi l next hl
  have hf0 := hf
  simp [Instr.fits] at hf0
  have F := encS_fields (M := 50) (fn := 4) (a := x.code) (b := 1) (k := n) (by decide) (by decide) (Opnd.code_lt x) (by decide) (by omega)
  exact ⟨F.lt, prestMx_raw x n l next _ F hf (operand hl x (by simp [Instr.named, Named.ds, Named.only, Named.mem]))⟩

theorem prestLx_raw (x : Opnd) (n : Nat) (l : W32) (next : List W32) (wd : Nat)
    (F : FieldsS wd 50 4 x.code 2 n) (hf : (Instr.prestLx x n).fits = true)
    (e_x : opndOf x.code l = x) :
    decodeRaw wd l next = .ok ⟨.prestLx x n, true, true⟩ := by
  simp [Instr.fits] at hf
  simp [decodeSys, decodeRaw, F.f26_6, F.f20_6, F.f24_2, F.f20_4, F.f24_1, F.f25_1, F.f13_7, F.f6_7, F.f0_6, F.f0_13, F.f6_14, F.f0_20, e_x, ok, okZ, okR, bit1]

theorem prestLx (x : Opnd) (n : Nat) : Statement (.prestLx x n) := by
  refine of_raw rfl rfl ?_
  intro hf hi l next hl
  have hf0 := hf
  simp [Instr.fits] at hf0
  have F := encS_fields (M := 50) (fn := 4) (a := x.code) (b := 2) (k := n) (by decide) (by decide) (Opnd.code_lt x) (by decide) (by omega)
  exact ⟨F.lt, prestLx_raw x n l next _ F hf (operand hl x (by simp [Instr.named, Named.ds, Named.only, Named.mem]))⟩

theorem ptrootWrite (v : Word) : Statement (.ptrootWrite v) := of_event rfl

theorem translationInvalidated (uid : Nat) : Statement (.translationInvalidated uid) := of_event rfl

theorem wpartWrite (g : Nat) (v : Word) : Statement (.wpartWrite g v) := of_event rfl

theorem wpartConversionDone (g : Nat) : Statement (.wpartConversionDone g) := of_event rfl

theorem dmapEnable (v : Word) : Statement (.dmapEnable v) := of_event rfl

theorem dmapMapsClear (ctx : Nat) : Statement (.dmapMapsClear ctx) := of_event rfl

theorem dmapDisable (v : Word) : Statement (.dmapDisable v) := of_event rfl

theorem dirtyMapCleared (ctx : Nat) : Statement (.dirtyMapCleared ctx) := of_event rfl

theorem sfqResult (id : Nat) : Statement (.sfqResult id) := of_event rfl

theorem loadReply (id : Nat) : Statement (.loadReply id) := of_event rfl

theorem storeRegistrationAck (id : Nat) : Statement (.storeRegistrationAck id) := of_event rfl

theorem registryRecall (pa : Nat) : Statement (.registryRecall pa) := of_event rfl

theorem sequenceCounterIncrement (id : Nat) : Statement (.sequenceCounterIncrement id) := of_event rfl

theorem engineOpComplete (core : Nat) : Statement (.engineOpComplete core) := of_event rfl

theorem batonGrant (core : Nat) : Statement (.batonGrant core) := of_event rfl

theorem copyBatchComplete (id : Nat) : Statement (.copyBatchComplete id) := of_event rfl

theorem haloCommandComplete (id : Nat) : Statement (.haloCommandComplete id) := of_event rfl

theorem collectiveCommandComplete (id : Nat) : Statement (.collectiveCommandComplete id) := of_event rfl

theorem stackJobComplete (id : Nat) : Statement (.stackJobComplete id) := of_event rfl

theorem remoteReply (id : Nat) (k : Nat) (status : Nat) (data : Nat) (stamp : Nat) : Statement (.remoteReply id k status data stamp) := of_event rfl

theorem remoteTimeout (id : Nat) : Statement (.remoteTimeout id) := of_event rfl

theorem inboundRemoteRequest (r : Inbound) : Statement (.inboundRemoteRequest r) := of_event rfl

theorem faultMergeWindow (die : Nat) : Statement (.faultMergeWindow die) := of_event rfl

theorem pageFaultReply (ctx : Nat) : Statement (.pageFaultReply ctx) := of_event rfl

theorem barrierWatchdog (cas : Nat) : Statement (.barrierWatchdog cas) := of_event rfl

theorem progressWatchdog (cas : Nat) : Statement (.progressWatchdog cas) := of_event rfl

theorem sliceExpiry (core : Nat) (ctx : Nat) : Statement (.sliceExpiry core ctx) := of_event rfl

theorem vgrowDeadlock (core : Nat) : Statement (.vgrowDeadlock core) := of_event rfl

theorem vgrowGrant (core : Nat) : Statement (.vgrowGrant core) := of_event rfl

theorem resumption (cas : Nat) : Statement (.resumption cas) := of_event rfl

theorem swapOut (pane : Nat) : Statement (.swapOut pane) := of_event rfl

theorem swapIn (pane : Nat) : Statement (.swapIn pane) := of_event rfl

theorem pendingMove (cas : Nat) : Statement (.pendingMove cas) := of_event rfl

theorem launchCheck (ctx : Nat) : Statement (.launchCheck ctx) := of_event rfl

theorem taskCheck (ctx : Nat) : Statement (.taskCheck ctx) := of_event rfl

theorem taskReady (ctx : Nat) (task : Nat) : Statement (.taskReady ctx task) := of_event rfl

theorem admission (core : Nat) : Statement (.admission core) := of_event rfl

theorem casementRetire (cas : Nat) : Statement (.casementRetire cas) := of_event rfl

theorem launchComplete (lid : Nat) : Statement (.launchComplete lid) := of_event rfl

theorem taskComplete (lid : Nat) : Statement (.taskComplete lid) := of_event rfl

theorem correctedError (u : HwUnit) : Statement (.correctedError u) := of_event rfl

theorem selfTestResult (u : HwUnit) (pass : Bool) : Statement (.selfTestResult u pass) := of_event rfl

theorem uncorrectableError (code : Nat) (site : Site) (ctx : Nat) : Statement (.uncorrectableError code site ctx) := of_event rfl

theorem hostLaunch (ctx : Nat) (port : Nat) (off : Nat) (data : List Byte) : Statement (.hostLaunch ctx port off data) := of_event rfl

theorem hostRdmaWrite (port : Nat) (key : Nat) (addr : Nat) (data : List Byte) : Statement (.hostRdmaWrite port key addr data) := of_event rfl

theorem hostRdmaRead (port : Nat) (key : Nat) (addr : Nat) (len : Nat) : Statement (.hostRdmaRead port key addr len) := of_event rfl

theorem hostRdmaAtomic (port : Nat) (key : Nat) (addr : Nat) (cas : Bool) (v : Word) (cmp : Word) : Statement (.hostRdmaAtomic port key addr cas v cmp) := of_event rfl

theorem installRegion (src : ReqSrc) (w0 : Word) (w1 : Word) (w2 : Word) (w3 : Word) : Statement (.installRegion src w0 w1 w2 w3) := of_event rfl

theorem removeRegion (src : ReqSrc) (w0 : Word) (w1 : Word) (w2 : Word) (w3 : Word) : Statement (.removeRegion src w0 w1 w2 w3) := of_event rfl

theorem bindPort (src : ReqSrc) (w0 : Word) (w1 : Word) (w2 : Word) (w3 : Word) : Statement (.bindPort src w0 w1 w2 w3) := of_event rfl

theorem unbindPort (src : ReqSrc) (w0 : Word) (w1 : Word) (w2 : Word) (w3 : Word) : Statement (.unbindPort src w0 w1 w2 w3) := of_event rfl

theorem attest (src : ReqSrc) (n0 : Word) (n1 : Word) (n2 : Word) (n3 : Word) : Statement (.attest src n0 n1 n2 n3) := of_event rfl

theorem identityCertificates (src : ReqSrc) : Statement (.identityCertificates src) := of_event rfl

theorem powerReport (src : ReqSrc) : Statement (.powerReport src) := of_event rfl

theorem setPowerLimit (src : ReqSrc) (watts : Word) : Statement (.setPowerLimit src watts) := of_event rfl

theorem stageFirmware (src : ReqSrc) (image : List Byte) : Statement (.stageFirmware src image) := of_event rfl

theorem reset (q : ResetReq) : Statement (.reset q) := of_event rfl

theorem defineContext (src : ReqSrc) (ctx : Nat) (root : Word) (phv : Word) (psv : Word) (fring : Word) : Statement (.defineContext src ctx root phv psv fring) := of_event rfl

theorem undefineContext (src : ReqSrc) (ctx : Nat) : Statement (.undefineContext src ctx) := of_event rfl

theorem setConfiguration (src : ReqSrc) (a b : Word × Word) : Statement (.setConfiguration src a b) := of_event rfl

theorem powerOnReset (bad : List Nat) (expanders : List (Nat × Nat)) : Statement (.powerOnReset bad expanders) := of_event rfl

theorem blockPowerReport (watts : List Nat) (loss : Nat) : Statement (.blockPowerReport watts loss) := of_event rfl

theorem keyExchange (node : Nat) (ok : Bool) : Statement (.keyExchange node ok) := of_event rfl

theorem keyExchangeTimeout (node : Nat) : Statement (.keyExchangeTimeout node) := of_event rfl

theorem keyRotation (node : Nat) : Statement (.keyRotation node) := of_event rfl

theorem stationDown (k : Nat) : Statement (.stationDown k) := of_event rfl

theorem stationUp (l : LinkUp) : Statement (.stationUp l) := of_event rfl

theorem expanderRemoved (e : Nat) : Statement (.expanderRemoved e) := of_event rfl

theorem reservedEncoding (w : W32) (reason : Nat) : Statement (.reservedEncoding w reason) := of_event rfl

theorem writeAcknowledged (id : Nat) : Statement (.writeAcknowledged id) := of_event rfl

theorem collectivePartialState (p : Partial) : Statement (.collectivePartialState p) := of_event rfl

theorem expanderAttached (e : Nat) (mib : Nat) : Statement (.expanderAttached e mib) := of_event rfl

theorem malformedPlatformRequest (src : ReqSrc) (op : Nat) : Statement (.malformedPlatformRequest src op) := of_event rfl

theorem malformedManagementRequest (src : ReqSrc) (op : Nat) : Statement (.malformedManagementRequest src op) := of_event rfl

theorem join_raw (l : W32) (next : List W32) (wd : Nat)
    (F : FieldsS wd 24 0 0 0 0) :
    decodeRaw wd l next = .ok ⟨.join, true, true⟩ := by
  simp [decodeCtl, decodeRaw, F.f26_6, F.f20_6, F.f24_2, F.f20_4, F.f24_1, F.f25_1, F.f13_7, F.f6_7, F.f0_6, F.f0_13, F.f6_14, F.f0_20, ok, okZ, okR, bit1]

theorem join : Statement (.join) := by
  refine of_raw rfl rfl ?_
  intro hf hi l next hl
  have F := encS_fields (M := 24) (fn := 0) (a := 0) (b := 0) (k := 0) (by decide) (by decide) (by decide) (by decide) (by decide)
  exact ⟨F.lt, join_raw l next _ F⟩

theorem ret_raw (l : W32) (next : List W32) (wd : Nat)
    (F : FieldsS wd 24 1 0 0 0) :
    decodeRaw wd l next = .ok ⟨.ret, true, true⟩ := by
  simp [decodeCtl, decodeRaw, F.f26_6, F.f20_6, F.f24_2, F.f20_4, F.f24_1, F.f25_1, F.f13_7, F.f6_7, F.f0_6, F.f0_13, F.f6_14, F.f0_20, ok, okZ, okR, bit1]

theorem ret : Statement (.ret) := by
  refine of_raw rfl rfl ?_
  intro hf hi l next hl
  have F := encS_fields (M := 24) (fn := 1) (a := 0) (b := 0) (k := 0) (by decide) (by decide) (by decide) (by decide) (by decide)
  exact ⟨F.lt, ret_raw l next _ F⟩

theorem exit_raw (l : W32) (next : List W32) (wd : Nat)
    (F : FieldsS wd 24 4 0 0 0) :
    decodeRaw wd l next = .ok ⟨.exit, true, true⟩ := by
  simp [decodeCtl, decodeRaw, F.f26_6, F.f20_6, F.f24_2, F.f20_4, F.f24_1, F.f25_1, F.f13_7, F.f6_7, F.f0_6, F.f0_13, F.f6_14, F.f0_20, ok, okZ, okR, bit1]

theorem exit : Statement (.exit) := by
  refine of_raw rfl rfl ?_
  intro hf hi l next hl
  have F := encS_fields (M := 24) (fn := 4) (a := 0) (b := 0) (k := 0) (by decide) (by decide) (by decide) (by decide) (by decide)
  exact ⟨F.lt, exit_raw l next _ F⟩

theorem nop_raw (l : W32) (next : List W32) (wd : Nat)
    (F : FieldsS wd 24 5 0 0 0) :
    decodeRaw wd l next = .ok ⟨.nop, true, true⟩ := by
  simp [decodeCtl, decodeRaw, F.f26_6, F.f20_6, F.f24_2, F.f20_4, F.f24_1, F.f25_1, F.f13_7, F.f6_7, F.f0_6, F.f0_13, F.f6_14, F.f0_20, ok, okZ, okR, bit1]

theorem nop : Statement (.nop) := by
  refine of_raw rfl rfl ?_
  intro hf hi l next hl
  have F := encS_fields (M := 24) (fn := 5) (a := 0) (b := 0) (k := 0) (by decide) (by decide) (by decide) (by decide) (by decide)
  exact ⟨F.lt, nop_raw l next _ F⟩

theorem eret_raw (l : W32) (next : List W32) (wd : Nat)
    (F : FieldsS wd 24 8 0 0 0) :
    decodeRaw wd l next = .ok ⟨.eret, true, true⟩ := by
  simp [decodeCtl, decodeRaw, F.f26_6, F.f20_6, F.f24_2, F.f20_4, F.f24_1, F.f25_1, F.f13_7, F.f6_7, F.f0_6, F.f0_13, F.f6_14, F.f0_20, ok, okZ, okR, bit1]

theorem eret : Statement (.eret) := by
  refine of_raw rfl rfl ?_
  intro hf hi l next hl
  have F := encS_fields (M := 24) (fn := 8) (a := 0) (b := 0) (k := 0) (by decide) (by decide) (by decide) (by decide) (by decide)
  exact ⟨F.lt, eret_raw l next _ F⟩

theorem brk_raw (l : W32) (next : List W32) (wd : Nat)
    (F : FieldsS wd 24 9 0 0 0) :
    decodeRaw wd l next = .ok ⟨.brk, true, true⟩ := by
  simp [decodeCtl, decodeRaw, F.f26_6, F.f20_6, F.f24_2, F.f20_4, F.f24_1, F.f25_1, F.f13_7, F.f6_7, F.f0_6, F.f0_13, F.f6_14, F.f0_20, ok, okZ, okR, bit1]

theorem brk : Statement (.brk) := by
  refine of_raw rfl rfl ?_
  intro hf hi l next hl
  have F := encS_fields (M := 24) (fn := 9) (a := 0) (b := 0) (k := 0) (by decide) (by decide) (by decide) (by decide) (by decide)
  exact ⟨F.lt, brk_raw l next _ F⟩

theorem acq_raw (l : W32) (next : List W32) (wd : Nat)
    (F : FieldsS wd 32 0 0 0 0) :
    decodeRaw wd l next = .ok ⟨.acq, true, true⟩ := by
  simp [decodeMem, decodeRaw, F.f26_6, F.f20_6, F.f24_2, F.f20_4, F.f24_1, F.f25_1, F.f13_7, F.f6_7, F.f0_6, F.f0_13, F.f6_14, F.f0_20, ok, okZ, okR, bit1]

theorem acq : Statement (.acq) := by
  refine of_raw rfl rfl ?_
  intro hf hi l next hl
  have F := encS_fields (M := 32) (fn := 0) (a := 0) (b := 0) (k := 0) (by decide) (by decide) (by decide) (by decide) (by decide)
  exact ⟨F.lt, acq_raw l next _ F⟩

theorem rel_raw (l : W32) (next : List W32) (wd : Nat)
    (F : FieldsS wd 32 1 0 0 0) :
    decodeRaw wd l next = .ok ⟨.rel, true, true⟩ := by
  simp [decodeMem, decodeRaw, F.f26_6, F.f20_6, F.f24_2, F.f20_4, F.f24_1, F.f25_1, F.f13_7, F.f6_7, F.f0_6, F.f0_13, F.f6_14, F.f0_20, ok, okZ, okR, bit1]

theorem rel : Statement (.rel) := by
  refine of_raw rfl rfl ?_
  intro hf hi l next hl
  have F := encS_fields (M := 32) (fn := 1) (a := 0) (b := 0) (k := 0) (by decide) (by decide) (by decide) (by decide) (by decide)
  exact ⟨F.lt, rel_raw l next _ F⟩

theorem fence_raw (l : W32) (next : List W32) (wd : Nat)
    (F : FieldsS wd 32 2 0 0 0) :
    decodeRaw wd l next = .ok ⟨.fence, true, true⟩ := by
  simp [decodeMem, decodeRaw, F.f26_6, F.f20_6, F.f24_2, F.f20_4, F.f24_1, F.f25_1, F.f13_7, F.f6_7, F.f0_6, F.f0_13, F.f6_14, F.f0_20, ok, okZ, okR, bit1]

theorem fence : Statement (.fence) := by
  refine of_raw rfl rfl ?_
  intro hf hi l next hl
  have F := encS_fields (M := 32) (fn := 2) (a := 0) (b := 0) (k := 0) (by decide) (by decide) (by decide) (by decide) (by decide)
  exact ⟨F.lt, fence_raw l next _ F⟩

theorem bar_raw (l : W32) (next : List W32) (wd : Nat)
    (F : FieldsS wd 32 3 0 0 0) :
    decodeRaw wd l next = .ok ⟨.bar, true, true⟩ := by
  simp [decodeMem, decodeRaw, F.f26_6, F.f20_6, F.f24_2, F.f20_4, F.f24_1, F.f25_1, F.f13_7, F.f6_7, F.f0_6, F.f0_13, F.f6_14, F.f0_20, ok, okZ, okR, bit1]

theorem bar : Statement (.bar) := by
  refine of_raw rfl rfl ?_
  intro hf hi l next hl
  have F := encS_fields (M := 32) (fn := 3) (a := 0) (b := 0) (k := 0) (by decide) (by decide) (by decide) (by decide) (by decide)
  exact ⟨F.lt, bar_raw l next _ F⟩

theorem sbar_raw (l : W32) (next : List W32) (wd : Nat)
    (F : FieldsS wd 32 4 0 0 0) :
    decodeRaw wd l next = .ok ⟨.sbar, true, true⟩ := by
  simp [decodeMem, decodeRaw, F.f26_6, F.f20_6, F.f24_2, F.f20_4, F.f24_1, F.f25_1, F.f13_7, F.f6_7, F.f0_6, F.f0_13, F.f6_14, F.f0_20, ok, okZ, okR, bit1]

theorem sbar : Statement (.sbar) := by
  refine of_raw rfl rfl ?_
  intro hf hi l next hl
  have F := encS_fields (M := 32) (fn := 4) (a := 0) (b := 0) (k := 0) (by decide) (by decide) (by decide) (by decide) (by decide)
  exact ⟨F.lt, sbar_raw l next _ F⟩

theorem cseal_raw (l : W32) (next : List W32) (wd : Nat)
    (F : FieldsS wd 35 0 0 0 0) :
    decodeRaw wd l next = .ok ⟨.cseal, true, true⟩ := by
  simp [decodeMem, decodeRaw, F.f26_6, F.f20_6, F.f24_2, F.f20_4, F.f24_1, F.f25_1, F.f13_7, F.f6_7, F.f0_6, F.f0_13, F.f6_14, F.f0_20, ok, okZ, okR, bit1]

theorem cseal : Statement (.cseal) := by
  refine of_raw rfl rfl ?_
  intro hf hi l next hl
  have F := encS_fields (M := 35) (fn := 0) (a := 0) (b := 0) (k := 0) (by decide) (by decide) (by decide) (by decide) (by decide)
  exact ⟨F.lt, cseal_raw l next _ F⟩

theorem mtake_raw (l : W32) (next : List W32) (wd : Nat)
    (F : FieldsX wd 41 12 0 0 0 0 0) :
    decodeRaw wd l next = .ok ⟨.mtake, true, true⟩ := by
  simp [decodeMx, decodeRaw, F.f26_6, F.f21_5, F.f17_4, F.f13_4, F.f9_4, F.f6_3, F.f0_6, F.f4_2, F.f0_1, F.f1_1, F.f2_1, F.f3_1, F.f0_9, F.f0_13, F.f0_17, F.f0_21, ok, okZ, okR, bit1, MFlags.ofCode, MFlags.toCode]

theorem mtake : Statement (.mtake) := by
  refine of_raw rfl rfl ?_
  intro hf hi l next hl
  have F := encX_fields (M := 41) (fn := 12) (ad := 0) (ma := 0) (mb := 0) (sh := 0) (fl := 0) (by decide) (by decide) (by decide) (by decide) (by decide) (by decide) (by decide)
  exact ⟨F.lt, mtake_raw l next _ F⟩

theorem mpassFree_raw (l : W32) (next : List W32) (wd : Nat)
    (F : FieldsX wd 41 13 0 0 0 0 1) :
    decodeRaw wd l next = .ok ⟨.mpassFree, true, true⟩ := by
  simp [decodeMx, decodeRaw, F.f26_6, F.f21_5, F.f17_4, F.f13_4, F.f9_4, F.f6_3, F.f0_6, F.f4_2, F.f0_1, F.f1_1, F.f2_1, F.f3_1, F.f0_9, F.f0_13, F.f0_17, F.f0_21, ok, okZ, okR, bit1, MFlags.ofCode, MFlags.toCode]

theorem mpassFree : Statement (.mpassFree) := by
  refine of_raw rfl rfl ?_
  intro hf hi l next hl
  have F := encX_fields (M := 41) (fn := 13) (ad := 0) (ma := 0) (mb := 0) (sh := 0) (fl := 1) (by decide) (by decide) (by decide) (by decide) (by decide) (by decide) (by decide)
  exact ⟨F.lt, mpassFree_raw l next _ F⟩

theorem tyld_raw (l : W32) (next : List W32) (wd : Nat)
    (F : FieldsS wd 48 4 0 0 0) :
    decodeRaw wd l next = .ok ⟨.tyld, true, true⟩ := by
  simp [decodeSys, decodeRaw, F.f26_6, F.f20_6, F.f24_2, F.f20_4, F.f24_1, F.f25_1, F.f13_7, F.f6_7, F.f0_6, F.f0_13, F.f6_14, F.f0_20, ok, okZ, okR, bit1]

theorem tyld : Statement (.tyld) := by
  refine of_raw rfl rfl ?_
  intro hf hi l next hl
  have F := encS_fields (M := 48) (fn := 4) (a := 0) (b := 0) (k := 0) (by decide) (by decide) (by decide) (by decide) (by decide)
  exact ⟨F.lt, tyld_raw l next _ F⟩

theorem trecWide_raw (l : W32) (next : List W32) (wd : Nat)
    (F : FieldsS wd 48 6 126 126 32) :
    decodeRaw wd l next = .ok ⟨.trecWide, true, true⟩ := by
  simp [decodeSys, decodeRaw, F.f26_6, F.f20_6, F.f24_2, F.f20_4, F.f24_1, F.f25_1, F.f13_7, F.f6_7, F.f0_6, F.f0_13, F.f6_14, F.f0_20, ok, okZ, okR, bit1]

theorem trecWide : Statement (.trecWide) := by
  refine of_raw rfl rfl ?_
  intro hf hi l next hl
  have F := encS_fields (M := 48) (fn := 6) (a := 126) (b := 126) (k := 32) (by decide) (by decide) (by decide) (by decide) (by decide)
  exact ⟨F.lt, trecWide_raw l next _ F⟩

theorem bind : Statement (.bind) := of_event rfl

theorem clauseHeader : Statement (.clauseHeader) := of_event rfl

end Sys2Proof.Laws.RoundTrip

end
end

