-- ==== Sys2Proof/Safety.lean ====
section
/-! DEFINITION. What counts as a well-formed state, when an instruction issues with its own effect, and what it leaves: the
words in which statements about the machine are made. -/

namespace Sys2Proof.Machine

/-- A pane's register files in canonical form (R39). -/
def PaneSt.wf (p : PaneSt) : Bool :=
  Sparse.wf p.regs && Sparse.wf p.preds && Sparse.wf p.bufs && Sparse.wf p.lanes

/-- Memory in canonical form. -/
def State.memWf (s : State) : Bool := Memory.wf s.mem

/-- AN INSTRUCTION ISSUES WITH ITS OWN EFFECT: a unit is chosen, no cause waits for it, none of the causes that every
instruction meets first (R234 ranks 1 to 8) holds, it has an active position or acts without one, and no register it reads is
poisoned. `e` is what its own rules add to those causes. -/
structure Issues (i : Instr) (e : Early) (s : State) (v : View) : Prop where
  chosen : s.view = some v
  quiet : v.u.dueDeferred = none
  legal : i.illegal = none
  legalHere : e.illegal = none
  mode : v.u.sup = true ∨ privIndex i = none
  declared : (namedCodes i ++ e.codes).find? (undeclared v.p v.l) = none
  rank4 : e.rank4 = none
  covered : (hazardCodes i ++ e.codes ++ e.bufs.map fun n => 128 + n).findSome? (hazardOn v) = none
  full : (needsFull i || e.full) = true → v.notFull = false
  active : v.E ≠ 0 ∨ actsEmpty i = true
  clean : poisonTrap v i = none

/-- What an instruction's own rules add to the causes that every instruction meets first (R94, R165, R236, R311, R326, R327,
R340, R350, R372) (DEDUCED, log entry 16). -/
def earlyOf (i : Instr) (v : View) : Early :=
  match i with
  | .join => { illegal := if v.u.idx ≠ 1 then some 7 else none }
  | .exit => { illegal := if v.u.level = .save ∨ v.u.level = .resume then some 7 else none }
  | .eret => { illegal := if v.u.level = .none then some 7 else none }
  | .qw q a => qwEarly (.qw q a) q a v
  | .lclr z => slotEarly i [z] v
  | .laddF64 z _ | .laddF32 z _ | .laddBf16 z _ => slotEarly i [z] v
  | .lmacF64 z _ _ | .lmacF32 z _ _ | .lwrl z _ _ => slotEarly i [z] v
  | .lmrg z y => slotEarly i [z, y] v
  | .lnrm z => slotEarly i [z] v
  | .lrnd _ _ _ z | .lrdl _ z _ | .lst _ z => slotEarly i [z] v
  | .lsv z _ _ _ | .lld z _ _ _ => slotEarly i [z] v
  | .mms _ _ _ sh _ | .mmh _ _ _ _ sh _ | .mmf _ _ _ _ sh _ => shapeEarly sh v
  | .mdrn t _ v4 _ => groupEarly (4 * v4) (drainCount t v.M)
  | .mtlIn _ v4 | .mtlOut _ v4 => groupEarly (4 * v4) (16 / v.M)
  | .mtlSb _ v4 => groupEarly (4 * v4) 1
  | .psavePane .. | .prestPane .. => routineEarly v
  | .psaveMx .. | .prestMx .. => matrixEarly v
  | _ => {}

/-- AN INSTRUCTION ISSUES, with its own rules' causes. -/
abbrev Ready (i : Instr) (s : State) (v : View) : Prop := Issues i (earlyOf i v) s v

/-- AN INSTRUCTION TRAPS PRECISELY: its cause is delivered to its unit, and nothing else of it happens (R231). -/
def TrapsWith (i : Instr) (s : State) (v : View) (t : Trap) : Prop :=
  exec i s = .next (s.deliver v.uid t v.u.word.toNat (epcOf v.u.pc v.u.idx))

/-- An instruction stands at its unit's issue: the unit is chosen and no cause waits for it. -/
structure AtIssue (s : State) (v : View) : Prop where
  chosen : s.view = some v
  quiet : v.u.dueDeferred = none

/-- A table holds one new entry and otherwise what it held. -/
def OneEntry {α : Type} (m m' : Map α) (k : Nat) (x : α) : Prop := m'.find k = some x ∧ ∀ j, j ≠ k → m'.find j = m.find j

/-- Nothing but a unit has changed: it stands as u. -/
def OnlyUnit (s t : State) (k : Nat) (u : UnitSt) : Prop := { t with units := s.units } = s ∧ OneEntry s.units t.units k u

/-- The unit sent to a clause address by an instruction (R51, R263). -/
def View.sent (v : View) (u : UnitSt) (pc : Nat) : UnitSt := (u.endClause pc v.s.now).issued v.s.now

/-- The unit past an instruction, as its issue leaves it (R34, R258, R263). -/
def View.past (v : View) (i : Instr) (u : UnitSt) : UnitSt := (u.advance (1 + i.extraWords) v.s.now).issued v.s.now

/-- Nothing but the unit, the pane's registers and cleared poison marks has changed: every other field of the state, memory
among them, is as it was. -/
def KeepsRest (s t : State) : Prop := { t with units := s.units, panes := s.panes, poison := s.poison } = s

/-- A REGISTER RESULT: copy q of d is f q for every executing index q, the flags are ORed into fstat, the unit goes on, and
everything else is as it was. A `zr` destination receives nothing (R38). -/
structure RegResult (i : Instr) (v : View) (t : State) (d : Opnd) (f : Nat → Word) (flags : Nat) : Prop where
  rest : KeepsRest v.s t
  unit : OneEntry v.s.units t.units v.uid (v.past i v.u)
  pane : ∃ r, OneEntry v.s.panes t.panes v.pid { v.p with regs := r, fstat := v.p.fstat ||| w64 (flags % 4096) } ∧
    (d.isReg = true → ∀ q ∈ v.slots i, Sparse.read r (rkey d.code q) = f q) ∧
    ∀ c q, q < 256 → ¬(d.isReg = true ∧ c = d.code ∧ q ∈ v.slots i) →
      Sparse.read r (rkey c q) = Sparse.read v.p.regs (rkey c q)

/-- A PREDICATE RESULT: p receives b at the positions of a mask and keeps its bits elsewhere, the flags are ORed into fstat,
the unit goes on, and everything else is as it was. -/
structure PredResult (i : Instr) (v : View) (t : State) (p : Nat) (m b : Mask) (flags : Nat) : Prop where
  rest : KeepsRest v.s t
  unit : OneEntry v.s.units t.units v.uid (v.past i v.u)
  pane : ∃ r, OneEntry v.s.panes t.panes v.pid { v.p with preds := r, fstat := v.p.fstat ||| w64 (flags % 4096) } ∧
    (∀ q, bitAt (Sparse.read r p) q = if bitAt m q then bitAt b q else bitAt (v.p.pred p) q) ∧
    ∀ k, k ≠ p → Sparse.read r k = v.p.pred k

/-- A RESULT WITHOUT FLAGS: the instruction completes, and each executing copy of d satisfies P. -/
def Gives (i : Instr) (s : State) (v : View) (d : Opnd) (P : Nat → Word → Prop) : Prop :=
  ∃ f t, exec i s = .next t ∧ RegResult i v t d f 0 ∧ ∀ q ∈ v.slots i, P q (f q)

/-- The same with bits set in fstat. -/
def GivesFlags (i : Instr) (s : State) (v : View) (d : Opnd) (flags : Nat) (P : Nat → Word → Prop) : Prop :=
  ∃ f t, exec i s = .next t ∧ RegResult i v t d f flags ∧ ∀ q ∈ v.slots i, P q (f q)

/-- A packed operation on two operands completes with element e of copy q equal to g of the operands' elements (R319). -/
def Int2 (i : Instr) (w : IWidth) (d a b : Opnd) (g : Nat → Nat → Nat) : Prop :=
  ∀ s v, Ready i s v → Gives i s v d fun q x => ∀ e, e < 64 / ibits w →
    sub (ibits w) e x = g (sub (ibits w) e (v.rd i a q)) (sub (ibits w) e (v.rd i b q))

/-- The same on one operand. -/
def Int1 (i : Instr) (w : IWidth) (d a : Opnd) (g : Nat → Nat → Prop) : Prop :=
  ∀ s v, Ready i s v → Gives i s v d fun q x => ∀ e, e < 64 / ibits w →
    g (sub (ibits w) e (v.rd i a q)) (sub (ibits w) e x)

/-- The executing index that a position belongs to (R25). -/
def slotAt (c : Cls) (p : Nat) : Nat :=
  match c with
  | .vec => p | .shr => p % 32 | .sca => 0

/-- fl is the union of the conditions that the n elements of the executing copies raise (R76). -/
def Union (v : View) (i : Instr) (n : Nat) (g : Nat → Nat → FRes) (fl : Nat) : Prop :=
  ∀ k, fl.testBit k = true ↔ ∃ q ∈ v.slots i, ∃ e, e < n ∧ (g q e).flags.testBit k = true

/-- No element of the executing copies raises a condition that the pane's mode enables (R77). -/
def Quiet (i : Instr) (v : View) (n : Nat) (g : Nat → Nat → FRes) : Prop :=
  ∀ q ∈ v.slots i, ∀ e, e < n → (g q e).flags &&& v.mode.te = 0

/-- A FLOATING-POINT RESULT (R76, R77). Where no enabled condition arises the instruction completes: each of the n elements of an
executing copy is g's, the elements above them 0, and the union of their conditions goes to fstat. Where one arises, nothing is
written and FPX is taken at the positions that raise one, every detected condition standing in fstat. -/
def Floats (i : Instr) (s : State) (v : View) (d : Opnd) (W n : Nat) (g : Nat → Nat → FRes) : Prop :=
  (Quiet i v n g → ∃ fl f t, exec i s = .next t ∧ Union v i n g fl ∧ RegResult i v t d f fl ∧
    ∀ q ∈ v.slots i, ∀ e, e < 64 / W → sub W e (f q) = if e < n then (g q e).code % 2 ^ W else 0) ∧
  (¬Quiet i v n g → ∃ (fl : Nat) (m : Mask), Union v i n g fl ∧
    (∀ p, bitAt m p = true ↔ bitAt v.E p = true ∧ ∃ e, e < n ∧ (g (slotAt i.cls p) e).flags &&& v.mode.te ≠ 0) ∧
    exec i s = .next ((v.withPane (v.p.orFstat fl)).deliver v.uid { cause := 0x15, mask := m, efd := fl &&& v.mode.te }
      v.u.word.toNat (epcOf v.u.pc v.u.idx)))

/-- A predicate instruction completes: p receives b at the positions of the mask. -/
def Marks (i : Instr) (s : State) (v : View) (p : Nat) (m : Mask) (flags : Nat) (b : Nat → Bool) : Prop :=
  ∃ r t, exec i s = .next t ∧ PredResult i v t p m r flags ∧ ∀ q, bitAt m q = true → bitAt r q = b q

/-- A TAKEN TRANSFER: the unit, as u, goes to a clause address, and nothing else changes (R51). -/
def Goes (i : Instr) (s : State) (v : View) (u : UnitSt) (pc : Nat) : Prop :=
  ∃ t, exec i s = .next t ∧ OnlyUnit s t v.uid (v.sent u pc)

/-- THE UNIT GOES ON past the instruction, as u, and nothing else changes. -/
def Stays (i : Instr) (s : State) (v : View) (u : UnitSt) : Prop := ∃ t, exec i s = .next t ∧ OnlyUnit s t v.uid (v.past i u)

/-- The first active position of a mask, in order of lane, then member (R53). -/
def FirstActive (E : Mask) (q : Nat) : Prop :=
  bitAt E q = true ∧ ∀ p, bitAt E p = true → q % 32 < p % 32 ∨ q % 32 = p % 32 ∧ q ≤ p

/-- The RSTACK trap (R51, R56, R57). -/
def rstackOf (v : View) : Trap := { cause := 0x17, mask := v.E }

/-- A memory instruction that meets nothing on its way (R128, R147, R224, R245, R261): its record is this node's, every line
translates to this device's own memory, nothing it must follow is pending, and there is room in its count and in the log. -/
structure AccessClear (v : View) (k : Kind) (r : MemReq) : Prop where
  here : r.node = none
  log : ownershipLines v r = 0 ∨ (v.s.ctx v.ctx).logRoom (ownershipLines v r) = true
  noTrap : accessTrap v r (v.s.locateReq v.ctx r) = none
  noVault : (v.s.locateReq v.ctx r).busy = none
  noFault : (v.s.locateReq v.ctx r).faults ++ behindPages v.s v.uid r.accs = []
  bound : r.op.kind = .atomic ∧ r.op ≠ .ctinc → v.s.allBound v.uid = true
  follows : v.s.mustFollow v.uid v.s.nextId r.op (v.s.locateReq v.ctx r).locs = false
  room : v.countFull k = false
  stays : r.op = .dtst ∨ r.op = .trec ∨ leaves v.s.dev (v.s.locateReq v.ctx r).locs = false

/-- The work a state holds in flight under an identity. -/
def State.workOf (s : State) (id : Nat) : Option Work := (s.pend.find id).map Pend.work

/-! ## Memory instructions and work in flight -/

/-- The unit with one more instruction of a kind in flight, its register results not covered (R261, R264). -/
def View.flying (v : View) (k : Kind) (codes : List Nat) : UnitSt :=
  { v.u.bump k with uncov := (v.u.uncov.filter (fun q => !codes.contains q.code)) ++
      (codes.map fun c => ⟨c, v.E, k, (v.u.bump k).counter k, v.u.pc⟩) }

/-- Work of the view's unit stands in flight at the n-th identity that the instruction took. -/
def FliesAs (s t : State) (v : View) (k : Kind) (n : Nat) (w : Work) : Prop :=
  ∃ p, t.pend.find (s.nextId + n) = some p ∧ p.work = w ∧ p.uid = v.uid ∧ p.pane = v.pid ∧ p.ctx = v.ctx ∧
    p.core = v.core ∧ p.kind = k ∧ p.ord = (v.u.bump k).counter k ∧ p.clause = v.u.pc

/-- A core without what its accesses keep of memory and of time: L1 and its stamp. -/
def CoreSt.bare (c : CoreSt) : CoreSt := { c with l1 := [], l1valid := [], lru := [], lamport := 0 }

/-- Nothing but units, work in flight, cached translations, ownership, L1 contents and Lamport stamps has changed. -/
def OnlyCaches (s t : State) : Prop :=
  { t with
    units := s.units
    pend := s.pend
    nextId := s.nextId
    tlb := s.tlb
    cores := s.cores
    owner := s.owner
    shadows := s.shadows
    dev := s.dev } = s ∧
  { t.dev with homeLamport := s.dev.homeLamport } = s.dev ∧ ∀ c, (t.core c).bare = (s.core c).bare

/-- No register, special register, flag or predicate of any pane, casement, launch or context has changed. -/
def KeepsRegisters (s t : State) : Prop :=
  t.panes = s.panes ∧ t.cas = s.cas ∧ t.launches = s.launches ∧ t.ctxs = s.ctxs

/-- Every word that a core's L1 holds without owning it is the home's, and no store of the core awaits its acknowledgement (R144,
R145). -/
def State.l1Coherent (s : State) (core : Nat) : Prop :=
  (∀ w ∈ (s.core core).l1valid, s.owner.find w ≠ some core → Sparse.read (s.core core).l1 w = w64 (s.homeRead (8 * w) 8)) ∧
    ∀ x ∈ s.shadows, x.core = core → x.until_ ≤ s.now

/-- The little-endian value of an access's parts at their homes. -/
def State.valueAt (s : State) : List Piece → Nat
  | [] => 0
  | p :: r => s.homeRead p.pa p.n + 2 ^ (8 * p.n) * State.valueAt s r

/-- What a byte reads after the writes of chunks, in order. -/
def writtenByte (cs : List Chunk) (a : Nat) (old : Byte) : Byte :=
  cs.foldl (fun b c => if c.pa ≤ a ∧ a < c.pa + c.size then BitVec.ofNat 8 (bits c.data (8 * (a - c.pa)) 8) else b) old

/-- The state's memory after the writes of chunks. -/
def Written (s t : State) (cs : List Chunk) : Prop := ∀ a, t.mem.readByte a = writtenByte cs a (s.mem.readByte a)

/-- A context's dirty map is off in this ac (R195). -/
abbrev CtxSt.mapsOff (c : CtxSt) : Prop := (c.acting 0x4D c.dmap).toNat % 2 = 0

/-- Stores and reads with no side effect beside themselves: no dirty map, no trace, no conflict sampling, no ownership log and
no poison (R99, R190, R196, R240, R245). -/
structure Plain (s : State) (v : View) : Prop where
  untraced : v.l.traced = false
  undirty : (s.ctx v.ctx).mapsOff
  unsampled : v.l.det = false
  unlogged : (s.ctx v.ctx).logFlag 3 = false
  clean : s.poison = []

/-- STORES THAT LEAVE OR ARE PERFORMED (R144, R145): performed at once where the core owns every word under the cached policy and
nothing of the unit is ahead, and else in flight, the cached parts to be registered and the others to be written. `plain` is
where the bytes of those performed at once are the only ones that change. -/
structure StoresOut (i : Instr) (s : State) (v : View) (p : CPol) (locs : List (Acc × List Piece)) (t : State) : Prop where
  unit : OneEntry s.units t.units v.uid (v.past i (v.flying .store []))
  ends :
    let cs := locs.flatMap fun q => chunksOf q.1.bad q.1.data q.2
    let cached := (cs.filter fun q => policyOf p q.2 = .dflt).map Prod.fst
    let others := (cs.filter fun q => policyOf p q.2 ≠ .dflt).map Prod.fst
    let atOnce := others = [] ∧ (∀ q ∈ cached, s.ownsAll v.core q = true) ∧ s.ownStores v.uid v.who.before = [] ∧
      s.allBound v.uid = true
    (atOnce → Plain s v → Written s t cached) ∧
    (¬atOnce → t.mem = s.mem ∧ (cached ≠ [] → FliesAs s t v .store 0 (.store cached)) ∧
      (others ≠ [] → FliesAs s t v .store (min 1 cached.length) (.write others)))

/-! ## Reads (R144) -/

/-- The one place of a request that reads one span: its first access. -/
def State.headValue (s : State) : List (Acc × List Piece) → Nat
  | [] => 0
  | q :: _ => s.valueAt q.2

/-- Block j that a requantising transpose gives (R119), from the value of each row that it reads: codes, scale byte, flags. -/
def requantBlock (t : Q4Ty) (got : Nat → Nat) (j : Nat) : List Nat × Nat × Nat :=
  requant t ((List.range 32).map fun row =>
    q4x8 (bits (got (32 + row)) 6 2) (bits (got row) (4 * j) 4) * 2 ^ bits (got (32 + row)) 0 6)

/-- What its destination row k receives: codes, or a scale byte. -/
def requantised (t : Q4Ty) (got : Nat → Nat) (k : Nat) : Nat :=
  if k / 32 = 2 then packCodes (requantBlock t got (k % 32)).1 else (requantBlock t got (k % 32)).2.1

/-- WHAT A READ GIVES (R144): the work that a served read becomes, from the values at the homes. -/
def ReadGives (s : State) (cid : Nat) (r : MemReq) (locs : List (Acc × List Piece)) (w : Work) : Prop :=
  match r.op with
  | .load sx n => w = .regs (zeroWrites r ++ locs.flatMap fun q => q.1.keys.map fun k => (k, extendTo sx n (s.valueAt q.2))) [] [] 0
  | .bset n => w = .regs [] [(n, BitVec.ofNat 256 (s.headValue locs))] [] 0
  | .lld => ∃ xs, w = .longs cid xs [] ∧ ∀ k, Map.find xs k = ((locs.filter fun q => q.1.data = k).getLast?).map fun q =>
      if q.1.size = 0 then LongSt.zero else LongSt.ofImage (toBytes 576 (s.valueAt q.2))
  | .record e => w = .record e ((List.range 16).map fun k => bits (s.headValue locs) (64 * k) 64)
  | .restore n => ∀ q, locs = [q] → r.accs = [q.1] →
      w = .install n (s.imageOf n q.1.size (toBytes q.1.size (s.valueAt q.2))) false
  | .job => ∃ since, w = .job ((List.range 16).map fun k => bits (s.headValue locs) (64 * k) 64) r [] since false
  | .rqt => ∃ cached others fl, w = .rqt cached others fl ∧
      ∀ got : Nat → Nat, (∀ q ∈ locs, q.1.cmp = 0 → got q.1.data = s.valueAt q.2) →
        (∀ k, (∀ q ∈ locs, q.1.cmp = 0 → q.1.data ≠ k) → got k = 0) →
        fl = (List.range 32).foldl (fun f j => f ||| (requantBlock (rqtType r.i) got j).2.2) 0 ∧
        ∀ q ∈ locs, q.1.cmp ≠ 0 → ∀ p ∈ q.2,
          (⟨p.pa, p.va, p.n, bits (requantised (rqtType r.i) got q.1.data) (8 * (p.va - q.1.ea % 2 ^ 57)) (8 * p.n), p.leaf.trk,
            false⟩ : Chunk) ∈ (if policyOf r.pol p.leaf = .dflt then cached else others)
  | _ => True

/-- A READ ISSUED (R144, R261): whatever it reads, the instruction completes its issue with one piece of work in flight: the read
itself, to be served by its homes, or, where every word is in L1 and nothing is ahead of it, what it gives. `u` is how its unit
stands, by the identity of that work, which is the n-th that the instruction takes where no trace is recorded. -/
def ReadIssued (i : Instr) (s : State) (v : View) (k : Kind) (n : Nat) (r : MemReq) (u : Nat → UnitSt) : Prop :=
  let f := v.s.locateReq v.ctx r
  let now := f.s.bindsNow v.who r.pol (f.locs.flatMap Prod.snd)
  ∃ t w m, exec i s = .next t ∧ OneEntry s.units t.units v.uid (u (s.nextId + m)) ∧ FliesAs s t v k m w ∧
    (now = false → w = .reads r f.locs) ∧ (now = false ∨ v.l.traced = false → m = n ∧ t.mem = s.mem) ∧
    (v.l.traced = false → s.poison = [] →
      (n = 0 → OnlyCaches s t) ∧
      (now = true → s.l1Coherent v.core → s.ownStores v.uid v.s.nextId = [] → ReadGives v.s v.cid r f.locs w))

/-! ## Long accumulators -/

/-- The exact sum that a slot's limbs hold, in units of 2^−2176 (R80). -/
def LongSt.value (a : LongSt) : Int := ((List.range 68).map fun j => a.limb j * 2 ^ (64 * j)).sum

/-- A sum as 4352 signed bits hold it (R83). -/
def longWrap (x : Int) : Int := (x + 2 ^ 4351) % 2 ^ 4352 - 2 ^ 4351

/-- A slot's status after a fold: LOVF joins it where the sum lies outside the range (R83). -/
def LongSt.foldedStatus (a : LongSt) : Nat := a.status ||| (if longWrap a.value = a.value then 0 else 8)

/-- A slot after its fold: the same sum, its limbs below the top one in canonical form, and the status; what its limbs show is the
sum as 4352 bits hold it (R83). -/
def LongSt.IsFold (a b : LongSt) : Prop :=
  b.value = a.value ∧ b.status = a.foldedStatus ∧ (∀ j, j < 67 → 0 ≤ b.limb j ∧ b.limb j < 2 ^ 64) ∧ b.V = longWrap a.value

/-- What a value contributes: its exact multiple of 2^−2176, and status bits (R81). -/
def partOfValue : FV → Int × Nat
  | .nan _ => (0, 4)
  | .inf ng => (0, if ng then 2 else 1)
  | .fin ng m e => ((if ng then -1 else 1) * (m : Int) * 2 ^ (e + 2176).toNat, 0)

/-- What a product contributes (R81). -/
def partOfProduct : FV → FV → Int × Nat
  | .nan _, _ => (0, 4)
  | _, .nan _ => (0, 4)
  | .inf a, .inf b => (0, if a = b then 1 else 2)
  | .inf a, .fin b m _ => (0, if m = 0 then 4 else if a = b then 1 else 2)
  | .fin b m _, .inf a => (0, if m = 0 then 4 else if a = b then 1 else 2)
  | .fin a m e, .fin b n g => ((if a = b then 1 else -1) * ((m * n : Nat) : Int) * 2 ^ (e + g + 2176).toNat, 0)

/-- A product raises INV (R81): a signalling NaN, or an infinity times 0. -/
def prodInvalid (f : Fmt) (c d : Nat) : Bool :=
  f.isSNaN c || f.isSNaN d || (match f.val c, f.val d with
    | .inf _, .fin _ m _ => m == 0
    | .fin _ m _, .inf _ => m == 0
    | _, _ => false)

/-- A SLOT OPERATION COMPLETES (R328): only its casement's slots, fstat, marks and the unit change. -/
def Slots (i : Instr) (s : State) (v : View) (fl : Nat) (L : Longs → Prop) : Prop :=
  ∃ t longs, exec i s = .next t ∧
    { t with units := s.units, panes := s.panes, cas := s.cas, poison := s.poison } = s ∧
    OneEntry s.units t.units v.uid (v.past i v.u) ∧ OneEntry s.cas t.cas v.cid { v.ca with longs := longs } ∧
    OneEntry s.panes t.panes v.pid { v.p with fstat := v.p.fstat ||| w64 (fl % 4096) } ∧ L longs

/-- Every slot gains the parts of the copies that name it: sums exactly, status bits ORed. -/
def Gathers (i : Instr) (v : View) (z : Opnd) (parts : Nat → List (Int × Nat)) (longs : Longs) : Prop :=
  ∀ k, let a := v.ca.longs.getD k .zero
    let b := longs.getD k .zero
    let ps := ((v.ordered i.cls).filter fun q => v.slotNo i z q = k).flatMap parts
    b.value = a.value + (ps.map Prod.fst).sum ∧ b.status = (ps.map Prod.snd).foldl (· ||| ·) a.status

/-- A SLOT READ-OUT IN FLIGHT (R329, R330): the slots named are folded, and each copy's result is a Load-kind one, with the
flags that arose. -/
def ReadsOut (i : Instr) (s : State) (v : View) (d z : Opnd) (R : Nat → LongSt → Word → Nat → Prop) : Prop :=
  ∃ t longs ws fl, exec i s = .next t ∧ { t with units := s.units, pend := s.pend, nextId := s.nextId, cas := s.cas } = s ∧
    OneEntry s.units t.units v.uid (v.past i (v.flying .load (if d.isReg then [d.code] else []))) ∧
    OneEntry s.cas t.cas v.cid { v.ca with longs := longs } ∧
    (∃ bad, FliesAs s t v .load 0 (.regs ws [] bad fl) ∧ (s.poison = [] → bad = [])) ∧
    ∀ q ∈ v.slots i, let a := v.ca.longs.getD (v.slotNo i z q) .zero
      a.IsFold (longs.getD (v.slotNo i z q) .zero) ∧
      ∃ x f, (rkey d.code q, x) ∈ ws ∧ R q (longs.getD (v.slotNo i z q) .zero) x f ∧ (fl ||| f = fl)

/-! ## The matrix engine -/

/-- The baton is the pane's, or free with no other unit parked for it; the engine's queue and the unit's Matrix count have
room (R117, R118, R261). -/
structure EngineFree (s : State) (v : View) : Prop where
  baton : (s.core v.core).baton = some v.pid ∨
    (s.core v.core).baton = none ∧ ∀ q ∈ s.batonWaiters v.core, q.1 = v.uid
  queue : (s.core v.core).engQ.length < 16
  count : v.countFull .matrix = false

/-- AN ENGINE OPERATION JOINS ITS CORE'S QUEUE (R117, R118): last in it, with the m-th identity that the instruction takes; its
pane holds the baton, and no matrix register has changed. -/
structure Joins (i : Instr) (s : State) (v : View) (t : State) (codes : List Nat) (w : Work) (m : Nat) (o : EngOp) : Prop where
  unit : OneEntry s.units t.units v.uid (v.past i (v.flying .matrix codes))
  work : FliesAs s t v .matrix m w
  queue : (t.core v.core).engQ = (s.core v.core).engQ ++ [o]
  baton : (t.core v.core).baton = some v.pid
  file : (t.core v.core).mx = (s.core v.core).mx
  op : o.id = s.nextId + m ∧ o.uid = v.uid ∧ o.pane = v.pid ∧ o.M = v.M ∧ o.i = i ∧ o.rm = bits v.p.fmode.toNat 0 2

/-- What joining a queue leaves: every register, memory and the other cores are as they were. -/
structure JoinFrame (s : State) (v : View) (t : State) : Prop where
  rest : { t with
    units := s.units
    cores := s.cores
    pend := s.pend
    nextId := s.nextId
    tlb := s.tlb
    owner := s.owner
    shadows := s.shadows } = s
  others : ∀ c, c ≠ v.core → t.core c = s.core c

/-- AN ENGINE OPERATION QUEUED, with what it read at issue, and nothing else changed. -/
structure Queued (i : Instr) (s : State) (v : View) (t : State) (codes : List Nat) (w : Work) (o : EngOp) : Prop where
  joins : Joins i s v t codes w 0 o
  frame : JoinFrame s v t

/-- An operation on registers is queued with no data of its own. -/
def Enqueues (i : Instr) (s : State) (v : View) (codes : List Nat) : Prop :=
  Ready i s v → EngineFree s v → ∃ t o, exec i s = .next t ∧ Queued i s v t codes .none o ∧ o.data = []

/-! ## Special registers -/

/-- A WRITE TO THE PANE'S REGISTERS completes: the pane stands as p, and nothing else but the unit has changed. -/
def SetsPane (i : Instr) (s : State) (v : View) (p : PaneSt) : Prop :=
  ∃ t, exec i s = .next t ∧ { t with units := s.units, panes := s.panes } = s ∧
    OneEntry s.units t.units v.uid (v.past i v.u) ∧ OneEntry s.panes t.panes v.pid p

/-- A WRITE TO THE CONTEXT'S REGISTERS completes: the context stands as c, and nothing else but the unit has changed. -/
def SetsCtx (i : Instr) (s : State) (v : View) (c : CtxSt) : Prop :=
  ∃ t, exec i s = .next t ∧ { t with units := s.units, ctxs := s.ctxs } = s ∧
    OneEntry s.units t.units v.uid (v.past i v.u) ∧ OneEntry s.ctxs t.ctxs v.ctx c

/-- The unit parked until a piece of its work ends (R195, R225). -/
def View.parkedOn (v : View) (id : Nat) : UnitSt :=
  { (v.flying .other []).issued v.s.now with park := .work id, parkedAt := v.s.now }

/-- A WRITE TO ptroot starts (R225): the table base and EN are kept, the context's cached translations are dropped, and the unit
parks on the invalidation. -/
def StartsPtroot (i : Instr) (s : State) (v : View) (x : Nat) : Prop :=
  ∀ c, s.ctxs.find v.ctx = some c → ∃ t, exec i s = .next t ∧
    { t with units := s.units, ctxs := s.ctxs, pend := s.pend, nextId := s.nextId, tlb := s.tlb } = s ∧
    OneEntry s.units t.units v.uid (v.parkedOn s.nextId) ∧ FliesAs s t v .other 0 .invalidate ∧
    OneEntry s.ctxs t.ctxs v.ctx { c with ptroot := w64 (x % 2 ^ 52 / 4096 * 4096 + x % 2) } ∧
    (∀ va, va < 2 ^ 57 → t.tlb.find (tlbKey v.ctx va) = none) ∧
    ∀ k, k / 2 ^ 41 ≠ v.ctx → t.tlb.find k = s.tlb.find k

/-- A WRITE TO wpart of a region (R134, R135): a new width starts its conversion, and any other write is ignored. -/
def StartsWpart (i : Instr) (s : State) (v : View) (g x : Nat) : Prop :=
  let b := min (x % 32) 16
  let ignored := (s.wp g).busy = true ∨ b = (s.wp g).vw ∨ g ∈ s.dev.fencedWays
  (ignored → Stays i s v v.u) ∧
  (¬ignored → ∃ t p, exec i s = .next t ∧
    { t with units := s.units, wpart := s.wpart, pend := s.pend, nextId := s.nextId, mem := s.mem } = s ∧
    OneEntry s.units t.units v.uid (v.past i v.u) ∧ OneEntry s.wpart t.wpart g ⟨b, true, (s.wp g).vw⟩ ∧
    t.pend.find s.nextId = some p ∧ p.work = .convert g (s.wp g).vw b ∧
    ((∀ c ∈ s.ctxs, (s.ctx c.1).mapsOff) → t.mem = s.mem))

/-- A WRITE TO dmap (R195): an enable whose maps fit parks its unit until they are clear, one that does not fit or finds the map
on does nothing, and a disable keeps the base and clears EN unless a trace holds the map on. -/
def StartsDmap (i : Instr) (s : State) (v : View) (x : Nat) : Prop :=
  ∀ c, s.ctxs.find v.ctx = some c →
    let kept := x % 2 ^ 52 / 4096 * 4096 + x % 2
    (x % 2 = 1 → (c.dmap.toNat % 2 = 1 ∨ mapsFit s.dev (x % 2 ^ 52 / 4096 * 4096) = false) → Stays i s v v.u) ∧
    (x % 2 = 1 → c.dmap.toNat % 2 = 0 → mapsFit s.dev (x % 2 ^ 52 / 4096 * 4096) = true → ∃ t, exec i s = .next t ∧
      { t with units := s.units, pend := s.pend, nextId := s.nextId } = s ∧
      OneEntry s.units t.units v.uid (v.parkedOn s.nextId) ∧ FliesAs s t v .other 0 (.mapsClear v.ctx kept)) ∧
    (x % 2 = 0 → c.dmap.toNat % 2 = 1 ∧ c.tracer.isSome = true → Stays i s v v.u) ∧
    (x % 2 = 0 → ¬(c.dmap.toNat % 2 = 1 ∧ c.tracer.isSome = true) →
      SetsCtx i s v { c.keep 0x4D c.dmap with dmap := w64 kept })

/-- A DEVICE-SIDE LAUNCH (R182, R318): past its release it claims an entry of its casement's pending queue and leaves the fetch
of its record in flight as a load. -/
def Launches (i : Instr) (form n : Nat) (nb : Bool) (s : State) (v : View) (es : List Elem) : Prop :=
  let ca := { v.ca with pendQ := v.ca.pendQ ++ [⟨s.nextId, form, [], 0⟩] }
  let p := if nb then v.p.setPred 0 v.E (~~~(0 : Mask)) else v.p
  let s1 := { s with nextId := s.nextId + 1, cas := s.cas.put v.cid ca, panes := if nb then s.panes.put v.pid p else s.panes }
  let v1 := { v with s := s1 }
  let r := v.request i (.record s.nextId) n .dflt (spread es 1 128 fun _ e a => ⟨e.mask, a, 128, 0, 0, [], false⟩) []
  v.pendingFull = false → AccessClear v1 .load r →
  ReadIssued i s v1 .load 1 r (fun _ => v.past i (v.flying .load [])) ∧
  ∃ t, exec i s = .next t ∧ t.launches = s.launches ∧ t.ctxs = s.ctxs ∧ OneEntry s.cas t.cas v.cid ca ∧
    (nb = false → t.panes = s.panes) ∧ OneEntry s.panes t.panes v.pid p

/-- The work of a batch or command whose pane stands in an untraced launch, in a context without a dirty map, without poison. -/
def PlainWork (s : State) (p : Pend) : Prop :=
  (s.panes.find p.pane).isSome ∧ (∀ l, s.launchOfPane p.pane = some l → l.traced = false ∧ l.det = false) ∧
    (s.ctx p.ctx).mapsOff ∧ s.poison = []

/-- A list of copies whose sides all lie in this device's own memory or in scratch, with nothing in the way. -/
def LocalCopies (s : State) (p : Pend) (ops : List CopyOp) : Prop :=
  let a := s.planCopies p.ctx ops
  a.busy = false ∧ a.faults = [] ∧ ∀ pl ∈ a.plans, pl.trap = none ∧ pl.op.dead = false ∧
    (pl.op.srcScr = true ∨ remoteNode s.dev pl.op.srcRec = none) ∧ (pl.op.dstScr = true ∨ remoteNode s.dev pl.op.dstRec = none) ∧
    ∀ pc ∈ pl.src ++ pl.dst, (frameOf s.dev pc.pa).local = true

end Sys2Proof.Machine
end

