-- ==== Sys2Proof/Certificates/Slice0/Obligations.lean ====
section
/-! DEFINITION. The statements about the machine, for the provers. -/

open Sys2Proof Sys2Proof.Machine

/-! ## Encoding -/

/-- R267, R278 to R281: the decoder reads every well-formed instruction back from its words, whatever words follow. -/
def Obligations.DecodeEncodeAgree : Prop := ∀ i : Instr, Laws.RoundTrip.Statement i

/-- R267 and the opcode tables of R279: words written out from the spec's encodings stand for the instructions they name. -/
def Obligations.SpecWordsDecode : Prop :=
  decode 0x0410E0E2 [] = .ok (.iadd .i64 (.w 3) (.w 1) (.s 2)) ∧
  decode 0x5030000C [] = .ok (.bdiv 3 12) ∧
  decode 0x64604004 [] = .ok (.ld .one false .d (.v 1) (.v 0) 1 .dflt) ∧
  decode 0x77A18014 [] = .ok (.atom .cas .i64 (.v 6) (.v 0) 5 .dflt) ∧
  decode 0xB0208080 [] = .ok (.laddF64 (.v 2) (.v 1)) ∧
  decode 0xA0042A00 [] = .ok (.mmd 2 1 5 ⟨false, false, false, false⟩) ∧
  decode 0xC8003900 [] = .ok (.srd (.s 4) 1)

/-! ## The clause and the step -/

/-- R34, R281: when the issue port chooses a unit whose clause is entered and whose word decodes, in a class that the clause
admits, to an instruction, the step is that instruction at the state with the unit chosen; nothing else moves, but the core has
used its issue of this ac and holds the vector datapath or the accumulator store where the instruction uses it, and its other
candidates have been passed over once more. No traced start opens the ac (R197). -/
def Obligations.StepRunsDecoded : Prop := ∀ (s : State) (k : Cand) (i : Instr) (cls : Nat) (ca : CasementSt),
  s.startsNow = false → s.nextIssue = some k → k.u.entered = true → decode k.u.word k.u.rest = .ok i →
  clsOfMajor (majorOf k.u.word) = some cls → bits k.u.hdr.toNat 25 3 = 7 ∨ bits k.u.hdr.toNat 25 3 = cls →
  s.casOfPane k.u.pane = some ca →
  step s = exec i (s.chosen k) ∧ (s.chosen k).cur = some k.uid ∧
    { s.chosen k with cur := s.cur, opening := s.opening, cores := s.cores, units := s.units } = s ∧
    (s.chosen k).units = (s.units.map fun q =>
      if q.1 ≠ k.uid ∧ (∃ x ∈ s.candidates ca.core, x.uid = q.1) then (q.1, { q.2 with passes := q.2.passes + 1 }) else q) ∧
    ((s.chosen k).core ca.core).issuedAt = some s.now ∧
    (∀ c, c ≠ ca.core → (s.chosen k).core c = s.core c) ∧
    { (s.chosen k).core ca.core with
      issuedAt := (s.core ca.core).issuedAt
      datapath := (s.core ca.core).datapath
      accFree := (s.core ca.core).accFree } = s.core ca.core

/-- R258, R259, R261, R264, R281, R282: entering a clause, and the words that are no instruction. A fetched header without words
or with a must-be-0 bit set raises HEADER; one whose wait fields do not hold parks its unit on them; else the unit stands before
the clause's first word. A page fault of the fetch parks the unit on its page, and a trap of it is taken. A word of a reserved
major, of a class that the header does not admit, or one that the decoder rejects, is rejected with its reason, and the cause is
ILLEGAL, or HEADER for a word past the clause's end. The model's own readings here: log entries 15 and 22. -/
def Obligations.ClauseEntryAndReservedWords : Prop := ∀ (s : State) (v : View), AtIssue s v →
  (∀ page r, s.fetchClause v.ctx v.u.pc = .fault page r → exec .clauseHeader s =
    .next ((s.putUnit v.uid (v.u.parkOn (.fetch page r) s.now)).noteFault v.ctx v.core page r accFetch)) ∧
  (∀ g, s.fetchClause v.ctx v.u.pc = .busy g → ∃ t, exec .clauseHeader s = .next t ∧
    OnlyUnit s t v.uid (v.u.parkOn (.vault g) s.now)) ∧
  (∀ c va, s.fetchClause v.ctx v.u.pc = .trap c va → exec .clauseHeader s =
    .next (s.deliver v.uid { cause := c, mask := v.E, eaddr := va } 0 (epcOf v.u.pc v.u.idx))) ∧
  (∀ hdr ws s1, s.fetchClause v.ctx v.u.pc = .ok hdr ws s1 → v.u.idx = 0 →
    let h := hdr.toNat
    let fields := s1.fieldsHold v.uid v.u (bits h 19 5) (bits h 15 4) (bits h 12 3) (bits h 8 4)
    let header := fun (reason : Nat) => exec .clauseHeader s = .next (s1.deliver v.uid
      { cause := 2, mask := v.E, efd := decodedFields hdr reason 0 hdr, efb := bits h 0 26, word := some h } h (epcOf v.u.pc 0))
    { s1 with tlb := s.tlb } = s ∧
    (bits h 28 4 = 0 → header 8) ∧ (bits h 28 4 ≠ 0 → bits h 0 8 ≠ 0 → header 3) ∧
    (bits h 28 4 ≠ 0 → bits h 0 8 = 0 →
      (fields = false → ∃ t, exec .clauseHeader s = .next t ∧ OnlyUnit s1 t v.uid
        (v.u.parkOn (.clause (bits h 19 5) (bits h 15 4) (bits h 12 3) (bits h 8 4)) s.now)) ∧
      (fields = true → v.p.batchFails = [] → ∃ t u', exec .clauseHeader s = .next t ∧ OnlyUnit s1 t v.uid u' ∧
        u'.entered = true ∧ u'.idx = 1 ∧ u'.hdr = hdr ∧ u'.words = ws ∧ ws.length = bits h 28 4 ∧ u'.park = .ready ∧
        u'.pc = v.u.pc ∧ u'.xm = v.u.xm))) ∧
  (v.u.entered = true → clsOfMajor (majorOf v.u.word) = none → nextInstr v.u = .reservedEncoding v.u.word 1) ∧
  (v.u.entered = true → (∃ cls, clsOfMajor (majorOf v.u.word) = some cls) → decode v.u.word v.u.rest = .error .pastEnd →
    nextInstr v.u = .reservedEncoding v.u.word 9) ∧
  (v.u.entered = true → ∀ cls e, clsOfMajor (majorOf v.u.word) = some cls → decode v.u.word v.u.rest = .error e → e ≠ .pastEnd →
    nextInstr v.u = .reservedEncoding v.u.word (if bits v.u.hdr.toNat 25 3 = 7 ∨ bits v.u.hdr.toNat 25 3 = cls then e.reason else 6)) ∧
  (∀ w reason, reason ≠ 9 → ∃ fa, exec (.reservedEncoding w reason) s = .next (s.deliver v.uid
    { cause := 1, mask := v.E, efd := decodedFields w reason v.u.idx v.u.hdr, efa := fa, efb := bits w.toNat 0 26 } w.toNat
    (epcOf v.u.pc v.u.idx))) ∧
  (∀ w, ∃ fa, exec (.reservedEncoding w 9) s = .next (s.deliver v.uid
    { cause := 2, mask := v.E, efd := decodedFields w 9 v.u.idx v.u.hdr, efa := fa, efb := bits w.toNat 0 26 } w.toNat
    (epcOf v.u.pc v.u.idx))) ∧
  ∀ M, M < 64 → (clsOfMajor M = none ↔ M = 0 ∨ 0x33 ≤ M)

/-- Every step keeps memory in its canonical form: addresses strictly rising, and no byte listed that reads as unlisted.
The model's own readings here: log entry 5. -/
def Obligations.StepKeepsMemoryCanonical : Prop := ∀ s t : State, s.memWf = true → step s = .next t → t.memWf = true

/-- R12, R39, R249, R255: what reset leaves. No context is defined, nothing is resident or queued, no work is in flight, every
core's registers are clear and its aging limit is 8; the vaults read 0, and the memory that nothing has written, in canonical
form, reads as the model's log entry 5 has it. -/
def Obligations.ResetState : Prop :=
  State.reset.memWf = true ∧ (∀ a, State.reset.mem.readByte a = 0) ∧ State.reset.now = 0 ∧ State.reset.ctxs = [] ∧
  State.reset.launches = [] ∧ State.reset.cas = [] ∧ State.reset.panes = [] ∧ State.reset.units = [] ∧ State.reset.pend = [] ∧
  State.reset.tlb = [] ∧ State.reset.owner = [] ∧ State.reset.poison = [] ∧ State.reset.dev.regions = [] ∧
  State.reset.dev.bindings = [] ∧ State.reset.dev.limit = 3200 ∧ State.reset.dev.resets = 1 ∧
  (∀ c, (State.reset.core c).agelim = 8 ∧ (State.reset.core c).baton = none ∧ (State.reset.core c).engQ = [] ∧
    (State.reset.core c).mx = ⟨[], [], []⟩) ∧
  (∀ g, (State.reset.wp g).vw = 0 ∧ (State.reset.wp g).busy = false) ∧
  ∀ (cas px slot vcnt k q : Nat), let p := PaneSt.start cas px slot vcnt
    Sparse.read p.regs (rkey k q) = 0 ∧ p.pred k = 0 ∧ p.buf k = 0 ∧ p.fmode = 0 ∧ p.fstat = 0 ∧ p.uhv = 0 ∧ p.vcnt = vcnt

/-! ## Causes and handlers -/

/-- R78, R164, R230, R234, R235, R238, R240: the causes that every instruction with a word meets first, in their order: a cause
that waits for the unit, its epc naming the next instruction where the unit has passed `sfw`; ILLEGAL; nothing under an empty
mask; PRIV in user mode; REGS; its own causes of that rank; HAZARD; PARTIAL; and POISON, which only a cause of lower rank of
the instruction's own precedes.
The model's own readings here: log entry 16. -/
def Obligations.CommonCausesInOrder : Prop := ∀ (i : Instr) (s : State) (v : View), i.hasWord = true → s.view = some v →
  (∀ d, v.u.dueDeferred = some d →
    let n := match v.u.park with
      | .wait (.tokens _) => v.u.advance (1 + wordExtra v.u.word.toNat v.u.rest) s.now
      | _ => v.u
    exec i s = .next ((s.putUnit v.uid { n with defer := n.defer.filter fun x => x ≠ d }).deliver v.uid
      { cause := d.cause, mask := d.emask, efd := d.efd, eaddr := d.eaddr, erem := d.erem } d.ecw (epcOf n.pc n.idx))) ∧
  (v.u.dueDeferred = none →
    let e := earlyOf i v
    let codes := namedCodes i ++ e.codes
    let whole := needsFull i || e.full
    (∀ r, i.illegal = some r → TrapsWith i s v (illegalTrap v r i.namesLit)) ∧
    (∀ r, i.illegal = none → e.illegal = some r → (∀ q a, i ≠ .qw q a) → TrapsWith i s v (illegalTrap v r i.namesLit)) ∧
    (i.illegal = none → e.illegal = none →
      (v.E = 0 → actsEmpty i = false → whole = false → Stays i s v v.u) ∧
      (v.E ≠ 0 ∨ actsEmpty i = true ∨ whole = true →
        (∀ ix, v.u.sup = false → privIndex i = some ix → TrapsWith i s v { cause := 3, mask := v.E, efd := ix }) ∧
        (v.u.sup = true ∨ privIndex i = none →
          (∀ c, codes.find? (undeclared v.p v.l) = some c → TrapsWith i s v { cause := 0x18, mask := v.E, efd := c }) ∧
          (codes.find? (undeclared v.p v.l) = none →
            (∀ t, e.rank4 = some t → t.word = none → TrapsWith i s v t) ∧
            (e.rank4 = none → let hz := (hazardCodes i ++ e.codes ++ e.bufs.map fun n => 128 + n).findSome? (hazardOn v)
              (∀ c k cl, hz = some (c, k, cl) → TrapsWith i s v
                { cause := 6, mask := v.E, efd := c % 128 + (if c < 128 then k else 3) * 256, efa := cl }) ∧
              (hz = none → whole = true → v.notFull = true → TrapsWith i s v { cause := 5, mask := v.E }) ∧
              (hz = none → (whole && v.notFull) = false → v.E ≠ 0 → ∀ t, poisonTrap v i = some t →
                TrapsWith i s v t ∨ ∃ s1 t' w, rankOf t'.cause < 13 ∧
                  exec i s = .next (State.deliver s1 v.uid t' w (epcOf v.u.pc v.u.idx)))))))))

/-- R231 to R233, R236, R309, R310: a raised cause is written to the unit's e-registers and reaches the handler at uhv, for a
user cause outside any handler, or at phv in supervisor mode, or ends the context; `trap`, `sys` and `brk` raise theirs, and
`eret` leaves the innermost level for the word that epc names, as a transfer that ends its clause, ends a save routine once its
stores are performed, or ends the context after a watchdog. The model's own readings here: log entries 18, 38 and 54. -/
def Obligations.DeliveryAndReturn : Prop := ∀ (s : State),
  (∀ (uid word epc : Nat) (t : Trap) (u : UnitSt) (p : PaneSt), s.units.find uid = some u → s.panes.find u.pane = some p →
    let ctx := ((s.launchOfPane u.pane).map LaunchSt.ctx).getD 0
    let c := s.ctx ctx
    let nests := userCause t.cause = true ∧ u.level = .user
    let written := fun (e : UnitSt) => e.ecause = w64 (t.cause + if nests then 256 else 0) ∧ e.epc = w64 epc ∧ e.ecw = w64 word ∧
      e.efd = w64 t.efd ∧ e.efa = w64 t.efa ∧ e.efb = w64 t.efb ∧ e.eaddr = w64 t.eaddr ∧ e.emask = t.mask ∧
      e.erem = (if t.cause = 0x0A ∨ t.cause = 0x0B then w64 t.erem else u.erem) ∧ e.xm = u.xm ∧ e.domain = u.domain ∧
      e.rstack = u.rstack ∧ e.cstack = u.cstack ∧ e.idx = 0 ∧ e.entered = false
    let ends := u.level.inSup = true ∨ t.cause = 0x0F ∧ bits c.ctxcfg.toNat 1 1 = 1
    let user := userCause t.cause = true ∧ u.level = .none ∧ p.uhv ≠ 0 ∧ bits c.ctxcfg.toNat 0 1 = 0
    (ends → s.deliver uid t word epc = s.terminate ctx t.cause epc) ∧
    (¬ends → user → ∃ e, OnlyUnit s (s.deliver uid t word epc) uid e ∧ written e ∧ e.level = .user ∧ e.sup = false ∧
      e.pc = p.uhv.toNat % 2 ^ 57) ∧
    (¬ends → ¬user → c.phv = 0 → s.deliver uid t word epc = s.terminate ctx t.cause epc) ∧
    (¬ends → ¬user → c.phv ≠ 0 → ∃ e, OnlyUnit s (s.deliver uid t word epc) uid e ∧ written e ∧ e.sup = true ∧
      e.pc = c.phv.toNat % 2 ^ 57 ∧ e.level = (if t.cause = 0x0C ∨ t.cause = 0x0D then .watchdog
        else if u.level = .user then .nested else .sup))) ∧
  ∀ v, (∀ k, Ready (.trap k) s v → TrapsWith (.trap k) s v { cause := 0x11, mask := v.E, efd := k }) ∧
    (∀ k, Ready (.sys k) s v → TrapsWith (.sys k) s v { cause := 0x12, mask := v.E, efd := k }) ∧
    (Ready .brk s v → TrapsWith .brk s v { cause := 0x14, mask := v.E }) ∧
    (Ready .eret s v →
      (v.u.level = .user ∨ v.u.level = .sup ∨ v.u.level = .nested → v.u.logHeld = false → ∃ t, exec .eret s = .next t ∧
        OnlyUnit s t v.uid (UnitSt.endClause { v.u.issued s.now with
          level := if v.u.level = Level.nested then Level.user else Level.none, sup := false }
          (v.u.epc.toNat % 2 ^ 57) s.now (bits v.u.epc.toNat 59 4))) ∧
      (v.u.level = .save → s.allPerformed v.uid = true → ∃ t p, exec .eret s = .next t ∧ t.units.find v.uid = none ∧
        t.panes.find v.pid = some p ∧ p.saved = true ∧ t.mem = s.mem) ∧
      (v.u.level = .save → s.allPerformed v.uid = false → ∃ t, exec .eret s = .next t ∧
        OnlyUnit s t v.uid (v.u.parkOn .performed s.now)) ∧
      (v.u.level = .watchdog ∨ v.u.level = .resume →
        exec .eret s = .next (s.terminate v.ctx (v.u.ecause.toNat % 256) v.u.epc.toNat)))

/-! ## Vector, shared and scalar results -/

/-- R319: the two-operand integer rows of Table 3, element by element, at every width. Counts of the width or more give 0
for `ishl` and `ishr`. -/
def Obligations.IntegerTwoOperandResults : Prop := ∀ (w : IWidth) (d a b : Opnd), let W := ibits w
  Int2 (.iadd w d a b) w d a b (fun x y => (x + y) % 2 ^ W) ∧
  Int2 (.isub w d a b) w d a b (fun x y => (x + (2 ^ W - y)) % 2 ^ W) ∧
  Int2 (.imul w d a b) w d a b (fun x y => x * y % 2 ^ W) ∧
  Int2 (.imulh w d a b) w d a b (fun x y => wrap W (signed W x * signed W y / 2 ^ W)) ∧
  Int2 (.imulhu w d a b) w d a b (fun x y => x * y / 2 ^ W) ∧
  Int2 (.imin w d a b) w d a b (fun x y => if signed W x ≤ signed W y then x else y) ∧
  Int2 (.imax w d a b) w d a b (fun x y => if signed W x ≤ signed W y then y else x) ∧
  Int2 (.iminu w d a b) w d a b (fun x y => min x y) ∧
  Int2 (.imaxu w d a b) w d a b (fun x y => max x y) ∧
  Int2 (.iand w d a b) w d a b (fun x y => x &&& y) ∧
  Int2 (.ior w d a b) w d a b (fun x y => x ||| y) ∧
  Int2 (.ixor w d a b) w d a b (fun x y => x ^^^ y) ∧
  Int2 (.iandn w d a b) w d a b (fun x y => x &&& (2 ^ W - 1 - y)) ∧
  Int2 (.ishl w d a b) w d a b (fun x y => x * 2 ^ y % 2 ^ W) ∧
  Int2 (.ishr w d a b) w d a b (fun x y => x / 2 ^ y) ∧
  Int2 (.isar w d a b) w d a b (fun x y => wrap W (signed W x / 2 ^ min y (W - 1))) ∧
  Int2 (.irot w d a b) w d a b (fun x y => (x * 2 ^ (y % W) + x / 2 ^ (W - y % W)) % 2 ^ W) ∧
  Int2 (.iadds w d a b) w d a b (fun x y => wrap W (clampS W (signed W x + signed W y))) ∧
  Int2 (.isubs w d a b) w d a b (fun x y => wrap W (clampS W (signed W x - signed W y)))

/-- R319: the one-operand integer rows, each by what its bits say, and the multiply-add `imad`. -/
def Obligations.IntegerOneOperandAndMultiplyAddResults : Prop := ∀ (w : IWidth) (d a b : Opnd), let W := ibits w
  Int1 (.iabs w d a) w d a (fun x r => (r : Int) = if 0 ≤ signed W x then (x : Int) else 2 ^ W - x) ∧
  Int1 (.iclz w d a) w d a (fun x r => r ≤ W ∧ x < 2 ^ (W - r) ∧ (r < W → 2 ^ (W - r - 1) ≤ x)) ∧
  Int1 (.ipopc w d a) w d a (fun x r => r = ((List.range W).filter fun k => x.testBit k).length) ∧
  Int1 (.ibrev w d a) w d a (fun x r => ∀ k, k < W → r.testBit k = x.testBit (W - 1 - k)) ∧
  ∀ s v, Ready (.imad w d a b) s v → Gives (.imad w d a b) s v d fun q r => ∀ e, e < 64 / W →
    sub W e r = (sub W e (v.rd (.imad w d a b) a q) * sub W e (v.rd (.imad w d a b) b q) +
      sub W e (v.rd (.imad w d a b) d q)) % 2 ^ W

/-- R321: the bit-field rows by the field's position P and effective length L = min(length, 64 − P), bit by bit; and the moves
`sel` (R360) and `mov` (R342). -/
def Obligations.BitFieldAndMoveResults : Prop := ∀ (d a b : Opnd) (p : Nat) (c : Fin 64) s v,
  let P := fun (y : Word) => y.toNat % 64
  let L := fun (y : Word) => min (y.toNat / 256 % 128) (64 - y.toNat % 64)
  (Ready (.ibfx d a b) s v → Gives (.ibfx d a b) s v d fun q r =>
    let x := v.rd (.ibfx d a b) a q
    let y := v.rd (.ibfx d a b) b q
    ∀ k, k < 64 → r.getLsbD k = (decide (k < L y) && x.getLsbD (P y + k))) ∧
  (Ready (.ibfxS d a b) s v → Gives (.ibfxS d a b) s v d fun q r =>
    let x := v.rd (.ibfxS d a b) a q
    let y := v.rd (.ibfxS d a b) b q
    ∀ k, k < 64 → r.getLsbD k = (decide (L y ≠ 0) && x.getLsbD (P y + min k (L y - 1)))) ∧
  (Ready (.ibfi d a b) s v → Gives (.ibfi d a b) s v d fun q r =>
    let x := v.rd (.ibfi d a b) a q
    let y := v.rd (.ibfi d a b) b q
    ∀ k, k < 64 → r.getLsbD k =
      if P y ≤ k ∧ k < P y + L y then x.getLsbD (k - P y) else (v.rd (.ibfi d a b) d q).getLsbD k) ∧
  (Ready (.sel p d a c) s v → Gives (.sel p d a c) s v d fun q r =>
    r = if bitAt (v.p.pred p) q then v.rd (.sel p d a c) a q else v.rd (.sel p d a c) (.v c) q) ∧
  (Ready (.mov d a) s v → Gives (.mov d a) s v d fun q r => r = v.rd (.mov d a) a q)

/-- R320, R314, R103: a comparison writes the bit of every active position from element [0] and no other bit; `fcmp`, where no
enabled condition arises, sets the union of its conditions, and else takes FPX at the positions that raise an enabled one;
`rngck` marks the values outside −2^n to 2^n − 1 and sets RV (bit 10) where one is. -/
def Obligations.ComparisonResults : Prop := ∀ (w : IWidth) (t : FType) (ci : ICond) (cf : FCond) (p : Nat) (a b : Opnd) s v,
  (Ready (.icmp ci w p a b) s v → Marks (.icmp ci w p a b) s v p v.E 0 fun q =>
    let i := Instr.icmp ci w p a b
    let x := sub (ibits w) 0 (v.rd i a q)
    let y := sub (ibits w) 0 (v.rd i b q)
    match ci with
    | .eq => decide (x = y)
    | .ne => decide (x ≠ y)
    | .lt => decide (signed (ibits w) x < signed (ibits w) y)
    | .le => decide (signed (ibits w) x ≤ signed (ibits w) y)
    | .ltu => decide (x < y)
    | .leu => decide (x ≤ y)
    | .tst => decide (x &&& y ≠ 0)
    | .ntst => decide (x &&& y = 0)) ∧
  (Ready (.fcmp cf t p a b) s v →
    let i := Instr.fcmp cf t p a b
    let r := fun q => fpCmp (Fmt.ofType t) v.mode cf (sub (fbits t) 0 (v.rd i a q)) (sub (fbits t) 0 (v.rd i b q))
    let quiet := ∀ q, bitAt v.E q = true → (r q).2 &&& v.mode.te = 0
    let union := fun (fl : Nat) => ∀ k, fl.testBit k = true ↔ ∃ q, bitAt v.E q = true ∧ (r q).2.testBit k = true
    (quiet → ∃ fl, union fl ∧ Marks i s v p v.E fl fun q => (r q).1) ∧
    (¬quiet → ∃ (fl : Nat) (m : Mask), union fl ∧ (∀ q, bitAt m q = true ↔ bitAt v.E q = true ∧ (r q).2 &&& v.mode.te ≠ 0) ∧
      exec i s = .next ((v.withPane (v.p.orFstat fl)).deliver v.uid
        { cause := 0x15, mask := m, efd := fl &&& v.mode.te } v.u.word.toNat (epcOf v.u.pc v.u.idx)))) ∧
  (Ready (.rngck p a b) s v →
    let i := Instr.rngck p a b
    let n := (v.rd i b 0).toNat
    let bad := fun q => n ≤ 62 ∧ ¬(-(2 ^ n : Int) ≤ (v.rd i a q).toInt ∧ (v.rd i a q).toInt ≤ 2 ^ n - 1)
    ∃ fl, (fl = 2 ^ 10 ∧ (∃ q, bitAt v.E q = true ∧ bad q) ∨ fl = 0 ∧ ¬∃ q, bitAt v.E q = true ∧ bad q) ∧
      Marks i s v p v.E fl fun q => decide (bad q))

/-- R349: the predicate operations write the active positions alone; `xmst` writes every position of the domain; `xmld` and
`xmand` change the unit's mask, within its domain, and nothing else. -/
def Obligations.PredicateAndMaskResults : Prop := ∀ (k a b : Nat) s v,
  (Ready (.pand k a b) s v → Marks (.pand k a b) s v k v.E 0 fun q => bitAt (v.p.pred a) q && bitAt (v.p.pred b) q) ∧
  (Ready (.por k a b) s v → Marks (.por k a b) s v k v.E 0 fun q => bitAt (v.p.pred a) q || bitAt (v.p.pred b) q) ∧
  (Ready (.pxor k a b) s v → Marks (.pxor k a b) s v k v.E 0 fun q => bitAt (v.p.pred a) q ^^ bitAt (v.p.pred b) q) ∧
  (Ready (.pandn k a b) s v → Marks (.pandn k a b) s v k v.E 0 fun q => bitAt (v.p.pred a) q && !bitAt (v.p.pred b) q) ∧
  (Ready (.pset k) s v → Marks (.pset k) s v k v.E 0 fun _ => true) ∧
  (Ready (.pclr k) s v → Marks (.pclr k) s v k v.E 0 fun _ => false) ∧
  (Ready (.xmst k) s v → Marks (.xmst k) s v k v.u.domain 0 fun q => bitAt v.u.xm q) ∧
  (Ready (.xmld k) s v → ∃ t m, exec (.xmld k) s = .next t ∧
    OnlyUnit s t v.uid (v.past (.xmld k) { v.u with xm := m }) ∧
    ∀ q, bitAt m q = (bitAt (v.p.pred k) q && bitAt v.u.domain q)) ∧
  (Ready (.xmand k) s v → ∃ t m, exec (.xmand k) s = .next t ∧
    OnlyUnit s t v.uid (v.past (.xmand k) { v.u with xm := m }) ∧
    ∀ q, bitAt m q = (bitAt v.u.xm q && bitAt (v.p.pred k) q))

/-- R317, R101, R102, R349: `fxmac` adds the shifted product clamped to 64 bits, RV where either leaves the range; `pvsel`
gives each member's pivot lane, the lowest of the largest magnitudes (all ones and PZ without a candidate, PZ for a zero
pivot); `pvreg` replaces a magnitude below τ, with PT; `pcnt` counts and `pbits` collects active predicate bits. -/
def Obligations.FixedPointAndPivotResults : Prop := ∀ (f32 : Bool) (sh k : Nat) (d a b : Opnd) s v,
  (Ready (.fxmac sh d a b) s v →
    let i := Instr.fxmac sh d a b
    let P := fun q => (v.rd i a q).toInt * (v.rd i b q).toInt / 2 ^ (4 * sh)
    let S := fun q => (v.rd i d q).toInt + P q
    let out := fun q => ¬(-(2 ^ 63 : Int) ≤ P q ∧ P q < 2 ^ 63 ∧ -(2 ^ 63 : Int) ≤ S q ∧ S q < 2 ^ 63)
    ∃ fl, (fl = 2 ^ 10 ∧ (∃ q ∈ v.slots i, out q) ∨ fl = 0 ∧ ¬∃ q ∈ v.slots i, out q) ∧
      GivesFlags i s v d fl fun q r => r.toInt = max (-(2 ^ 63)) (min (S q) (2 ^ 63 - 1))) ∧
  (Ready (.pvsel f32 d a b) s v →
    let i := Instr.pvsel f32 d a b
    let f := if f32 then Fmt.f32 else Fmt.f64
    let key := fun l m => pivotKey f (bits (v.rd i a (posOf l m)).toNat 0 f.width)
    let cand := fun l m => l < 32 ∧ v.scalar b ≤ l ∧ bitAt v.E (posOf l m) = true
    let best := fun l m => cand l m ∧ ∀ l', cand l' m → key l' m ≤ key l m ∧ (key l' m = key l m → l ≤ l')
    let zero := fun m => ∀ l, cand l m → key l m = 0
    ∃ fl, (fl = 2 ^ 8 ∧ (∃ q, bitAt v.E q = true ∧ zero (q / 32)) ∨ fl = 0 ∧ ¬∃ q, bitAt v.E q = true ∧ zero (q / 32)) ∧
      GivesFlags i s v d fl fun q r =>
        (∃ l, best l (q / 32) ∧ r = w64 l) ∨ (¬∃ l, cand l (q / 32)) ∧ r = w64 (2 ^ 64 - 1)) ∧
  (Ready (.pvreg f32 d a b) s v →
    let i := Instr.pvreg f32 d a b
    let f := if f32 then Fmt.f32 else Fmt.f64
    let W := f.width
    let A := fun q e => sub W e (v.rd i a q)
    let B := fun q e => sub W e (v.rd i b q)
    let low := fun q e => f.isNaN (A q e) = false ∧ f.isNaN (B q e) = false ∧ A q e % 2 ^ (W - 1) < B q e % 2 ^ (W - 1)
    ∃ fl, (fl = 2 ^ 9 ∧ (∃ q ∈ v.slots i, ∃ e, e < 64 / W ∧ low q e) ∨
        fl = 0 ∧ ¬∃ q ∈ v.slots i, ∃ e, e < 64 / W ∧ low q e) ∧
      GivesFlags i s v d fl fun q r => ∀ e, e < 64 / W →
        (low q e → sub W e r = A q e / 2 ^ (W - 1) * 2 ^ (W - 1) + B q e % 2 ^ (W - 1)) ∧ (¬low q e → sub W e r = A q e)) ∧
  (Ready (.pcnt d k) s v → Gives (.pcnt d k) s v d fun _ r =>
    r.toNat = ((List.range 256).filter fun q => bitAt v.E q && bitAt (v.p.pred k) q).length) ∧
  (Ready (.pbits d k a) s v → Gives (.pbits d k a) s v d fun _ r => ∀ l, l < 64 → r.getLsbD l =
    (decide (l < 32) && bitAt v.E (posOf l (v.scalar a % v.M)) && bitAt (v.p.pred k) (posOf l (v.scalar a % v.M))))

/-- R72, R76, R77, R312, R313: every vector floating-point row completes where no enabled condition arises, with every element the
operation of R72 under the pane's mode on the operands' elements and the union of the conditions in fstat; where one arises, it
takes FPX and writes nothing. -/
def Obligations.FloatingPointResults : Prop := ∀ (t : FType) (d a b : Opnd) s v,
  let W := fbits t
  let f := Fmt.ofType t
  let x := fun i q e => sub W e (v.rd i a q)
  let y := fun i q e => sub W e (v.rd i b q)
  let z := fun i q e => sub W e (v.rd i d q)
  let res := fun (i : Instr) (g : Nat → Nat → FRes) => Ready i s v → Floats i s v d W (64 / W) g
  res (.fadd t d a b) (fun q e => fpAdd f v.mode false (x (.fadd t d a b) q e) (y (.fadd t d a b) q e)) ∧
  res (.fsub t d a b) (fun q e => fpAdd f v.mode true (x (.fsub t d a b) q e) (y (.fsub t d a b) q e)) ∧
  res (.fmul t d a b) (fun q e => fpMul f v.mode (x (.fmul t d a b) q e) (y (.fmul t d a b) q e)) ∧
  res (.ffma t d a b) (fun q e =>
    fpFma f v.mode false false (x (.ffma t d a b) q e) (y (.ffma t d a b) q e) (z (.ffma t d a b) q e)) ∧
  res (.ffms t d a b) (fun q e =>
    fpFma f v.mode false true (x (.ffms t d a b) q e) (y (.ffms t d a b) q e) (z (.ffms t d a b) q e)) ∧
  res (.fnma t d a b) (fun q e =>
    fpFma f v.mode true false (x (.fnma t d a b) q e) (y (.fnma t d a b) q e) (z (.fnma t d a b) q e)) ∧
  res (.fmin t d a b) (fun q e => fpMinMax f v.mode false (x (.fmin t d a b) q e) (y (.fmin t d a b) q e)) ∧
  res (.fmax t d a b) (fun q e => fpMinMax f v.mode true (x (.fmax t d a b) q e) (y (.fmax t d a b) q e)) ∧
  res (.fscl t d a b) (fun q e => fpScl f v.mode (x (.fscl t d a b) q e) (signed W (y (.fscl t d a b) q e))) ∧
  res (.frnd t d a) (fun q e => fpRnd f v.mode (x (.frnd t d a) q e)) ∧
  res (.fclass t d a) (fun q e => ⟨fpClass f (x (.fclass t d a) q e), 0, false⟩) ∧
  res (.fabs t d a) (fun q e => ⟨x (.fabs t d a) q e % 2 ^ (W - 1), 0, false⟩) ∧
  res (.fneg t d a) (fun q e => ⟨(x (.fneg t d a) q e + 2 ^ (W - 1)) % 2 ^ W, 0, false⟩) ∧
  res (.fcpys t d a b) (fun q e =>
    ⟨x (.fcpys t d a b) q e % 2 ^ (W - 1) + y (.fcpys t d a b) q e / 2 ^ (W - 1) * 2 ^ (W - 1), 0, false⟩)

/-- R74, R315: each code of `fcvt` converts the elements that both widths hold and leaves the rest of the copy 0; code 18
writes elements 0 and 1 to d and 2 and 3 to d + 1. -/
def Obligations.ConversionResults : Prop := ∀ (c : CvtCode) (d a : Opnd) s v,
  let i := Instr.fcvt c d a
  let sw := (cvtOp c).1
  let dw := (cvtOp c).2.1
  let n := min (64 / sw) (64 / dw)
  let g := fun lo q e => (cvtOp c).2.2 v.mode (sub sw (lo + e) (v.rd i a q))
  Ready i s v →
    (c ≠ .f32i8x8 → Floats i s v d dw n (g 0)) ∧
    (c = .f32i8x8 → ∃ r t, exec i s = .next t ∧ KeepsRest s t ∧ OneEntry s.units t.units v.uid (v.past i v.u) ∧
      OneEntry s.panes t.panes v.pid { v.p with regs := r } ∧
      (d.isReg = true → ∀ q ∈ v.slots i, ∀ e, e < 2 →
        sub 32 e (Sparse.read r (rkey d.code q)) = (g 0 q e).code % 2 ^ 32 ∧
        sub 32 e (Sparse.read r (rkey (d.code + 1) q)) = (g 2 q e).code % 2 ^ 32) ∧
      ∀ k q, q < 256 → ¬(d.isReg = true ∧ (k = d.code ∨ k = d.code + 1) ∧ q ∈ v.slots i) →
        Sparse.read r (rkey k q) = Sparse.read v.p.regs (rkey k q))

/-- R336, R344: a reduction gives every executing copy the reduction of the participating copies' elements: `mred` and `mspr`
over the active members of the lane, `lred` over the participating lanes, `lscan` over those up to its own lane. `msort` gives
the lane's k-th active member the k-th value of its sorted values, which are a permutation of the values, in order for the
integer types; `mrank` counts the values below its own. The model's own readings here: log entry 20. -/
def Obligations.ReductionSortAndRankResults : Prop := ∀ (t : RType) (d a b : Opnd) s v,
  let res := fun (i : Instr) (op : RedOp) (src : Nat → List Nat) =>
    Ready i s v → Floats i s v d (rbits t) (64 / rbits t) fun q e =>
      redSub op t v.mode ((src q).map fun p => sub (rbits t) e (v.rd i a p))
  let lanes := fun (i : Instr) q => laneMates i.cls v.E q
  res (.mredAdd t d a) .add (fun q => memberOf v.E (q % 32)) ∧
  res (.mredMin t d a) .min (fun q => memberOf v.E (q % 32)) ∧
  res (.mredMax t d a) .max (fun q => memberOf v.E (q % 32)) ∧
  res (.mspr t d a) .spr (fun q => memberOf v.E (q % 32)) ∧
  res (.lredAdd t d a) .add (lanes (.lredAdd t d a)) ∧
  res (.lredMin t d a) .min (lanes (.lredMin t d a)) ∧
  res (.lredMax t d a) .max (lanes (.lredMax t d a)) ∧
  res (.lscan t d a) .add (fun q => (lanes (.lscan t d a) q).filter fun p => decide (p % 32 ≤ q % 32)) ∧
  let vals := fun (i : Instr) q e => (memberOf v.E (q % 32)).map fun p => sub (rbits t) e (v.rd i a p)
  (Ready (.msort t d a) s v → Floats (.msort t d a) s v d (rbits t) (64 / rbits t) fun q e =>
    ⟨(sortVals t (vals (.msort t d a) q e)).getD ((memberOf v.E (q % 32)).filter fun p => p < q).length 0,
      snanSub t (vals (.msort t d a) q e), false⟩) ∧
  (Ready (.mrank t d a b) s v → Floats (.mrank t d a b) s v d (rbits t) (64 / rbits t) fun q e =>
    rankSub t (vals (.mrank t d a b) q e) (sub (rbits t) e (v.rd (.mrank t d a b) b q))) ∧
  ∀ xs, (sortVals t xs).Perm xs ∧
    (redFmt t = none → (sortVals t xs).Pairwise fun x y => signed (rbits t) x ≤ signed (rbits t) y)

/-- R336, R344: the cross-lane and cross-member moves read another copy of a, 0 where the unit's domain does not hold it. -/
def Obligations.CrossLaneMoveResults : Prop := ∀ (d a b : Opnd) s v,
  (Ready (.mbc d a b) s v → Gives (.mbc d a b) s v d fun q r =>
    let i := Instr.mbc d a b
    let p := q % 32 + 32 * ((v.rd i b 0).toNat % v.M)
    r = if a.isV then (if bitAt v.u.domain p then v.rd i a p else 0) else v.rd i a q) ∧
  (Ready (.mshf d a b) s v → Gives (.mshf d a b) s v d fun q r =>
    let i := Instr.mshf d a b
    let p := q % 32 + 32 * ((v.rd i b q).toNat % v.M)
    r = if a.isV then (if bitAt v.u.domain p then v.rd i a p else 0) else v.rd i a q) ∧
  (Ready (.lshf d a b) s v → Gives (.lshf d a b) s v d fun q r =>
    let i := Instr.lshf d a b
    let l := (v.rd i b q).toNat % 32
    let p := if i.cls = .vec then l + 32 * (q / 32) else l
    r = if inDomain i.cls v.u.domain p then v.rd i a p else 0) ∧
  (Ready (.lbc d a b) s v → Gives (.lbc d a b) s v d fun q r =>
    let i := Instr.lbc d a b
    let l := (v.rd i b 0).toNat % 32
    let p := if i.cls = .vec then l + 32 * (q / 32) else l
    r = if inDomain i.cls v.u.domain p then v.rd i a p else 0)

/-! ## Control -/

/-- R51, R52, R214, R291, R298: `bany` is taken where the predicate is 1 in some active position, `ball` where it is in every
one, `jmp` always; `call` pushes the word after its clause, `ret` pops, and both raise RSTACK where R51 says; `bsa` follows its
allowance. The target is the clause's header + 4 × off20, modulo 2^57. -/
def Obligations.UniformTransferResults : Prop := ∀ (p k off : Nat) s v,
  let T := target v.u.pc 20 off
  let c := v.s.ctx v.ctx
  (T : Int) = ((v.u.pc : Int) + 4 * signed 20 off) % 2 ^ 57 ∧
  (Ready (.bany p off) s v →
    ((∃ q, bitAt v.E q = true ∧ bitAt (v.p.pred p) q = true) → Goes (.bany p off) s v v.u T) ∧
    ((¬∃ q, bitAt v.E q = true ∧ bitAt (v.p.pred p) q = true) → Stays (.bany p off) s v v.u)) ∧
  (Ready (.ball p off) s v →
    ((∀ q, bitAt v.E q = true → bitAt (v.p.pred p) q = true) → Goes (.ball p off) s v v.u T) ∧
    ((¬∀ q, bitAt v.E q = true → bitAt (v.p.pred p) q = true) → Stays (.ball p off) s v v.u)) ∧
  (Ready (.jmp off) s v → Goes (.jmp off) s v v.u T) ∧
  (Ready (.call off) s v →
    (v.u.cstack.length < 32 →
      Goes (.call off) s v { v.u with cstack := (v.u.pc + 4 * (v.u.words.length + 1)) % 2 ^ 57 :: v.u.cstack } T) ∧
    (32 ≤ v.u.cstack.length → TrapsWith (.call off) s v (rstackOf v))) ∧
  (Ready .ret s v →
    (v.u.cstack = [] ∨ (∃ e r, v.u.rstack = e :: r ∧ e.depth = v.u.cstack.length) → TrapsWith .ret s v (rstackOf v)) ∧
    ∀ pc r, v.u.cstack = pc :: r → (∀ e r, v.u.rstack = e :: r → e.depth ≠ v.u.cstack.length) →
      Goes .ret s v { v.u with cstack := r } pc) ∧
  (Ready (.bsaFull k off) s v →
    (c.limit k ≠ 0 ∧ (c.limit k : Int) - (v.p.charge.getD k 0 : Nat) ≤ 0 → Goes (.bsaFull k off) s v v.u T) ∧
    (¬(c.limit k ≠ 0 ∧ (c.limit k : Int) - (v.p.charge.getD k 0 : Nat) ≤ 0) → Stays (.bsaFull k off) s v v.u)) ∧
  (Ready (.bsaRoom k off) s v →
    (c.limit k = 0 ∨ 0 < (c.limit k : Int) - (v.p.charge.getD k 0 : Nat) → Goes (.bsaRoom k off) s v v.u T) ∧
    (¬(c.limit k = 0 ∨ 0 < (c.limit k : Int) - (v.p.charge.getD k 0 : Nat)) → Stays (.bsaRoom k off) s v v.u))

/-- R53, R299, R325: `jmpi` and `calli` raise DISAGREE at the positions that differ from the first active one, then ALIGN for a
target that is no multiple of 4, and else go to bits [56:0] of the target; `calli` raises RSTACK first. -/
def Obligations.IndirectTransferResults : Prop := ∀ (a : Opnd) (T : Nat) s v,
  let val := fun q => (v.p.readAt zext a q).toNat
  let differs := fun q => bitAt v.E q = true ∧ val q ≠ T
  let called := { v.u with cstack := (v.u.pc + 4 * (v.u.words.length + 1)) % 2 ^ 57 :: v.u.cstack }
  let align : Trap := { cause := 9, mask := v.E, eaddr := T % 2 ^ 57 }
  (v.E = 0 → T = val 0) → (∀ q, FirstActive v.E q → T = val q) →
  (Ready (.jmpi a) s v →
    ((∃ q, differs q) → ∃ m : Mask, (∀ q, bitAt m q = true ↔ differs q) ∧ TrapsWith (.jmpi a) s v { cause := 4, mask := m }) ∧
    ((¬∃ q, differs q) → T % 4 ≠ 0 → TrapsWith (.jmpi a) s v align) ∧
    ((¬∃ q, differs q) → T % 4 = 0 → Goes (.jmpi a) s v v.u (T % 2 ^ 57))) ∧
  (Ready (.calli a) s v →
    (32 ≤ v.u.cstack.length → TrapsWith (.calli a) s v (rstackOf v)) ∧
    (v.u.cstack.length < 32 →
      ((∃ q, differs q) →
        ∃ m : Mask, (∀ q, bitAt m q = true ↔ differs q) ∧ TrapsWith (.calli a) s v { cause := 4, mask := m }) ∧
      ((¬∃ q, differs q) → T % 4 ≠ 0 → TrapsWith (.calli a) s v align) ∧
      ((¬∃ q, differs q) → T % 4 = 0 → Goes (.calli a) s v called (T % 2 ^ 57))))

/-- R54, R245, R293: `bdiv` moves a uniform unit whole; else the smaller of the taken and the other positions, the taken ones
on a tie, leave the unit as a fragment of the next detach sequence, and each side goes to its own place. Without room for its
log entry it raises LOGFULL. -/
def Obligations.DivergenceOfBdiv : Prop := ∀ (p off : Nat) s v (T F : Mask),
  let i := Instr.bdiv p off
  let pc := target v.u.pc 20 off
  Ready i s v → (∀ q, bitAt T q = (bitAt v.E q && bitAt (v.p.pred p) q)) →
    (∀ q, bitAt F q = (bitAt v.E q && !bitAt (v.p.pred p) q)) →
  (logFull v 1 = true → TrapsWith i s v { cause := 0x0E, mask := v.E }) ∧
  (logFull v 1 = false →
    (T = 0 → Stays i s v v.u) ∧
    (T ≠ 0 → F = 0 → Goes i s v v.u pc) ∧
    (T ≠ 0 → F ≠ 0 → v.s.resultsWritten v.uid = true →
      let out := if countOf T ≤ countOf F then T else F
      let kept := { v.u with domain := v.u.domain &&& ~~~out, xm := v.u.xm &&& ~~~out, uncov := [] }
      let frag := v.u.fragment v.uid s.nextId v.p.nextSeq v.s.now out
      v.uid < s.nextId →
      ∃ t, exec i s = .next t ∧
        t.units.find v.uid = some (if countOf T ≤ countOf F then v.past i kept else v.sent kept pc) ∧
        t.units.find s.nextId =
          some (if countOf T ≤ countOf F then frag.endClause pc v.s.now else frag.advance 1 v.s.now) ∧
        (∀ k, k ≠ v.uid → k ≠ s.nextId → t.units.find k = s.units.find k) ∧
        OneEntry s.panes t.panes v.pid { v.p with nextSeq := v.p.nextSeq + 1 } ∧
        ((v.s.ctx v.ctx).logFlag 2 = false →
          { t with units := s.units, panes := s.panes, nextId := s.nextId } = s)))

/-- R55, R294: `bmw` sends each active position to the first pair's target whose predicate is 1 there, else past the clause;
the largest group, the first of equals, stays, and the others leave as fragments of consecutive sequences, in pair order.
The model's own readings here: log entry 14. -/
def Obligations.DivergenceOfBmw : Prop := ∀ (n : Nat) (pairs : List BmwPair) s v,
  let i := Instr.bmw n pairs
  let gs := (bmwGroups v pairs).filter fun g => g.1 ≠ 0
  (∀ q, bitAt v.E q = true ↔ ∃ x ∈ bmwGroups v pairs, bitAt x.1 q = true) ∧
  (∀ q, bitAt v.E q = true → ∀ m pc, (m, pc) ∈ bmwGroups v pairs → bitAt m q = true →
    match pairs.find? fun x => x.pred = 63 || bitAt (v.p.pred x.pred) q with
    | some x => pc = target v.u.pc 26 x.off
    | none => pc = (v.u.pc + 4 * (v.u.words.length + 1)) % 2 ^ 57) ∧
  (Ready i s v → logFull v n = true → TrapsWith i s v { cause := 0x0E, mask := v.E }) ∧
  (Ready i s v → logFull v n = false →
    (v.E = 0 → Goes i s v v.u (match pairs.find? fun x => x.pred = 63 with
      | some x => target v.u.pc 26 x.off
      | none => (v.u.pc + 4 * (v.u.words.length + 1)) % 2 ^ 57)) ∧
    (∀ g, gs = [g] → Goes i s v v.u g.2) ∧
    (∀ g r, gs = g :: r → r ≠ [] → v.s.resultsWritten v.uid = true → v.uid < s.nextId →
      let stay := largestGroup g r
      let out := gs.filter fun x => x ≠ stay
      (stay ∈ gs ∧ ∀ x ∈ gs, countOf x.1 ≤ countOf stay.1) ∧
      ∃ t m, exec i s = .next t ∧
        (∀ q, bitAt m q = true ↔ ∃ x ∈ out, bitAt x.1 q = true) ∧
        t.units.find v.uid =
          some (v.sent { v.u with domain := v.u.domain &&& ~~~m, xm := v.u.xm &&& ~~~m, uncov := [] } stay.2) ∧
        OneEntry s.panes t.panes v.pid { v.p with nextSeq := v.p.nextSeq + out.length } ∧
        (∀ k, k ≠ v.uid → k < s.nextId ∨ s.nextId + out.length ≤ k → t.units.find k = s.units.find k) ∧
        ∀ k, k < out.length → t.units.find (s.nextId + k) =
          some ((v.u.fragment v.uid (s.nextId + k) (v.p.nextSeq + k) v.s.now (out.getD k (0, 0)).1).endClause
            (out.getD k (0, 0)).2 v.s.now)))

/-- R56, R57, R326, R353: `rcv` pushes its join clause and call depth, RSTACK at 32 entries; `join` raises RSTACK off the top
entry's clause or depth, else parks the unit without its seat, and when its group has all arrived the group merges under the
lowest sequence with the union of the domains and masks and the entry popped. The model's own readings here: log entry 14. -/
def Obligations.ReconvergenceResults : Prop := ∀ (off : Nat) s v,
  (Ready (.rcv off) s v →
    (32 ≤ v.u.rstack.length → TrapsWith (.rcv off) s v (rstackOf v)) ∧
    (v.u.rstack.length < 32 → ∃ t e, exec (.rcv off) s = .next t ∧
      e.join = target v.u.pc 20 off ∧ e.depth = v.u.cstack.length ∧
      OnlyUnit { s with nextId := s.nextId + 1 } t v.uid (v.past (.rcv off) { v.u with rstack := e :: v.u.rstack }))) ∧
  (Ready .join s v →
    (v.u.rstack = [] ∨ (∃ e r, v.u.rstack = e :: r ∧ (e.join ≠ v.u.pc ∨ e.depth ≠ v.u.cstack.length)) →
      TrapsWith .join s v (rstackOf v)) ∧
    ∀ e r, v.u.rstack = e :: r → e.join = v.u.pc → e.depth = v.u.cstack.length → logFull v 1 = false →
      v.s.resultsWritten v.uid = true → (v.s.ctx v.ctx).logFlag 2 = false →
      let parked := { v.u.issued v.s.now with park := .join e.id, parkedAt := v.s.now, seated := false }
      let group := (s.units.put v.uid parked).filter fun q => q.2.pane = v.pid ∧ q.2.rstack.any fun x => x.id == e.id
      ((∃ q ∈ group, q.2.park ≠ .join e.id) → ∃ t, exec .join s = .next t ∧ OnlyUnit s t v.uid parked) ∧
      ((∀ q ∈ group, q.2.park = .join e.id) → ∃ t low u', exec .join s = .next t ∧ t.mem = s.mem ∧
        low ∈ group ∧ (∀ q ∈ group, low.2.seq ≤ q.2.seq) ∧
        t.units.find low.1 = some u' ∧ u'.seq = low.2.seq ∧ u'.cstack = low.2.cstack ∧ u'.rstack = low.2.rstack.tail ∧
        (∀ b, bitAt u'.domain b = true ↔ ∃ q ∈ group, bitAt q.2.domain b = true) ∧
        (∀ b, bitAt u'.xm b = true ↔ ∃ q ∈ group, bitAt q.2.xm b = true) ∧
        (∀ q ∈ group, q.1 ≠ low.1 → t.units.find q.1 = none)))

/-- R311, R347, R371: `exit` ends its unit once its accesses are performed and its batches have room, and the pane has wholly
exited when no unit of it is left; `nop` only goes on; `tyld` goes on without its seat. -/
def Obligations.EndAndYieldResults : Prop := ∀ s v,
  (Ready .nop s v → Stays .nop s v v.u) ∧
  (Ready .tyld s v → ∃ t, exec .tyld s = .next t ∧
    OnlyUnit s t v.uid { v.past .tyld v.u with seated := false, queuedAt := v.s.now }) ∧
  (Ready .exit s v → v.s.allPerformed v.uid = true → v.u.fails = [] → v.u.level ≠ .watchdog →
    blockedLanes v v.u.domain = [] → ∃ t, exec .exit s = .next t ∧ t.units.find v.uid = none ∧
      ∀ p, t.panes.find v.pid = some p → p.exited = decide (∀ q ∈ t.units, q.2.pane ≠ v.pid))

/-! ## Memory -/

/-- R24, R125, R126, R127: the element addresses of a memory instruction. Where every check passes, each executing copy has the
address base + Swizzle(X) × stride, plus member n's n × mstride × 64 KiB under per-member records, its index clamped to the last
element under OOB 2, and none where the index is out of bounds. Malformed records, missing permission, an index out of bounds
under OOB 1 and a misaligned address trap, in that order; a narrower class through a per-member record raises DISAGREE first. -/
def Obligations.ElementAddresses : Prop := ∀ (v : View) (i : Instr) (n width : Nat) (k : Perm) (x : Opnd),
  let r := v.p.buf n
  let X := fun q => (v.rd i x q).toNat
  let at_ := fun y q => BufRec.base r + swizzle r y * BufRec.stride r +
    (if BufRec.mmode r = 1 then (v.ca.gm * v.M + q / 32) * BufRec.mstride r * 65536 else 0)
  let addr := fun q => if X q < BufRec.extent r then some (at_ (X q) q)
    else if BufRec.oob r = 2 ∧ 0 < BufRec.extent r then some (at_ (BufRec.extent r - 1) q) else none
  let narrow := i.cls ≠ .vec ∧ BufRec.mmode r = 1
  let inside := BufRec.oob r = 1 → ∀ q ∈ v.slots i, X q < BufRec.extent r
  let reached := ∀ q ∈ v.slots i, ∀ a, addr q = some a → a < 2 ^ 57 ∧ ((remoteNode v.s.dev r).isSome → a < 2 ^ 41)
  let aligned := ∀ q ∈ v.slots i, ∀ a, addr q = some a → a % width = 0
  (narrow → v.resolve i n k width x = .error { cause := 4, mask := v.E }) ∧
  (¬narrow → BufRec.malformed r = true → v.resolve i n k width x = .error (boundsTrap n 1 v.E 0)) ∧
  (¬narrow → BufRec.malformed r = false → k.granted r = false → v.resolve i n k width x = .error (boundsTrap n 2 v.E 0)) ∧
  (¬narrow → BufRec.malformed r = false → k.granted r = true → ¬inside → ∃ m : Mask,
    (∀ p, bitAt m p = true ↔ bitAt v.E p = true ∧ slotAt i.cls p ∈ v.slots i ∧ BufRec.extent r ≤ X (slotAt i.cls p)) ∧
    v.resolve i n k width x = .error (boundsTrap n 0 m 0)) ∧
  (¬narrow → BufRec.malformed r = false → k.granted r = true → inside → reached → ¬aligned → ∃ (m : Mask) (a : Nat),
    (∀ p, bitAt m p = true ↔ bitAt v.E p = true ∧ slotAt i.cls p ∈ v.slots i ∧
      ∃ b, addr (slotAt i.cls p) = some b ∧ b % width ≠ 0) ∧
    (∃ q ∈ v.slots i, addr q = some a ∧ a % width ≠ 0) ∧
    (∀ q ∈ v.slots i, ∀ b, addr q = some b → b % width ≠ 0 → a ≤ b) ∧
    v.resolve i n k width x = .error { cause := 9, mask := m, eaddr := a }) ∧
  (¬narrow → BufRec.malformed r = false → k.granted r = true → inside → reached → aligned → ∃ es,
    v.resolve i n k width x = .ok es ∧ es.map Elem.slot = v.slots i ∧ ∀ e ∈ es, e.ea = addr e.slot ∧
      ∀ p, bitAt e.mask p = true ↔ bitAt v.E p = true ∧ slotAt i.cls p = e.slot)

/-- R128, R222, R223, R224: translation. A context without tables, a missing frame and an access its leaf forbids each end as
Table 3 says, an access that its leaf allows reaches the leaf's frame at the address's offset in the page, and an access within
one line and outside the vault has that one place. The model's own readings here: log entry 22. -/
def Obligations.TranslationOfOneLine : Prop := ∀ (s : State) (ctx va : Nat) (k : AccKind) (l : Leaf),
  ((s.ctx ctx).ptroot.toNat % 2 = 0 → s.xlate ctx k va = .trap 0x1A) ∧
  ((s.ctx ctx).ptroot.toNat % 2 = 1 → s.tlb.find (tlbKey ctx va) = none →
    walk s.dev s.mem (s.ctx ctx).ptroot.toNat va = .leaf l →
    let pa := bits l.e 16 36 * 65536 + va % 2 ^ l.shift
    let writes := k = .write ∨ k = .atomic
    (frameOf s.dev pa = .none → s.xlate ctx k va = .trap 0x1A) ∧
    (frameOf s.dev pa ≠ .none →
      (writes → l.w = false → s.xlate ctx k va = .pageFault 1) ∧
      (k = .fetch → l.x = false → s.xlate ctx k va = .pageFault 2) ∧
      ((writes → l.w = true) → (k = .fetch → l.x = true) →
        (l.ap = 3 → s.xlate ctx k va = .trap 0x08) ∧
        ((frameOf s.dev pa).local = true → l.ap ≠ 3 → s.xlate ctx k va = .ok pa l ∧
          ∀ (a : Acc), a.ea % 2 ^ 57 = va → 0 < a.size → a.ea % 64 + a.size ≤ 64 → a.size ≤ 64 →
            (∀ g off, frameOf s.dev pa ≠ .vault g off) →
            (s.locate ctx k [a]).locs = [(a, [⟨va, a.size, pa, l⟩])] ∧ (s.locate ctx k [a]).traps = [] ∧
            (s.locate ctx k [a]).faults = [] ∧ (s.locate ctx k [a]).busy = none))))

/-- R128, R144, R264, R297, R332: `ld` and `bset` complete wherever their lines all translate here: one Load-kind piece of work
is in flight, the destinations not covered, and, outside a traced launch, memory and every register as before. That work is the
read, which its homes will serve, or, where every word is in L1 and nothing is ahead, the results: every element the value of
its bytes at their homes, extended as the instruction says, 0 for an element whose index failed; `bset` its record. The values
hold without poison, for a coherent L1 and a unit that has no store of its own pending.
The model's own readings here: log entry 8. -/
def Obligations.GlobalLoadResults : Prop := ∀ (c : MCount) (sx : Bool) (mw : MWidth) (d x : Opnd) (n m : Nat) (p : CPol) s v es,
  (let i := Instr.ld c sx mw d x n p
    let r := v.request i (.load sx mw.bytes) n p (spread (v.inOrder i.cls es) (mcount c) mw.bytes fun k e a =>
      ⟨e.mask, a, mw.bytes, 0, 0, [rkey (d.code + k) e.slot], false⟩) (missedKeys (v.inOrder i.cls es) d.code (mcount c))
    Ready i s v → v.resolve i n .rd mw.bytes x = .ok es → AccessClear v .load r →
    ReadIssued i s v .load 0 r (fun _ => v.past i (v.flying .load (destCodes d (mcount c)))) ∧
      (∀ e ∈ es, e.ea = none → ∀ k, k < mcount c → rkey (d.code + k) e.slot ∈ r.zeros)) ∧
  (let i := Instr.bset n x m
    let r := v.request i (.bset n) m .dflt (spread es 1 32 fun _ e a => ⟨e.mask, a, 32, 0, 0, [], false⟩) []
    Ready i s v → v.resolve i m .rd 32 x = .ok es → AccessClear v .load r →
    ReadIssued i s v .load 0 r (fun _ => v.past i (v.flying .load [128 + n])))

/-- R128, R143 to R145, R261, R365: `st` completes wherever its lines all translate here, and the unit's Store count grows. It
writes its elements at once where its core owns every word under the cached policy and nothing of its unit is ahead, and leaves
them in flight else, the cached parts to be registered and the others to be written. Without a dirty map, conflict sampling, an
ownership log, a trace or poison, no register changes and outside the stored bytes memory is as before. The model's own readings
here: log entries 8 and 24. -/
def Obligations.GlobalStoreResults : Prop := ∀ (c : MCount) (mw : MWidth) (d x : Opnd) (n : Nat) (p : CPol) s v es,
  let i := Instr.st c mw d x n p
  let r := v.request i .store n p (spread (v.inOrder i.cls es) (mcount c) mw.bytes fun k e a =>
    ⟨e.mask, a, mw.bytes, v.dataAt i d k e.slot % 2 ^ (8 * mw.bytes), 0, [], false⟩) []
  let cs := (s.locateReq v.ctx r).locs.flatMap fun q => chunksOf q.1.bad q.1.data q.2
  let cached := (cs.filter fun q => policyOf p q.2 = .dflt).map Prod.fst
  let others := (cs.filter fun q => policyOf p q.2 ≠ .dflt).map Prod.fst
  let atOnce := others = [] ∧ (∀ q ∈ cached, s.ownsAll v.core q = true) ∧ s.ownStores v.uid s.nextId = [] ∧ s.allBound v.uid = true
  Ready i s v → v.resolve i n .wr mw.bytes x = .ok es → AccessClear v .store r →
  ∃ t, exec i s = .next t ∧ OneEntry s.units t.units v.uid (v.past i (v.flying .store [])) ∧
    (Plain s v → KeepsRegisters s t ∧ (atOnce → Written s t cached)) ∧
    (¬atOnce → t.mem = s.mem ∧ ((s.ctx v.ctx).logFlag 3 = false → OnlyCaches s t) ∧
      (cached ≠ [] → FliesAs s t v .store 0 (.store cached)) ∧
      (others ≠ [] → FliesAs s t v .store (min 1 cached.length) (.write others)))

/-- R144, R145, R160, R264: what ends an access in flight. LOAD_REPLY binds a read that its homes serve, from the values there,
and later writes its results and no other register; STORE_REGISTRATION_ACK performs a store at its home, which registers its
words to the core, and later ends with the acknowledgement; WRITE_ACKNOWLEDGED writes the bytes, ORs the flags that `rqt` raised
into fstat, or records ordered atomics; REGISTRY_RECALL takes a word's ownership back and changes no value. Each completes when
its work is due; the bytes of memory are those of the work without a dirty map, conflict sampling, an ownership log or poison.
The model's own readings here: log entries 8, 24 and 55. -/
def Obligations.CompletionOfAccesses : Prop := ∀ (id : Nat) (s : State) (p : Pend) (x : PaneSt),
  s.pend.find id = some p → p.id = id → p.due ≤ s.now → p.held = false → s.panes.find p.pane = some x →
  let plain := ((s.launchOfPane p.pane).map LaunchSt.det).getD false = false ∧ (s.ctx p.ctx).mapsOff ∧
    (s.ctx p.ctx).logFlag 3 = false ∧ s.poison = []
  let acking := fun (cs : List Chunk) =>
    some { p with work := .acking, kind := .other, resv := 0, due := s.now + ackTime p.core cs }
  (∀ ws bufs flags, p.work = .regs ws bufs [] flags → ∃ t x', exec (.loadReply id) s = .next t ∧ t.mem = s.mem ∧
    t.pend.find id = none ∧ OneEntry s.panes t.panes p.pane x' ∧ t.units = s.units ∧ x'.fstat = x.fstat ||| w64 (flags % 4096) ∧
    (∀ w ∈ ws, w.1 < 126 * 256 → (∀ y ∈ ws, y.1 = w.1 → y.2 = w.2) → Sparse.read x'.regs w.1 = w.2) ∧
    (∀ key, (∀ w ∈ ws, w.1 ≠ key) → Sparse.read x'.regs key = Sparse.read x.regs key) ∧
    (∀ b ∈ bufs, (∀ y ∈ bufs, y.1 = b.1 → y.2 = b.2) → x'.buf b.1 = b.2) ∧
    (∀ k, (∀ b ∈ bufs, b.1 ≠ k) → x'.buf k = x.buf k) ∧ x'.preds = x.preds ∧ x'.lanes = x.lanes) ∧
  (∀ r locs, p.work = .reads r locs → r.op.servedAtHome = true → s.servable p r locs = true → ∃ t w,
    exec (.loadReply id) s = .next t ∧ t.workOf id = some w ∧
    ((∀ l, s.launchOfPane p.pane = some l → l.traced = false) → t.mem = s.mem ∧ t.panes = s.panes ∧ t.units = s.units ∧
      (s.poison = [] → s.l1Coherent p.core → s.ownStores p.uid id = [] → ReadGives s x.cas r locs w))) ∧
  (∀ cs, p.work = .store cs → s.mayPerform p = true → ∃ t, exec (.storeRegistrationAck id) s = .next t ∧
    t.pend.find id = acking cs ∧ (plain → Written s t cs ∧ t.panes = s.panes ∧ t.units = s.units ∧
      (cs.length ≤ 4096 → (∀ q ∈ cs, 0 < q.size ∧ q.pa % 64 + q.size ≤ 64) →
        ∀ q ∈ cs, ∀ k ∈ wordsOfSpan q.pa q.size, t.owner.find k = some p.core))) ∧
  (p.work = .acking → exec (.storeRegistrationAck id) s = .next (s.dropPend id)) ∧
  (∀ cs, p.work = .write cs → s.mayPerform p = true → ∃ t, exec (.writeAcknowledged id) s = .next t ∧ t.pend.find id = none ∧
    (plain → Written s t cs ∧ t.panes = s.panes ∧ t.units = s.units)) ∧
  (∀ cached others flags, p.work = .rqt cached others flags → s.mayPerform p = true → ∃ t,
    exec (.writeAcknowledged id) s = .next t ∧ t.pend.find id = (if cached = [] then none else acking cached) ∧
    (plain → Written s t (cached ++ others) ∧ OneEntry s.panes t.panes p.pane (x.orFstat flags) ∧ t.units = s.units)) ∧
  (∀ as ca, p.work = .ordered as → s.mayPerform p = true → s.cas.find x.cas = some ca →
    ∃ t, exec (.writeAcknowledged id) s = .next t ∧ t.mem = s.mem ∧ t.pend.find id = none ∧ t.panes = s.panes ∧
      OneEntry s.cas t.cas x.cas { ca with ords := ca.ords ++ as }) ∧
  (∀ pa c, s.owner.find (pa / 8) = some c → ∃ t, exec (.registryRecall pa) s = .next t ∧ t.mem = s.mem ∧
    t.owner.find (pa / 8) = none ∧ (∀ k, k ≠ pa / 8 → t.owner.find k = s.owner.find k) ∧ t.panes = s.panes ∧ t.units = s.units)

/-- R139, R151, R288 to R290: `atom` and `atom2` complete wherever their elements all translate to this device's own memory:
they are performed at their placement, one piece of work in flight. Without a dirty map, ordered atomics, an ownership log, a
trace or poison, an element that no other of the instruction touches takes the new value, and its old value is what the
returning form brings; every byte outside the elements is as before. With R288's operations on integers, and on both halves of
an `atom2`.
The model's own readings here: log entries 8 and 24. -/
def Obligations.AtomicResults : Prop := ∀ (o : AtomOp) (o2 : Atom2Op) (ty : AType) (d x : Opnd) (n : Nat) (p : CPol) s v es,
  let done := fun (i : Instr) (op : MemOp) (w : Nat) (cmp : Nat → Nat) =>
    let r := v.request i op n p (spread (v.inOrder i.cls es) 1 w fun _ e a =>
      ⟨e.mask, a, w, (v.rd i d e.slot).toNat % 2 ^ (8 * w), cmp e.slot, [rkey d.code e.slot], false⟩)
      (missedKeys (v.inOrder i.cls es) d.code 1)
    let k := atomicKind v r
    let locs := (s.locateReq v.ctx r).locs
    Ready i s v → v.resolve i n .at_ w x = .ok es → AccessClear v k r →
    ∃ t w ws m, exec i s = .next t ∧
      OneEntry s.units t.units v.uid (v.past i (v.flying k (if k = .load then destCodes d 1 else []))) ∧ FliesAs s t v k m w ∧
      (Plain s v → KeepsRegisters s t ∧ m = 0 ∧ w = (if d.isReg then .regs ws [] [] 0 else .write []) ∧
      (∀ q ∈ locs, ∀ pc, q.2 = [pc] →
        (∀ q' ∈ locs, q' ≠ q → ∀ p' ∈ q'.2, pc.pa + pc.n ≤ p'.pa ∨ p'.pa + p'.n ≤ pc.pa) →
        (∀ key ∈ q.1.keys, (key, w64 (s.mem.readNat pc.pa pc.n)) ∈ ws) ∧
        t.mem.readNat pc.pa pc.n = op.apply (s.mem.readNat pc.pa pc.n) q.1.data q.1.cmp % 2 ^ (8 * pc.n)) ∧
      ∀ a, (∀ q ∈ locs, ∀ pc ∈ q.2, a < pc.pa ∨ pc.pa + pc.n ≤ a) → t.mem.readByte a = s.mem.readByte a)
  let iw := fun (ty : AType) => 8 * atomWidth ty
  done (.atom o ty d x n p) (.atom o ty d.isReg) (atomWidth ty)
    (fun q => if o = .cas then v.dataAt (.atom o ty d x n p) d 1 q % 2 ^ (8 * atomWidth ty) else 0) ∧
  done (.atom2 o2 d x n p) (.atom2 o2 d.isReg) 4 (fun _ => 0) ∧
  ∀ old y z : Nat, old < 2 ^ iw ty → y < 2 ^ iw ty → z < 2 ^ iw ty →
    atomApply .and ty old y z = old &&& y ∧ atomApply .or ty old y z = old ||| y ∧ atomApply .xor ty old y z = old ^^^ y ∧
    atomApply .xchg ty old y z = y ∧ atomApply .cas ty old y z = (if old = y then z else old) ∧
    (ty = .i32 ∨ ty = .i64 → atomApply .add ty old y z = (old + y) % 2 ^ iw ty ∧
      signed (iw ty) (atomApply .min ty old y z) = min (signed (iw ty) old) (signed (iw ty) y) ∧
      signed (iw ty) (atomApply .max ty old y z) = max (signed (iw ty) old) (signed (iw ty) y))

/-- R302 to R304, R373, R147, R264: `wadr` parks its unit, seated, with one watch for each copy, on its word and the value of d;
a write to a watched word tests it anew, and when every copy has found another value the copies are d's and the unit goes on.
`ctwt` goes on where the counter has reached its threshold and else parks without a seat; `ctinc` leaves its increment in
flight, and SEQUENCE_COUNTER_INCREMENT adds it, saturating, and sends on every unit whose threshold is reached.
The model's own readings here: log entry 25. -/
def Obligations.WatchedWordsAndCounters : Prop := ∀ (d x : Opnd) (n : Nat) s v es,
  (let i := Instr.wadr d x n
    let acc := fun (e : Elem) (a z : Nat) => (⟨e.mask, a, z, (v.rd i d e.slot).toNat, 0, [rkey d.code e.slot], false⟩ : Acc)
    let r := v.request i .wadr n .dflt (spread (v.inOrder i.cls es) 1 8 (fun _ e a => acc e a 8) ++
      ((v.inOrder i.cls es).filter fun e => e.ea.isNone).map fun e => acc e 0 0) []
    Ready i s v → v.resolve i n .rd 8 x = .ok es → AccessClear v .load r →
    ∃ t ws m, exec i s = .next t ∧ (Plain s v → m = 0 ∧ OnlyCaches s t) ∧ FliesAs s t v .load m (.wadr ws) ∧
      OneEntry s.units t.units v.uid { (v.flying .load (destCodes d 1)).issued s.now with
        park := .wadr (s.nextId + m), parkedAt := s.now } ∧
      ∀ q ∈ (s.locateReq v.ctx r).locs, ∃ w ∈ ws, w.pa = q.2.head?.map Piece.pa ∧ w.key = q.1.keys.headD 0 ∧
        w.expected = q.1.data ∧ w.found =
          (let y := match q.2.head? with
            | some pc => s.homeRead pc.pa 8
            | none => 0
           if y = q.1.data then none else some y)) ∧
  (∀ (ctx id : Nat) (ch : Chunk) (p : Pend) ws, s.pend.find id = some p → p.work = .wadr ws →
    ∃ p', (s.homeWrite ctx ch).pend.find id = some p' ∧ p'.work = .wadr (ws.map fun w => match w.pa with
      | some a => if a < ch.pa + ch.size ∧ ch.pa < a + 8 then w.test ((s.homeWrite ctx ch).mem.readNat a 8) else w
      | none => w)) ∧
  (∀ (id : Nat) (p : Pend) (y : PaneSt) (u : UnitSt) ws, s.pend.find id = some p → p.id = id → p.work = .wadr ws →
    p.due ≤ s.now → p.held = false → s.panes.find p.pane = some y → s.units.find p.uid = some u →
    u.park = .wadr id → ∃ t y', exec (.loadReply id) s = .next t ∧ t.mem = s.mem ∧ t.pend.find id = none ∧
      OneEntry s.units t.units p.uid (u.pass s.now) ∧ OneEntry s.panes t.panes p.pane y' ∧
      ∀ w ∈ ws, w.key < 126 * 256 → (∀ w' ∈ ws, w'.key = w.key → w' = w) →
        Sparse.read y'.regs w.key = w64 (w.found.getD 0)) ∧
  (let i := Instr.ctwt d x n
    let r := { v.request i .ctwt n .dev (spread es 1 8 fun _ e a => ⟨e.mask, a, 8, v.scalar d, 0, [], false⟩) [] with node := none }
    Ready i s v → v.resolve i n .rd 8 x = .ok es → counterRemote v n es = none → AccessClear v .other r →
    let waits := fun (pa : Option Nat) => ∃ t m, exec i s = .next t ∧ (Plain s v → m = 0 ∧ OnlyCaches s t) ∧
      FliesAs s t v .other m (.ctwt pa (v.scalar d)) ∧
      OneEntry s.units t.units v.uid { v.u.issued s.now with park := .ctwt (s.nextId + m), parkedAt := s.now, seated := false }
    let goesOn := ∃ t, exec i s = .next t ∧ (Plain s v → OnlyCaches s t) ∧ OneEntry s.units t.units v.uid (v.past i v.u)
    (goesOn ∨ ∃ pa, waits pa) ∧
    ((∀ e ∈ es, e.ea = none) → (v.scalar d = 0 → goesOn) ∧ (v.scalar d ≠ 0 → waits none)) ∧
    ∀ a pc, (s.locateReq v.ctx r).locs = [(a, [pc])] →
      (v.scalar d ≤ s.homeRead pc.pa 8 → goesOn) ∧ (s.homeRead pc.pa 8 < v.scalar d → waits (some pc.pa))) ∧
  (let i := Instr.ctinc d x n
    let r := { v.request i .ctinc n .dev (spread es 1 8 fun _ e a => ⟨e.mask, a, 8, v.scalar d, 0, [], false⟩) [] with node := none }
    Ready i s v → v.resolve i n .at_ 8 x = .ok es → counterRemote v n es = none → AccessClear v .store r →
    ∃ t, exec i s = .next t ∧ (Plain s v → OnlyCaches s t) ∧ OneEntry s.units t.units v.uid (v.past i (v.flying .store [])) ∧
      ∀ a pc, (s.locateReq v.ctx r).locs = [(a, [pc])] →
        ∃ m, FliesAs s t v .store m (.count ⟨pc.pa, pc.va, 8, a.data, pc.leaf.trk, false⟩)) ∧
  ∀ (id : Nat) (p : Pend) (c : Chunk), s.pend.find id = some p → p.id = id → p.work = .count c → s.mayPerform p = true →
    ∃ t, exec (.sequenceCounterIncrement id) s = .next t ∧ t.pend.find id = none ∧
    ((s.ctx p.ctx).mapsOff → (s.ctx p.ctx).logFlag 3 = false →
      t.mem.readNat c.pa 8 = min (s.mem.readNat c.pa 8 + c.data) (2 ^ 64 - 1) ∧
      (∀ a, a < c.pa ∨ c.pa + 8 ≤ a → t.mem.readByte a = s.mem.readByte a) ∧ t.panes = s.panes ∧
      ∀ (k : Nat) (q : Pend) (u : UnitSt) (thr : Nat), s.pend.find k = some q → q.id = k → q.work = .ctwt (some c.pa) thr →
        s.units.find q.uid = some u → u.park = .ctwt k →
        thr ≤ min (s.mem.readNat c.pa 8 + c.data) (2 ^ 64 - 1) →
          t.pend.find k = none ∧ t.units.find q.uid = some (u.counterMet s.now))

/-- R130, R131, R153, R333, R366, R297: scratch and lane store. `lds` and `ldl` leave their elements in flight as a Load-kind
result; `sts` and `stl` write theirs at once, `sts` in order of lane, then member, and nothing else; `bset.s` sets a buffer
register from four scalars and `bget` reads one of its words. Of the cores only the scratch port's occupancy moves. An address
beyond the size is BOUNDS, then a misaligned one ALIGN. -/
def Obligations.ScratchLaneStoreAndBufferRegisters : Prop := ∀ (two sx : Bool) (mw : MWidth) (d x : Opnd) (n k : Nat) s v es,
  let w := mw.bytes
  let C := if two then 2 else 1
  let frame := fun (t : State) => { t with units := s.units, pend := s.pend, nextId := s.nextId } = s
  let port := fun (t : State) => ∀ c, { t.core c with scrFree := (s.core c).scrFree } = s.core c ∧
    (c ≠ v.core → (t.core c).scrFree = (s.core c).scrFree)
  let chunks := fun (i : Instr) (es : List Elem) (f : Elem → Nat) => es.flatMap fun e => (List.range C).map fun k =>
    (⟨f e + e.ea.getD 0 + k * w, 0, w, v.dataAt i d k e.slot, false, false⟩ : Chunk)
  let own := fun (i : Instr) (size : Nat) => (v.resolveOwn i size w (C * w) x = .ok es →
      (∀ q ∈ v.slots i, (v.rd i x q).toNat + C * w ≤ size ∧ (v.rd i x q).toNat < 2 ^ 32 ∧ (v.rd i x q).toNat % w = 0) ∧
      es.map Elem.slot = v.slots i ∧ ∀ e ∈ es, e.ea = some (v.rd i x e.slot).toNat) ∧
    ((∃ q ∈ v.slots i, size < (v.rd i x q).toNat + C * w) → ∃ t : Trap, v.resolveOwn i size w (C * w) x = .error t ∧
      t.cause = 7 ∧ t.efd = 0 ∧ ∀ p, bitAt t.mask p = true ↔ bitAt v.E p = true ∧ slotAt i.cls p ∈ v.slots i ∧
        (2 ^ 32 ≤ (v.rd i x (slotAt i.cls p)).toNat ∨ size < (v.rd i x (slotAt i.cls p)).toNat + C * w))
  own (.lds two sx mw d x) v.l.scr ∧ own (.sts two mw d x) v.l.scr ∧
  own (.ldl two sx mw d x) v.l.L ∧ own (.stl two mw d x) v.l.L ∧
  (let i := Instr.lds two sx mw d x;
    Ready i s v → v.resolveOwn i v.l.scr w (C * w) x = .ok es → v.countFull .load = false →
    ∃ t ws bad, exec i s = .next t ∧ frame { t with cores := s.cores } ∧ port t ∧
      OneEntry s.units t.units v.uid (v.past i (v.flying .load (destCodes d C))) ∧
      FliesAs s t v .load 0 (.regs ws [] bad 0) ∧ (s.poison = [] → bad = []) ∧ ∀ e ∈ es, ∀ k, k < C →
        (rkey (d.code + k) e.slot, extendTo sx w (readSpan v.ca.scratch (e.ea.getD 0 + k * w) w)) ∈ ws) ∧
  (let i := Instr.ldl two sx mw d x;
    Ready i s v → v.resolveOwn i v.l.L w (C * w) x = .ok es → v.countFull .load = false →
    ∃ t ws bad, exec i s = .next t ∧ frame t ∧ OneEntry s.units t.units v.uid (v.past i (v.flying .load (destCodes d C))) ∧
      FliesAs s t v .load 0 (.regs ws [] bad 0) ∧ (s.poison = [] → bad = []) ∧ ∀ e ∈ es, ∀ k, k < C →
        (rkey (d.code + k) e.slot, extendTo sx w (readSpan v.p.lanes (e.slot * 8192 + (e.ea.getD 0 + k * w)) w)) ∈ ws) ∧
  (let i := Instr.sts two mw d x;
    Ready i s v → v.resolveOwn i v.l.scr w (C * w) x = .ok es → ∃ t m, exec i s = .next t ∧
      { t with units := s.units, cas := s.cas, poison := s.poison, cores := s.cores } = s ∧ port t ∧
      OneEntry s.units t.units v.uid (v.past i (v.u.bump .store)) ∧ OneEntry s.cas t.cas v.cid { v.ca with scratch := m } ∧
      ∀ a, Memory.readByte m a = writtenByte (chunks i (v.inOrder i.cls es) fun _ => 0) a (Memory.readByte v.ca.scratch a)) ∧
  (let i := Instr.stl two mw d x;
    Ready i s v → v.resolveOwn i v.l.L w (C * w) x = .ok es → ∃ t m, exec i s = .next t ∧
      { t with units := s.units, panes := s.panes, poison := s.poison } = s ∧
      OneEntry s.units t.units v.uid (v.past i (v.u.bump .store)) ∧ OneEntry s.panes t.panes v.pid { v.p with lanes := m } ∧
      ∀ a, Memory.readByte m a = writtenByte (chunks i es fun e => e.slot * 8192) a (Memory.readByte v.p.lanes a)) ∧
  (Ready (.bsetS n k) s v → ∃ t m, exec (.bsetS n k) s = .next t ∧ KeepsRest s t ∧
    OneEntry s.units t.units v.uid (v.past (.bsetS n k) v.u) ∧ OneEntry s.panes t.panes v.pid { v.p with bufs := m } ∧
    (∀ j, j < 4 → recBits (Sparse.read m n) j 0 64 = (Sparse.read v.p.regs (rkey (k + j) 0)).toNat) ∧
    ∀ j, j ≠ n → Sparse.read m j = v.p.buf j) ∧
  (Ready (.bget d n k) s v → Gives (.bget d n k) s v d fun _ r => r.toNat = recBits (v.p.buf n) k 0 64)

/-- R148, R264, R286, R354, R316: the fences. `acq` waits until every read is bound and nothing is pending in the operand log,
and then covers the loads and empties the core's L1 of what it does not own; `rel` goes on once every access is performed,
raising a failed remote store; `fence` does both, after the reads that place its host-window writes, if any. R59, R60, R292,
R359: `bar` and `sbar` park their unit, and the last arrival of the casement, or of the sash, sends every unit on, its loads
covered and without a seat. -/
def Obligations.OrderingAndBarriers : Prop := ∀ s v,
  let acquired := fun (i : Instr) => ∃ t ls, exec i s = .next t ∧
    { t with units := s.units, cores := s.cores, poison := s.poison } = s ∧
    OneEntry s.units t.units v.uid (v.past i v.u.coverLoads) ∧
    t.core v.core = { s.core v.core with l1 := [], l1valid := [], lru := ls, acqId := s.nextId } ∧
    ∀ c, c ≠ v.core → t.core c = s.core c
  let parked := fun (k : Park) => { v.u.issued s.now with park := k, parkedAt := s.now, seated := false }
  let there := fun (k : Park) => s.putUnit v.uid (parked k)
  let released := fun (t : State) (k : Park) (cids : List Nat) => ∀ (id : Nat) (u : UnitSt), (there k).units.find id = some u →
    (u.park = k → (∃ p, s.panes.find u.pane = some p ∧ p.cas ∈ cids) → t.units.find id = some (u.released_ s.now)) ∧
    (u.park ≠ k → t.units.find id = some u)
  let fails := v.s.allPerformed v.uid = true ∧ v.u.fails = []
  (Ready .acq s v → s.mayAcquire v.uid = true → acquired .acq) ∧
  (Ready .acq s v → s.mayAcquire v.uid = false → ∃ t, exec .acq s = .next t ∧ OnlyUnit s t v.uid (v.u.parkOn .acquire s.now)) ∧
  (Ready .rel s v → fails → Stays .rel s v v.u) ∧
  (Ready .rel s v → s.allPerformed v.uid = true → ∀ f r, v.u.fails = f :: r → ∃ tr : Trap,
    (∀ x, x ∈ v.u.fails → (∀ y ∈ v.u.fails, y ≠ x → x.ord < y.ord) →
      tr.erem = x.erem ∧ tr.cause = (if bits x.erem 40 8 = 1 then 0x0B else 0x0A)) ∧
    (∀ q, bitAt tr.mask q = true ↔ ∃ x ∈ v.u.fails, bitAt x.mask q = true) ∧
    exec .rel s = .next ((s.updUnit v.uid fun u => { u with fails := [] }).deliver v.uid tr v.u.word.toNat
      (epcOf v.u.pc v.u.idx))) ∧
  (Ready .fence s v → fails → (v.u.hostPorts = 0 ∨ v.u.released = true) → s.mayAcquire v.uid = true → acquired .fence) ∧
  (Ready .fence s v → fails → v.u.hostPorts ≠ 0 → v.u.released = false → ∃ t, exec .fence s = .next t ∧
    { t with units := s.units, pend := s.pend, nextId := s.nextId } = s ∧ OneEntry s.units t.units v.uid (v.parkedOn s.nextId) ∧
    FliesAs s t v .other 0 (.remote (v.request .fence .fence 0 .dflt [] []) (placementReads v.u v.E s.now))) ∧
  (Ready .bar s v → fails →
    ((there .bar).casArrived v.cid .bar = false → ∃ t, exec .bar s = .next t ∧
      { t with units := s.units, cas := s.cas } = s ∧ OneEntry s.units t.units v.uid (parked .bar)) ∧
    ((there .bar).casArrived v.cid .bar = true → ∃ t, exec .bar s = .next t ∧ t.mem = s.mem ∧ t.panes = s.panes ∧
      released t .bar [v.cid] ∧ (t.core v.core).l1valid = [])) ∧
  (Ready .sbar s v → fails →
    let sash := s.sashOf v.ca
    let all := sash.length = v.l.sashSize v.ca.gx v.ca.gy ∧ ∀ q ∈ sash, (there .sbar).casArrived q.1 .sbar = true
    (¬all → ∃ t, exec .sbar s = .next t ∧ { t with units := s.units, cas := s.cas } = s ∧
      OneEntry s.units t.units v.uid (parked .sbar)) ∧
    (all → ∃ t, exec .sbar s = .next t ∧ t.mem = s.mem ∧ t.panes = s.panes ∧ released t .sbar (sash.map Prod.fst) ∧
      ∀ q ∈ sash, (t.core q.2.core).l1valid = []))

/-- R125, R162, R163, R300, R301, R305: copies. Each executing copy of `cpy`, `cpy.in` and `cpy.out` whose two addresses exist
joins its lane's open batch, in ascending lane, then member, order, where the batch has room for it; `cseal` submits the open
batch of every lane with an active position and empties it; `cwait` goes on as after `acq` once few enough batches remain.
The model's own readings here: log entry 26. -/
def Obligations.CopyBatchResults : Prop := ∀ (sz k : Nat) (d x : Opnd) (n : Nat) (p : CPol) s v (es ed : List Elem),
  let S := copyBytes sz
  let joins := fun (i : Instr) (mk : Nat → Nat → Nat → CopyOp) =>
    let op := fun q => (eaOf es q).bind fun a => (eaOf ed q).map fun b => mk q a b
    Ready i s v → copyTraps v ((v.ordered i.cls).filterMap op) = none →
    (∀ l, (v.p.openB.getD l []).length + (((v.ordered i.cls).filter fun q => copyLane v i.cls q = l).filterMap op).length ≤ 64) →
    ∃ t m, exec i s = .next t ∧ KeepsRest s t ∧ OneEntry s.units t.units v.uid (v.past i v.u) ∧
      OneEntry s.panes t.panes v.pid { v.p with openB := m } ∧
      ∀ l, m.getD l [] = v.p.openB.getD l [] ++ ((v.ordered i.cls).filter fun q => copyLane v i.cls q = l).filterMap op
  let mask := fun (i : Instr) q => slotMask i.cls v.E q
  S = 4 * 2 ^ sz ∧
  (let i := Instr.cpy sz d x n p;
    perMember v i n = false → perMember v i (n + 1) = false → copyGlobal v i n .rd S x = .ok es →
    copyGlobal v i (n + 1) .wr S d = .ok ed →
    joins i fun q a b => ⟨mask i q, S, a, b, false, false, v.p.buf n, v.p.buf (n + 1), p, false⟩) ∧
  (let i := Instr.cpyIn sz d x n p;
    copyGlobal v i n .rd S x = .ok es → v.resolveOwn i v.l.scr (min S 8) S d = .ok ed →
    joins i fun q a b => ⟨mask i q, S, a, b, false, true, v.p.buf n, 0, p, false⟩) ∧
  (let i := Instr.cpyOut sz d x n p;
    copyGlobal v i n .wr S x = .ok ed → v.resolveOwn i v.l.scr (min S 8) S d = .ok es →
    joins i fun q a b => ⟨mask i q, S, a, b, true, false, 0, v.p.buf n, p, false⟩) ∧
  (Ready .cseal s v → (∀ l ∈ openLanes v.p v.E, s.sealedOf v.pid l < 8) → ∃ t m, exec .cseal s = .next t ∧
    { t with units := s.units, panes := s.panes, pend := s.pend, nextId := s.nextId } = s ∧
    OneEntry s.units t.units v.uid (v.past .cseal v.u) ∧ OneEntry s.panes t.panes v.pid { v.p with openB := m } ∧
    (∀ l ∈ lanesOf v.E, m.getD l [] = []) ∧ (∀ l, l ∉ lanesOf v.E → m.getD l [] = v.p.openB.getD l []) ∧
    ∀ j l, (openLanes v.p v.E)[j]? = some l → t.workOf (s.nextId + j) = some (.copy l (v.p.openB.getD l []) [] [] 0)) ∧
  (Ready (.cwait k) s v → s.copiesWithin v.pid v.E k = true →
    (∀ tr fs, s.batchTrap v.u = some (tr, fs) → exec (.cwait k) s = .next ((s.dropBatchFails v.pid fs).deliver v.uid tr
      (tr.word.getD v.u.word.toNat) (epcOf v.u.pc v.u.idx))) ∧
    (s.batchTrap v.u = none → s.mayAcquire v.uid = true → ∃ t ls, exec (.cwait k) s = .next t ∧
      { t with units := s.units, cores := s.cores, poison := s.poison } = s ∧
      OneEntry s.units t.units v.uid (v.past (.cwait k) v.u.coverLoads) ∧
      t.core v.core = { s.core v.core with l1 := [], l1valid := [], lru := ls, acqId := s.nextId } ∧
      ∀ c, c ≠ v.core → t.core c = s.core c))

/-- R165, R352, R214, R358: command queues and allowances. `qw` stages its word and submits the command of the last one; `qr`
reads the queue's free entries and the words staged; `sard` reads the allowance of the window that a request would charge, the
largest signed value where that window or its limit is absent; `sawt` goes on when the allowance suffices or nothing is
outstanding. The model's own readings here: log entries 16 and 27. -/
def Obligations.QueueAndAllowanceResults : Prop := ∀ (q k : Nat) (a b : Opnd) s v,
  let c := s.ctx v.ctx
  let ws := v.staged q ++ [v.scalar a]
  let limit := if q < 2 then 32 else 16
  let cmd := v.command q ws
  (Ready (.qw q a) s v → ws.length < (if q < 2 then 5 else 6) → ∃ t m, exec (.qw q a) s = .next t ∧ KeepsRest s t ∧
    OneEntry s.units t.units v.uid (v.past (.qw q a) v.u) ∧ OneEntry s.panes t.panes v.pid { v.p with staging := m } ∧
    m.find q = some (ws.map fun w => w64 w) ∧ ∀ j, j ≠ q → m.find j = v.p.staging.find j) ∧
  (Ready (.qw q a) s v → (if q < 2 then 5 else 6) ≤ ws.length → submitTrap v cmd = none → s.cmdUse v.core q < limit →
    ∃ t m, exec (.qw q a) s = .next t ∧
      { t with units := s.units, panes := s.panes, pend := s.pend, nextId := s.nextId } = s ∧
      OneEntry s.units t.units v.uid (v.past (.qw q a) v.u) ∧ OneEntry s.panes t.panes v.pid { v.p with staging := m } ∧
      m.find q = none ∧ FliesAs s t v .other 0 (if q < 2 then .halo cmd [] [] 0 else .coll cmd [] [] [] 0)) ∧
  (Ready (.qw q a) s v → (if q < 2 then 5 else 6) ≤ ws.length → ∀ tr, submitTrap v cmd = some tr → tr.word = none →
    exec (.qw q a) s = .next ((s.unstage v.pid q).deliver v.uid tr v.u.word.toNat (epcOf v.u.pc v.u.idx))) ∧
  (Ready (.qr b q) s v → Gives (.qr b q) s v b fun _ r =>
    r = w64 ((limit - s.cmdUse v.core q) * 256 + (v.p.staging.getD q []).length)) ∧
  (Ready (.sard b a k) s v → Gives (.sard b a k) s v b fun _ r =>
    let x := v.scalar a
    match chooseWindow c (bits x 10 1 == 1) (if bits x 10 1 = 1 then x % 4 else x % 1024) k with
    | none => r.toInt = 2 ^ 63 - 1
    | some j => if c.limit j = 0 then r.toInt = 2 ^ 63 - 1
      else r = BitVec.ofInt 64 ((c.limit j : Int) - (v.p.charge.getD j 0 : Nat))) ∧
  (Ready (.sawt a k) s v →
    (c.limit k = 0 ∨ v.scalar a = 0 ∨ v.p.charge.getD k 0 = 0 ∨
      ((min (v.scalar a) (c.limit k) : Nat) : Int) ≤ (c.limit k : Int) - (v.p.charge.getD k 0 : Nat)) →
    Stays (.sawt a k) s v v.u)

/-- R80, R81, R83, R327, R328: the long accumulators. `lclr` clears; each `ladd` and `lmac` adds the exact sum of its elements'
values or products, in units of 2^−2176, to the slot that each copy names, and ORs the status bits of specials, with INV in
fstat for a signalling NaN or an infinity times 0; `lnrm` folds; `lmrg` folds both slots and adds the source's sum and status;
`lwrl` folds and replaces one limb, its guard bits copies of the top one. An undeclared slot raises SLOT with the least such number.
The model's own readings here: log entry 19. -/
def Obligations.LongAccumulatorOperations : Prop := ∀ (z y a b j : Opnd) s v,
  let inv := fun (fl : Nat) (i : Instr) (n : Nat) (bad : Nat → Nat → Bool) =>
    fl = 1 ∧ (∃ q ∈ v.slots i, ∃ e, e < n ∧ bad q e = true) ∨ fl = 0 ∧ ∀ q ∈ v.slots i, ∀ e, e < n → bad q e = false
  let free := fun (i : Instr) (zs : List Opnd) => Ready i s v ∧ v.busySlot i zs = none
  let adds := fun (i : Instr) (f : Fmt) (n w : Nat) => free i [z] → ∃ fl,
    inv fl i n (fun q e => f.isSNaN (sub w e (v.rd i a q))) ∧
    Slots i s v fl (Gathers i v z fun q => (List.range n).map fun e => partOfValue (f.val (sub w e (v.rd i a q))))
  let macs := fun (i : Instr) (f : Fmt) (n w : Nat) => free i [z] → ∃ fl,
    inv fl i n (fun q e => prodInvalid f (sub w e (v.rd i a q)) (sub w e (v.rd i b q))) ∧
    Slots i s v fl (Gathers i v z fun q => (List.range n).map fun e =>
      partOfProduct (f.val (sub w e (v.rd i a q))) (f.val (sub w e (v.rd i b q))))
  let was := fun k => v.ca.longs.getD k .zero
  let lovf := fun (fl : Nat) => fl = 0 ∨ fl = 2 ^ 11
  (free (.lclr z) [z] → Slots (.lclr z) s v 0 fun longs => ∀ k,
    ((∃ q ∈ v.slots (.lclr z), v.slotNo (.lclr z) z q = k) → (longs.getD k .zero).value = 0 ∧ (longs.getD k .zero).status = 0) ∧
    ((∀ q ∈ v.slots (.lclr z), v.slotNo (.lclr z) z q ≠ k) → longs.getD k .zero = was k)) ∧
  adds (.laddF64 z a) .f64 1 64 ∧ adds (.laddF32 z a) .f32 2 32 ∧ adds (.laddBf16 z a) .bf16 4 16 ∧
  macs (.lmacF64 z a b) .f64 1 64 ∧ macs (.lmacF32 z a b) .f32 2 32 ∧
  (free (.lnrm z) [z] → ∃ fl, lovf fl ∧
    (fl = 2 ^ 11 ↔ ∃ q ∈ v.slots (.lnrm z), longWrap (was (v.slotNo (.lnrm z) z q)).value ≠ (was (v.slotNo (.lnrm z) z q)).value) ∧
    Slots (.lnrm z) s v fl fun longs => ∀ k,
      ((∃ q ∈ v.slots (.lnrm z), v.slotNo (.lnrm z) z q = k) → (was k).IsFold (longs.getD k .zero)) ∧
      ((∀ q ∈ v.slots (.lnrm z), v.slotNo (.lnrm z) z q ≠ k) → longs.getD k .zero = was k)) ∧
  (let i := Instr.lmrg z y;
    free i [z, y] → ∃ fl, lovf fl ∧ Slots i s v fl fun longs => ∀ q ∈ v.slots i,
      (∀ q' ∈ v.slots i, q' ≠ q → v.slotNo i z q' ≠ v.slotNo i z q ∧ v.slotNo i z q' ≠ v.slotNo i y q ∧
        v.slotNo i y q' ≠ v.slotNo i z q) →
      let k := was (v.slotNo i z q)
      let m := was (v.slotNo i y q)
      let r := longs.getD (v.slotNo i z q) .zero
      r.value = k.value + m.value ∧ r.status = k.foldedStatus ||| m.foldedStatus) ∧
  (let i := Instr.lwrl z a j;
    free i [z] → ∃ fl, lovf fl ∧ Slots i s v fl fun longs => ∀ q ∈ v.slots i,
      (∀ q' ∈ v.slots i, q' ≠ q → v.slotNo i z q' ≠ v.slotNo i z q) →
      let k := was (v.slotNo i z q)
      let r := longs.getD (v.slotNo i z q) .zero
      let n := (v.rd i j q).toNat
      (68 ≤ n → r = k) ∧
      (n < 68 → r.status = k.foldedStatus ∧ ∀ m, m < 68 →
        r.limb m % 2 ^ 64 = if m = n then ((v.rd i a q).toNat : Int) else longWrap k.value / 2 ^ (64 * m) % 2 ^ 64) ∧
      (n < 68 → -(2 ^ 63) ≤ r.limb 67 ∧ r.limb 67 < 2 ^ 63)) ∧
  ((∃ q ∈ v.slots (.lnrm z), v.l.lslots ≤ v.slotNo (.lnrm z) z q) → ∃ tr : Trap, slotTrap v (.lnrm z) [z] = some tr ∧
    tr.cause = 0x16 ∧ (∃ q ∈ v.slots (.lnrm z), v.slotNo (.lnrm z) z q = tr.efd) ∧ v.l.lslots ≤ tr.efd ∧
    (∀ q ∈ v.slots (.lnrm z), v.l.lslots ≤ v.slotNo (.lnrm z) z q → tr.efd ≤ v.slotNo (.lnrm z) z q) ∧
    ∀ p, bitAt tr.mask p = true ↔ bitAt v.E p = true ∧ slotAt (Instr.lnrm z).cls p ∈ v.slots (.lnrm z) ∧
      v.l.lslots ≤ v.slotNo (.lnrm z) z (slotAt (Instr.lnrm z).cls p))

/-- R83 to R85, R329 to R331: read-outs and images. Each read-out completes its issue with its results in flight: `lrnd` rounds a
finite folded sum once, `lrdl` gives its limb, the status for 68 and 0 beyond, `lst` the status; `lsv` completes with the folded
slot's image stored or on its way, and `lld` with its images in flight. An image restores the sum, as 4352 bits hold it, and the
status it was made from. -/
def Obligations.LongAccumulatorReadOutsAndImages : Prop := ∀ (f32 : Bool) (rm : RMode) (d z j x : Opnd) (n : Nat) (p : CPol) s v,
  let free := fun (i : Instr) => Ready i s v ∧ v.busySlot i [z] = none
  let room := v.countFull .load = false
  (free (.lrnd f32 rm d z) → room → ReadsOut (.lrnd f32 rm d z) s v d z fun _ a r f =>
    let F := if f32 then Fmt.f32 else Fmt.f64
    (a.status = 0 → r = w64 (F.roundInt rm false false a.value (-2176)).code ∧
      f = (F.roundInt rm false false a.value (-2176)).flags) ∧
    (a.status &&& 4 ≠ 0 → r = w64 F.canon ∧ f = 0) ∧
    (a.status &&& 7 = 3 → r = w64 F.canon ∧ f = 1) ∧
    (a.status = 8 → r = w64 (F.infCode (decide (a.V < 0))) ∧ f = 20) ∧
    (a.status &&& 7 = 1 → r = w64 (F.infCode false)) ∧ (a.status &&& 7 = 2 → r = w64 (F.infCode true))) ∧
  (free (.lrdl d z j) → room → ReadsOut (.lrdl d z j) s v d z fun q a r _ =>
    let m := (v.rd (.lrdl d z j) j q).toNat
    (m < 68 → (r.toNat : Int) = a.value / 2 ^ (64 * m) % 2 ^ 64) ∧ (m = 68 → r = w64 a.status) ∧ (68 < m → r = 0)) ∧
  (free (.lst d z) → room → ReadsOut (.lst d z) s v d z fun _ a r _ => r = w64 a.status) ∧
  (∀ a b : LongSt, a.IsFold b → a.status < 16 → (LongSt.ofImage b.image).value = longWrap b.value ∧
    (LongSt.ofImage b.image).status = b.status ∧ b.image.length = 576) ∧
  (let i := Instr.lsv z x n p
    ∀ es (folded : Longs × Nat), folded = (v.inOrder i.cls es).foldl (fun a e => foldSlot a (v.slotNo i z e.slot)) (v.ca.longs, 0) →
    let r := v.request i .store n p (spread (v.inOrder i.cls es) 1 576 fun _ e a =>
      ⟨e.mask, a, 576, ofBytes (folded.1.getD (v.slotNo i z e.slot) .zero).image, 0, [],
        !(s.poisonedLimbs v.cid (v.slotNo i z e.slot)).isEmpty⟩) []
    free i → v.resolve i n .wr 64 x = .ok es → AccessClear v .store r →
    ∃ t, exec i s = .next t ∧ StoresOut i s v p (s.locateReq v.ctx r).locs t ∧
      (∀ e ∈ es, (v.ca.longs.getD (v.slotNo i z e.slot) .zero).IsFold (folded.1.getD (v.slotNo i z e.slot) .zero)) ∧
      OneEntry s.cas t.cas v.cid { v.ca with longs := folded.1 } ∧
      (v.l.det = false → OneEntry s.panes t.panes v.pid { v.p with fstat := v.p.fstat ||| w64 (folded.2 % 4096) })) ∧
  (let i := Instr.lld z x n p
    ∀ es, let r := v.request i .lld n p ((v.inOrder i.cls es).map fun e =>
      (⟨e.mask, e.ea.getD 0, if e.ea.isSome then 576 else 0, v.slotNo i z e.slot, 0, [], false⟩ : Acc)) []
    free i → v.resolve i n .rd 64 x = .ok es → AccessClear v .load r →
    ReadIssued i s v .load 0 r (fun _ => v.past i (v.flying .load []))) ∧
  ∀ (id : Nat) (q : Pend) (cid : Nat) (ca : CasementSt) (xs : Longs) (bad : List Nat), s.pend.find id = some q → q.id = id →
    q.due ≤ s.now → q.held = false → q.work = .longs cid xs bad → s.cas.find cid = some ca →
    ∃ t m, exec (.loadReply id) s = .next t ∧ t.mem = s.mem ∧ t.panes = s.panes ∧ t.pend.find id = none ∧
      OneEntry s.cas t.cas cid { ca with longs := m } ∧
      (∀ w ∈ xs, (∀ w' ∈ xs, w'.1 = w.1 → w' = w) → m.getD w.1 .zero = w.2) ∧
      ∀ k, (∀ w ∈ xs, w.1 ≠ k) → m.getD k .zero = ca.longs.getD k .zero

/-! ## Matrix engine, stack-side units -/

/-- R106 to R108, R111 to R115, R117, R118, R337 to R340: every operation on matrix registers joins its core's engine queue and
counts as Matrix kind, and so completes its issue; a drain and a move out leave their destination registers not covered, and a
move in takes its registers' bytes at issue. The model's own readings here: log entry 30. -/
def Obligations.EngineOperationsIssue : Prop := ∀ (ad ma mb sh v4 md : Nat) (f : MFlags) (ht : HalfTy) (f8 : F8Ty) (it : I8Ty)
    (ta tb ms cf : Bool) (ft : FType) s v,
  let group := fun (n : Nat) => (List.range n).map fun k => 4 * v4 + k
  let movesIn := fun (i : Instr) (n rowBytes : Nat) (place : Nat → Nat) => Ready i s v → EngineFree s v →
    groupPoison v (group n) = none →
    ∃ t o, exec i s = .next t ∧ Queued i s v t [] .none o ∧
      (∀ m b, m < v.M → b < rowBytes → (place (m * rowBytes + b), BitVec.ofNat 8
        (bits (Sparse.read v.p.regs (rkey (4 * v4 + b / 256) (posOf (b % 256 / 8) m))).toNat (8 * (b % 8)) 8)) ∈ o.data) ∧
      o.data.length = v.M * rowBytes
  Enqueues (.mmd ad ma mb f) s v [] ∧ Enqueues (.mms ad ma mb sh f) s v [] ∧ Enqueues (.mmh ht ad ma mb sh f) s v [] ∧
  Enqueues (.mmf f8 ad ma mb sh f) s v [] ∧ Enqueues (.mmi it ad ma mb f) s v [] ∧ Enqueues (.mmq ma mb ta tb ms) s v [] ∧
  Enqueues (.mscl ad ma mb cf) s v [] ∧ Enqueues (.manc ad ma mb) s v [] ∧ Enqueues (.macz ad) s v [] ∧
  Enqueues (.maczF32 ad) s v [] ∧ Enqueues (.mflg ad ma) s v [] ∧
  Enqueues (.mdrn ft ad v4 md) s v (group (max 1 (16 / v.M * (fbits ft / 8) / 16))) ∧
  Enqueues (.mtlOut ma v4) s v (group (16 / v.M)) ∧
  movesIn (.mtlIn ma v4) (16 / v.M) (256 * (16 / v.M)) (fun k => tileAt ma + k) ∧
  movesIn (.mtlSb ma v4) 1 (16 * (16 / v.M)) (fun k => sideAt ma + k)

/-- R107 to R109, R111, R113, R114: what the engine's operations do when ENGINE_OP_COMPLETE finds them due,
on a state without poison. An integer multiply adds the exact product sums in units of its anchor; `macz` clears the sums and
keeps the anchors; `manc` sets the anchors from the exponent vectors; `mmq` and `mscl` make and use the partial products; a move
in fills its tile; `mtl.out` and `mdrn` write the pane's registers. The model's own readings here: log entry 30. -/
def Obligations.EngineOperationResults : Prop := ∀ (core : Nat) s (o : EngOp) (p : Pend) (x : PaneSt) (c0 : AccSt),
  s.engineDue core = some (o, p) → p.id = o.id → p.work = .none → (s.core core).stale = false → s.poison = [] →
  s.panes.find o.pane = some x →
  let mx := (s.core core).mx
  let ends := fun (P : MxSt → PaneSt → Prop) => ∃ t x', exec (.engineOpComplete core) s = .next t ∧ t.mem = s.mem ∧
    t.units = s.units ∧ (∀ c, c ≠ core → t.core c = s.core c) ∧ (∀ q ∈ (t.core core).engQ, q.id ≠ o.id) ∧
    t.pend.find o.id = none ∧ OneEntry s.panes t.panes o.pane x' ∧ x'.preds = x.preds ∧ P (t.core core).mx x'
  (∀ ty ad ma mb f, o.i = .mmi ty ad ma mb f → c0 = (if f.cf then (mx.acc ad).wipe false else mx.acc ad) → c0.fp32 = false →
    ends fun mx' x' => x'.regs = x.regs ∧ mx'.tiles = mx.tiles ∧ mx'.pq = mx.pq ∧
      (∀ a, a ≠ ad → mx'.acc a = mx.acc a) ∧ ∀ i j, i < 16 → j < 16 →
        let el := c0.el (16 * i + j)
        let val := fun (ty : MTy) (T : Nat) (l : Layout) (n k : Nat) =>
          let c := bits T (8 * elemNo l o.M 256 n k) 8
          if ty = .int true then signed 8 c else (c : Int);
        (-16 : Int) < el.anchor → el.anchor ≤ 224 → el.count + 256 ≤ 2 ^ 32 →
          ((mx'.acc ad).el (16 * i + j)).sum = el.sum + ((List.range 256).map fun k =>
            val (i8Types ty).1 (mx.T ma) (layoutA f) i k * val (i8Types ty).2 (mx.T mb) (layoutB f) j k).sum *
            2 ^ (224 - el.anchor).toNat ∧
          ((mx'.acc ad).el (16 * i + j)).anchor = el.anchor ∧ ((mx'.acc ad).el (16 * i + j)).count = el.count + 256) ∧
  (∀ ad, o.i = .macz ad ∨ o.i = .maczF32 ad → ends fun mx' x' => x'.regs = x.regs ∧ mx'.tiles = mx.tiles ∧
    (∀ a, a ≠ ad → mx'.acc a = mx.acc a) ∧ (mx'.acc ad).rowM = 0 ∧ (mx'.acc ad).colM = 0 ∧ (mx'.acc ad).ovf = 0 ∧
    (mx'.acc ad).fp32 = decide (o.i = .maczF32 ad) ∧ ∀ n, n < 256 →
      (mx'.acc ad).el n = { AccEl.clear with anchor := ((mx.acc ad).el n).anchor }) ∧
  (∀ ad ma mb, o.i = .manc ad ma mb → ends fun mx' x' => x'.regs = x.regs ∧ mx'.tiles = mx.tiles ∧
    (mx'.acc ad).fp32 = false ∧ ∀ i j, i < 16 → j < 16 →
      let e := fun t n => signed 16 (readSpan mx.tiles (tileAt t + 2 * n) 2)
      ((mx'.acc ad).el (16 * i + j)).anchor = max (-(2 ^ 15)) (min (e ma i + e mb j + 2) (2 ^ 15 - 1)) ∧
      ((mx'.acc ad).el (16 * i + j)).sum = 0) ∧
  (∀ ma mb ta tb ms, o.i = .mmq ma mb ta tb ms → ends fun mx' x' => x'.regs = x.regs ∧ mx'.tiles = mx.tiles ∧
    mx'.accs = mx.accs ∧ ∀ i j b, i < 16 → j < 16 → b < 16 →
      let val := fun t l n k => q4x8 (mx.S t (16 * n + k / 32) / 64) (bits (mx.T t) (4 * elemNo l o.M 512 n k) 4)
      mx'.pq.find (16 * (16 * i + j) + b) = some ((List.range 32).map fun k =>
        val ma (layoutA ⟨ta, tb, ms, false⟩) i (32 * b + k) * val mb (layoutB ⟨ta, tb, ms, false⟩) j (32 * b + k)).sum) ∧
  (∀ t v4, o.i = .mtlIn t v4 ∨ o.i = .mtlSb t v4 → ends fun mx' x' => x'.regs = x.regs ∧ mx'.accs = mx.accs ∧
    (∀ q ∈ o.data, (∀ q' ∈ o.data, q'.1 = q.1 → q' = q) → Sparse.read mx'.tiles q.1 = q.2) ∧
    ∀ a, (∀ q ∈ o.data, q.1 ≠ a) → Sparse.read mx'.tiles a = Sparse.read mx.tiles a) ∧
  (∀ t v4, o.i = .mtlOut t v4 → o.M = 1 ∨ o.M = 2 ∨ o.M = 4 ∨ o.M = 8 → v4 < 16 → ends fun mx' x' => mx' = mx ∧
    ∀ m k, m < o.M → k < 32 * (16 / o.M) → 4 * v4 + k / 32 < 64 →
      Sparse.read x'.regs (rkey (4 * v4 + k / 32) (posOf (k % 32) m)) =
        w64 (readSpan mx.tiles (tileAt t + 256 * m * (16 / o.M) + 8 * k) 8)) ∧
  (∀ ad v4 md, o.i = .mdrn .f64 ad v4 md → o.M = 1 ∨ o.M = 2 ∨ o.M = 4 ∨ o.M = 8 → v4 < 16 → ends fun mx' x' => mx' = mx ∧
    ∀ n, n < 256 → 4 * v4 + n % (16 * (16 / o.M)) / 32 < 64 →
      Sparse.read x'.regs (rkey (4 * v4 + n % (16 * (16 / o.M)) / 32) (posOf (n % (16 * (16 / o.M)) % 32) (n / (16 * (16 / o.M))))) =
        w64 (drainEl (mx.acc ad) .f64 (RMode.ofCode (if md = 4 then o.rm else md)) n).1)

/-- R116, R118, R338: tile loads and stores, and the baton. A tile load or store completes its issue in its core's queue. A load
whose lines are all in L1, with nothing before it, binds their bytes at issue and queues them with their places, zeros for a row
left out; any other queues its rows, as a store does. `mtake` takes a free baton, `mpass` hands the holder's to the pane it names
or frees it, `mpass.free` frees it.
The model's own readings here: log entries 29 and 30. -/
def Obligations.TileMovesAndBaton : Prop := ∀ (ms : Bool) (ty : TileTy) (d n px : Nat) (x : Opnd) (p : CPol) s v es,
  let clear := fun (r : MemReq) => (ownershipLines v r = 0 ∨ (s.ctx v.ctx).logRoom (ownershipLines v r) = true) ∧
    accessTrap v r (s.locateReq v.ctx r) = none ∧ (s.locateReq v.ctx r).busy = none ∧
    (s.locateReq v.ctx r).faults ++ behindPages s v.uid r.accs = []
  let loads := fun (i : Instr) (sb : Bool) =>
    let r := tileRequest v i .tileIn n p sb es
    let f := s.locateReq v.ctx r
    let now := s.tileQueued v.core = false ∧ f.s.bindsNow v.who r.pol (f.locs.flatMap Prod.snd) = true
    Ready i s v → EngineFree s v → tileCheck v n ms sb .rd x = .ok es → clear r →
    (¬now → ∃ t o, exec i s = .next t ∧ Queued i s v t [] (.tile r [] false) o ∧ o.data = []) ∧
    (now → ∃ t o m, exec i s = .next t ∧ Joins i s v t [] (.tile r [] true) m o ∧
      (v.l.traced = false → s.poison = [] → m = 0 ∧ JoinFrame s v t) ∧
      (v.l.traced = false → s.poison = [] → s.l1Coherent v.core → s.ownStores v.uid s.nextId = [] →
        ∀ q ∈ f.locs, ∀ k, k < q.1.size →
          (rowAt d sb q.1.data + k, BitVec.ofNat 8 (bits (s.valueAt q.2) (8 * k) 8)) ∈ o.data) ∧
      (∀ e ∈ es, e.ea = none → ∀ k, k < tileBytes sb → (rowAt d sb e.slot + k, 0) ∈ o.data))
  let stores := fun (i : Instr) (sb : Bool) =>
    let r := tileRequest v i .tileOut n p sb es
    Ready i s v → EngineFree s v → tileCheck v n ms sb .wr x = .ok es → clear r →
    ∃ t o, exec i s = .next t ∧ Joins i s v t [] (.tile r [] false) 0 o ∧ o.data = [] ∧ t.mem = s.mem ∧ t.panes = s.panes ∧
      t.cas = s.cas ∧ (∀ c, c ≠ v.core → t.core c = s.core c) ∧ ((s.ctx v.ctx).logFlag 3 = false → JoinFrame s v t)
  let core := s.core v.core
  let holds := fun (i : Instr) (b : Option Nat) => ∃ t, exec i s = .next t ∧ { t with units := s.units, cores := s.cores } = s ∧
    OneEntry s.units t.units v.uid (v.past i v.u) ∧ (t.core v.core).baton = b ∧ (t.core v.core).mx = core.mx ∧
    (t.core v.core).engQ = core.engQ ∧ ∀ c, c ≠ v.core → t.core c = s.core c
  loads (.mld ms ty d x n p) false ∧ loads (.mldSb ms d x n p) true ∧
  stores (.mst ms ty d x n p) false ∧ stores (.mstSb ms d x n p) true ∧
  (Ready .mtake s v → EngineFree s v → holds .mtake (some v.pid)) ∧
  (Ready (.mpass px) s v →
    (core.baton ≠ some v.pid ∨ px = v.p.px → holds (.mpass px) core.baton) ∧
    (core.baton = some v.pid → px ≠ v.p.px →
      (∀ k, passTarget v px = some k → holds (.mpass px) (some k)) ∧
      (passTarget v px = none → holds (.mpass px) none))) ∧
  (Ready .mpassFree s v → holds .mpassFree (if core.baton = some v.pid then none else core.baton))

/-- R119 to R121, R357, R363: `rqt` completes its issue as Matrix-kind work: the read of its square, which gives the transposed
and requantised square's writes, 32 codes and a scale for each column; `smv` and `smvw` complete theirs with the read of their
descriptor's sixteen words, which gives the job. A new block has the least exponent whose range holds its values, at most 63, and
the codes nearest to its values.
The model's own readings here: log entries 29 and 31. -/
def Obligations.RequantisingAndStackJobIssue : Prop := ∀ (ty : Q4Ty) (wt : WtTy) (x : Opnd) (n : Nat) (p : CPol) s v es,
  (let i := Instr.rqt ty x n p
    let r := { v.request i .rqt n p (rqtAccs v n (v.scalar x)) [] with node := none }
    Ready i s v → rqtTrap v n (v.scalar x) = none → AccessClear v .matrix r →
    ReadIssued i s v .matrix 0 r (fun _ => v.past i (v.flying .matrix []))) ∧
  (∀ i, i = Instr.smv wt x n ∨ i = Instr.smvw wt x n →
    let r := v.request i .job n .dev (spread es 1 128 fun _ e a => ⟨e.mask, a, 128, 0, 0, [], false⟩) []
    Ready i s v → v.resolve i n .rd 128 x = .ok es → remoteNode s.dev (v.p.buf n) = none → AccessClear v .matrix r →
    ReadIssued i s v .matrix 0 r (fun _ => v.past i (v.flying .matrix []))) ∧
  ∀ vs : List Int, (∃ y ∈ vs, y ≠ 0) → (∀ y ∈ vs, y.natAbs ≤ 96 * 2 ^ 63) →
    let no := q4No ty
    let lim := 8 * q4Max ty
    let b := requant ty vs
    let e := b.2.1 % 64
    let held := fun y : Int => max (-((lim * 2 ^ e : Nat) : Int)) (min y (lim * 2 ^ e : Nat))
    b.1.length = vs.length ∧ b.2.1 / 64 = no ∧
    (e = 63 ∨ ∀ y ∈ vs, y.natAbs ≤ lim * 2 ^ e) ∧ (e = 0 ∨ ∃ y ∈ vs, lim * 2 ^ (e - 1) < y.natAbs) ∧
    ∀ k, k < vs.length → ∀ c, c < 16 →
      (held (vs.getD k 0) - q4x8 no (b.1.getD k 0) * 2 ^ e).natAbs ≤ (held (vs.getD k 0) - q4x8 no c * 2 ^ e).natAbs

/-! ## Special functions, special registers, images -/

/-- R75, R76, R78, R170, R171, R361, R362: `sfq` claims its token and leaves its results in flight, each element the special
function's value under the pane's mode; SFQ_RESULT writes them with their flags, frees the token and defers an enabled condition;
`sfw` goes on when every token it names is free. Division by zero, invalid operands and exact results are Table 5's.
The model's own readings here: log entry 10. -/
def Obligations.SpecialFunctionResults : Prop := ∀ (ty : FType) (fn : SfFn) (d a : Opnd) (k : Nat) s v,
  (let i := Instr.sfq ty fn d a k
    let W := fbits ty
    let r := fun q e => sfApply fn ty v.mode (sub W e (v.rd i a q))
    Ready i s v → v.p.tokens.find k = none → s.sfuLoad v.core v.p.slot < 8 →
    ∃ t ws fl m, exec i s = .next t ∧
      { t with units := s.units, panes := s.panes, cores := s.cores, pend := s.pend, nextId := s.nextId } = s ∧
      OneEntry s.units t.units v.uid (v.past i v.u) ∧
      OneEntry s.panes t.panes v.pid { v.p with tokens := v.p.tokens.put k ⟨d.code, v.E, v.uid, v.u.pc⟩ } ∧
      FliesAs s t v .token 0 (.sfq k ws fl (fl &&& v.mode.te) m v.u.word.toNat) ∧ Union v i (64 / W) r fl ∧
      (∀ p, bitAt m p = true ↔ bitAt v.E p = true ∧ ∃ e, e < 64 / W ∧ (r (slotAt i.cls p) e).flags &&& v.mode.te ≠ 0) ∧
      ∀ q ∈ v.slots i, ∃ y, (rkey d.code q, y) ∈ ws ∧ ∀ e, e < 64 / W → sub W e y = (r q e).code % 2 ^ W) ∧
  (Ready (.sfw a) s v → (∀ q ∈ v.p.tokens, bits (v.scalar a % 65536) q.1 1 = 0) → Stays (.sfw a) s v v.u) ∧
  (∀ (id : Nat) (p : Pend) (x : PaneSt) (u : UnitSt) ws fl en m word, s.pend.find id = some p →
    p.work = .sfq k ws fl en m word → p.due ≤ s.now → s.panes.find p.pane = some x → s.units.find p.uid = some u →
    en < 32 → ∃ t x', exec (.sfqResult id) s = .next t ∧ t.mem = s.mem ∧ t.pend.find id = none ∧
      OneEntry s.panes t.panes p.pane x' ∧ x'.tokens = x.tokens.del k ∧ x'.fstat = x.fstat ||| w64 (fl % 4096) ∧
      (∀ w ∈ ws, w.1 < 126 * 256 → (∀ y ∈ ws, y.1 = w.1 → y.2 = w.2) → Sparse.read x'.regs w.1 = w.2) ∧
      (∀ key, (∀ w ∈ ws, w.1 ≠ key) → Sparse.read x'.regs key = Sparse.read x.regs key) ∧
      (en = 0 → t.units = s.units) ∧
      (en ≠ 0 → ∃ u', OneEntry s.units t.units p.uid u' ∧
        ∃ y ∈ u'.defer, y.cause = 0x15 ∧ y.efd &&& en = en ∧ y.emask &&& m = m)) ∧
  ∀ (md : FMode) (c mm : Nat) (ng : Bool) (e : Int), let f := Fmt.ofType ty
    (f.val (f.input md c) = .fin ng 0 e →
      sfApply .rcp ty md c = ⟨f.infCode ng, 2, false⟩ ∧ sfApply .rsqrt ty md c = ⟨f.infCode ng, 2, false⟩ ∧
      sfApply .sqrt ty md c = ⟨f.zeroCode ng, 0, false⟩ ∧ sfApply .sinpi ty md c = ⟨f.zeroCode ng, 0, false⟩ ∧
      sfApply .log2 ty md c = ⟨f.infCode true, 2, false⟩) ∧
    (f.val (f.input md c) = .fin true mm e → mm ≠ 0 → ∀ g, g = SfFn.rsqrt ∨ g = .sqrt ∨ g = .log2 →
      sfApply g ty md c = ⟨f.canon, 1, false⟩) ∧
    (f.val (f.input md c) = .inf ng → (sfApply .rcp ty md c = ⟨f.zeroCode ng, 0, false⟩) ∧
      (sfApply .sinpi ty md c).flags = 1 ∧ (sfApply .cospi ty md c).flags = 1 ∧ (ng = true → (sfApply .sqrt ty md c).flags = 1))

/-- R41 to R44, R203, R211, R214, R233, R364: `srd` reads the register of its index, Table 2, into every executing copy, at its
position for the vector registers; an unlisted index reads 0. -/
def Obligations.SpecialRegisterReads : Prop := ∀ (d : Opnd) (k : Nat) s v, Ready (.srd d k) s v →
  let c := s.ctx v.ctx
  Gives (.srd d k) s v d fun q r =>
    (k = 0x00 → r = v.p.fmode) ∧ (k = 0x01 → r = v.p.fstat) ∧ (k = 0x02 → r = w64 (q % 32)) ∧
    (k = 0x03 → r = w64 (v.ca.gm * v.l.M + q / 32)) ∧ (k = 0x04 → r = w64 v.l.M) ∧ (k = 0x05 → r = w64 v.p.px) ∧
    (k = 0x06 → r = w64 v.ca.gx) ∧ (k = 0x07 → r = w64 v.ca.gy) ∧ (k = 0x08 → r = w64 v.ca.gz) ∧ (k = 0x09 → r = w64 v.ca.gm) ∧
    (k = 0x0A → r = w64 v.ca.cid) ∧ (k = 0x0B → r = w64 v.ca.sid) ∧ (k = 0x0C → r = w64 v.ca.core) ∧
    (k = 0x0D → r = w64 (v.ca.core / 16)) ∧ (k = 0x0E → r = w64 s.dev.node) ∧ (k = 0x0F → r = w64 v.l.ctx) ∧
    (k = 0x10 → r = w64 s.now) ∧ (k = 0x11 → r = w64 (s.core v.ca.core).evs) ∧ (k = 0x12 → r = w64 v.u.cstack.length) ∧
    (k = 0x13 → r = w64 v.u.rstack.length) ∧ (k = 0x14 → r = v.p.uhv) ∧ (k = 0x15 → r = v.u.ecause) ∧ (k = 0x16 → r = v.u.epc) ∧
    (k = 0x17 → r = v.u.ecw) ∧ (k = 0x18 → r = v.u.efd) ∧ (k = 0x19 → r = v.u.efa) ∧ (k = 0x1A → r = v.u.efb) ∧
    (k = 0x1B → r = if bitAt v.u.emask q then 1 else 0) ∧ (k = 0x1C → r = v.u.eaddr) ∧ (k = 0x1D → r = v.u.erem) ∧
    (k = 0x1E → r = v.p.detst) ∧ (k = 0x1F → r = v.p.detaddr) ∧
    (∀ j, j < 16 → k = 0x20 + j → r = if c.limit j = 0 then w64 (2 ^ 63 - 1)
      else BitVec.ofInt 64 ((c.limit j : Int) - (v.p.charge.getD j 0 : Nat))) ∧
    (k = 0x30 → r = w64 v.p.vcnt) ∧ (k = 0x31 → r = w64 v.l.vmax) ∧ (k = 0x32 → v.l.traced = false → r = 0) ∧
    (k = 0x33 → r = w64 v.p.slot) ∧ (k = 0x40 → r = c.phv) ∧ (k = 0x41 → r = c.psv) ∧ (k = 0x42 → r = c.ctxcfg) ∧
    (k = 0x43 → r = c.wdb) ∧ (k = 0x44 → r = c.wdp) ∧ (k = 0x45 → r = c.logc) ∧ (k = 0x46 → r = c.logbase) ∧
    (k = 0x47 → r = c.loglim) ∧ (k = 0x48 → r = w64 (s.core v.ca.core).agelim) ∧ (k = 0x49 → r = c.slice) ∧
    (k = 0x4A → r = c.fring) ∧ (k = 0x4B → r = c.ptroot) ∧ (k = 0x4C → r = c.detcfg) ∧ (k = 0x4D → r = c.dmap) ∧
    (∀ j, j < 16 → k = 0x50 + j → r = c.alc.getD j 0) ∧
    (∀ g, g < 32 → k = 0x60 + g → r = w64 ((s.wp g).vw + if (s.wp g).busy then 2 ^ 31 else 0)) ∧
    ((0x34 ≤ k ∧ k < 0x40 ∨ k = 0x4E ∨ k = 0x4F ∨ 0x80 ≤ k) → r = 0)

/-- R41 to R43, R46, R60, R99, R134, R181, R195, R211, R225, R228, R233, R243, R367: `swr` replaces the writable fields of the
register of its index and drops the reserved bits; read-only and unlisted indices take nothing. The context keeps, until the ac is
over, the setting that limits, slices, windows and maps still act by.
The model's own readings here: log entries 53 and 54. -/
def Obligations.SpecialRegisterWrites : Prop := ∀ (k : Nat) (a : Opnd) s v, Ready (.swr k a) s v →
  let i := Instr.swr k a
  let x := v.scalar a
  let w := BitVec.ofNat 64 x
  (k = 0x00 → SetsPane i s v { v.p with fmode := w &&& 0x1F1F }) ∧
  (k = 0x01 → SetsPane i s v { v.p with fstat := w &&& 0xFFF }) ∧
  (k = 0x14 → SetsPane i s v { v.p with uhv := w }) ∧
  (k = 0x1E → SetsPane i s v { v.p with detst := v.p.detst &&& ~~~w }) ∧
  (k = 0x16 → ∃ t, exec i s = .next t ∧ { t with units := s.units, panes := s.panes } = s ∧ OneEntry s.panes t.panes v.pid v.p ∧
    OneEntry s.units t.units v.uid (v.past i { v.u with epc := w &&& 0x79FFFFFFFFFFFFFF })) ∧
  (∀ c, s.ctxs.find v.ctx = some c →
    (k = 0x40 → SetsCtx i s v { c with phv := w &&& 0x1FFFFFFFFFFFFFC }) ∧
    (k = 0x41 → SetsCtx i s v { c with psv := w &&& 0x1FFFFFFFFFFFFFC }) ∧
    (k = 0x42 → SetsCtx i s v { c with ctxcfg := w &&& 3 }) ∧
    (k = 0x43 → SetsCtx i s v { c.keep 0x43 c.wdb with wdb := w &&& 0xFFFFFFFF }) ∧
    (k = 0x44 → SetsCtx i s v { c.keep 0x44 c.wdp with wdp := w &&& 0xFFFFFFFF }) ∧
    (k = 0x45 → SetsCtx i s v { c with logc := w &&& 0xFFFFFFFF0000001F }) ∧
    (k = 0x46 → SetsCtx i s v { c with logbase := w &&& 0x1FFFFFFFFFFF000 }) ∧
    (k = 0x47 → SetsCtx i s v { c with loglim := w &&& 0xFFFFFFFF }) ∧
    (k = 0x49 → SetsCtx i s v { c.keep 0x49 c.slice with slice := w &&& 0xFFFFFFFF }) ∧
    (k = 0x4A → SetsCtx i s v { c with fring := w &&& 0x1FFFFFFFFFFFFC0 }) ∧
    (k = 0x4C → SetsCtx i s v { c with detcfg := w &&& 3 }) ∧
    (∀ j, j < 16 → k = 0x50 + j →
      SetsCtx i s v { c.keep k (c.alc.getD j 0) with alc := c.alc.put j (w &&& 0xFFFFE3FF00FFFFFF) }) ∧
    ((k = 0x4E ∨ k = 0x4F ∨ 0x80 ≤ k) → SetsCtx i s v c)) ∧
  (k = 0x48 → ∃ t, exec i s = .next t ∧ { t with units := s.units, cores := s.cores } = s ∧
    OneEntry s.units t.units v.uid (v.past i v.u) ∧ t.core v.core = { s.core v.core with agelim := x % 256 } ∧
    ∀ c, c ≠ v.core → t.core c = s.core c) ∧
  (k = 0x4B → StartsPtroot i s v x) ∧ (k = 0x4D → StartsDmap i s v x) ∧
  (∀ g, g < 32 → k = 0x60 + g → StartsWpart i s v g x) ∧
  ((k < 0x40 ∧ k ≠ 0x00 ∧ k ≠ 0x01 ∧ k ≠ 0x14 ∧ k ≠ 0x1E ∧ k ≠ 0x16) → SetsPane i s v v.p)

/-- R134, R135, R195, R197, R225: the steps of writes to ptroot, wpart and dmap. Each row starts as its `swr` does;
TRANSLATION_INVALIDATED and DMAP_MAPS_CLEAR send their writer on, the latter with EN set and both maps clear, unless EN is 1
already;
WPART_CONVERSION_DONE clears BUSY and the moved bytes; DIRTY_MAP_CLEARED clears the map that was frozen.
The model's own readings here: log entry 53. -/
def Obligations.StagedRegisterWrites : Prop := ∀ (x : Word) (g ctx : Nat) s v,
  let zeroed := fun (t : State) (lo hi : Nat) =>
    ∀ a, t.mem.readByte a = if lo ≤ a ∧ a < hi then 0 else s.mem.readByte a
  (Ready (.ptrootWrite x) s v → StartsPtroot (.ptrootWrite x) s v x.toNat) ∧
  (Ready (.wpartWrite g x) s v → StartsWpart (.wpartWrite g x) s v g x.toNat) ∧
  (Ready (.dmapEnable x) s v → StartsDmap (.dmapEnable x) s v x.toNat) ∧
  (Ready (.dmapDisable x) s v → StartsDmap (.dmapDisable x) s v x.toNat) ∧
  (∀ (p : Pend) (u : UnitSt), s.pend = [(p.id, p)] → p.work = .invalidate → p.due ≤ s.now → s.units.find p.uid = some u →
    u.park = .work p.id → ∃ t, exec (.translationInvalidated p.uid) s = .next t ∧ t.mem = s.mem ∧ t.panes = s.panes ∧
      t.pend = [] ∧ OneEntry s.units t.units p.uid (u.pass s.now) ∧
      ∀ va, va < 2 ^ 57 → t.tlb.find (tlbKey p.ctx va) = none) ∧
  (∀ (p : Pend) (a b : Nat), s.pend = [(p.id, p)] → p.work = .convert g a b → p.due ≤ s.now →
    ∃ t, exec (.wpartConversionDone g) s = .next t ∧ t.pend = [] ∧ t.panes = s.panes ∧
      OneEntry s.wpart t.wpart g { s.wp g with busy := false } ∧
      zeroed t (Config.vaultBase + g * 2 ^ 24 + min a b * 2 ^ 20) (Config.vaultBase + g * 2 ^ 24 + max a b * 2 ^ 20)) ∧
  (∀ (p : Pend) (y : Nat) (u : UnitSt) (c : CtxSt), s.pend = [(p.id, p)] → p.work = .mapsClear ctx y → p.due ≤ s.now →
    s.ctxs.find ctx = some c → s.units.find p.uid = some u → u.park = .work p.id →
    ∃ t, exec (.dmapMapsClear ctx) s = .next t ∧ t.pend = [] ∧ t.panes = s.panes ∧
      OneEntry s.units t.units p.uid (u.pass s.now) ∧
      (c.dmap.toNat % 2 = 1 → t.ctxs = s.ctxs ∧ t.mem = s.mem) ∧
      (c.dmap.toNat % 2 = 0 → OneEntry s.ctxs t.ctxs ctx { c.keep 0x4D c.dmap with dmap := w64 y, current := 0 } ∧
        zeroed t (bits y 12 40 * 4096) (bits y 12 40 * 4096 + 2 * s.dev.dmapBytes))) ∧
  ∀ (p : Pend) (c : CtxSt) (base : Nat), s.pend = [(p.id, p)] → p.work = .frozenClear ctx base → p.due ≤ s.now →
    s.ctxs.find ctx = some c →
    ∃ t, exec (.dirtyMapCleared ctx) s = .next t ∧ t.pend = [] ∧ t.panes = s.panes ∧ t.units = s.units ∧
      OneEntry s.ctxs t.ctxs ctx { c with clearing := false } ∧
      zeroed t base (base + s.dev.dmapBytes)

/-- R45, R46, R202, R243 to R246, R372: `vgrow` refuses a count that is no multiple of 8 from 8 to Vmax, goes on where the pane
has enough, is granted where no request waits and the file has room, and else blocks; VGROW_GRANT grants the oldest request,
once it fits. `vshr` discards the registers from v_n up, which read 0, and no others. `logm` writes a marker entry while its
flag is on, advancing NEXT, the core's sequence and its stamp, or raises LOGFULL. -/
def Obligations.RegisterGrowthAndMarkers : Prop := ∀ (n : Opnd) (k : Nat) s v,
  let c := v.scalar n
  let bad := c % 8 ≠ 0 ∨ c < 8 ∨ v.l.vmax < c
  let refused : Trap := { cause := 0x18, mask := v.E, efd := c }
  (Ready (.vgrow n) s v →
    (bad → TrapsWith (.vgrow n) s v refused) ∧
    (¬bad → c ≤ v.p.vcnt → Stays (.vgrow n) s v v.u) ∧
    (¬bad → v.p.vcnt < c →
      let fits := s.vgrowWaiters v.core = [] ∧ (c - v.p.vcnt) * 256 * v.M ≤ s.vectorFree v.core true
      (fits → SetsPane (.vgrow n) s v { v.p with vcnt := c }) ∧
      (¬fits → ∃ t, exec (.vgrow n) s = .next t ∧ OnlyUnit s t v.uid
        { v.u.issued s.now with park := .vgrow c, parkedAt := s.now, seated := false }))) ∧
  (Ready (.vshr n) s v →
    (bad → TrapsWith (.vshr n) s v refused) ∧
    (¬bad → v.p.vcnt ≤ c → Stays (.vshr n) s v v.u) ∧
    (¬bad → c < v.p.vcnt → vshrHazard v c = none → ∃ t r, exec (.vshr n) s = .next t ∧
      { t with units := s.units, panes := s.panes, cores := s.cores, poison := s.poison } = s ∧
      OneEntry s.units t.units v.uid (v.past (.vshr n) v.u) ∧ OneEntry s.panes t.panes v.pid { v.p with vcnt := c, regs := r } ∧
      ∀ j q, q < 256 → Sparse.read r (rkey j q) = if c ≤ j ∧ j < 64 then 0 else Sparse.read v.p.regs (rkey j q))) ∧
  (Ready (.logm n k) s v →
    let x := s.ctx v.ctx
    let e := s.core v.core
    (x.logFlag 4 = false → Stays (.logm n k) s v v.u) ∧
    (x.logFlag 4 = true → x.logRoom 1 = false → TrapsWith (.logm n k) s v { cause := 0x0E, mask := v.E }) ∧
    (x.logFlag 4 = true → x.logRoom 1 = true → s.ctxs.find v.ctx = some x → v.core < 128 →
      ∃ t, exec (.logm n k) s = .next t ∧
      t.panes = s.panes ∧ OneEntry s.units t.units v.uid (v.past (.logm n k) v.u) ∧
      OneEntry s.ctxs t.ctxs v.ctx { x with logc := x.logc + 2 ^ 32 } ∧
      (t.core v.core).evs = e.evs + 1 ∧ (t.core v.core).lamport = e.lamport + 1 ∧
      ∀ pa l, s.devXlate v.ctx .write (bits x.logbase.toNat 12 45 * 4096 + 32 * x.logNext) = some (pa, l) →
        s.converting pa = false →
        t.mem.readNat pa 8 = (7 * 2 ^ 56 + v.core % 256 * 2 ^ 48 + (e.evs + 1) % 2 ^ 48) % 2 ^ 64 ∧
        t.mem.readNat (pa + 8) 8 = (e.lamport + 1) % 2 ^ 64 ∧ t.mem.readNat (pa + 16) 8 = k % 2 ^ 64 ∧
        t.mem.readNat (pa + 24) 8 = c % 2 ^ 64 ∧
        ∀ a, a < pa ∨ pa + 32 ≤ a → t.mem.readByte a = s.mem.readByte a)) ∧
  ∀ (core uid : Nat) (u : UnitSt) (p : PaneSt), s.vgrowNext core = some (uid, u, k) → s.units.find uid = some u →
    s.panes.find u.pane = some p → ∃ t, exec (.vgrowGrant core) s = .next t ∧
      { t with units := s.units, panes := s.panes } = s ∧ OneEntry s.panes t.panes u.pane { p with vcnt := max k p.vcnt } ∧
      OneEntry s.units t.units uid { u.pass s.now with seated := false, queuedAt := s.now }

/-- R86, R237, R238, R350: `psave` completes its issue with an image of its part stored or on its way; `prest` completes its issue
with the read of an image's bytes in flight, or what it gives, `.pane` parking its unit; the matrix forms queue at the engine.
What comes of an image, LOAD_REPLY: the pane's hidden state and units put back, those at a barrier that this completes past it,
or the casement's slots. The model's own readings here: log entries 11 and 39. -/
def Obligations.SaveAndRestoreResults : Prop := ∀ (x : Opnd) (n : Nat) s v es,
  let saves := fun (i : Instr) (part len : Nat) (body : ImgBody) (bad : Bool) =>
    let m := s.newImage part len body
    let r := imageRequest v i (.save part) n len m.2 bad es
    Ready i s v → imagePlace v i n .wr x = .ok es → AccessClear { v with s := m.1 } .store r →
    ∃ t, exec i s = .next t ∧ t.images = s.images ++ [⟨s.nextId, part, len, body⟩] ∧ (Plain s v → KeepsRegisters s t) ∧
      StoresOut i m.1 v .dflt (m.1.locateReq v.ctx r).locs t
  let restores := fun (i : Instr) (part len : Nat) (u : Nat → UnitSt) =>
    let r := imageRequest v i (.restore part) n len 0 false es
    Ready i s v → imagePlace v i n .rd x = .ok es → AccessClear v .load r → ReadIssued i s v .load 0 r u
  let queues := fun (i : Instr) (op : MemOp) (pm : Perm) =>
    let r := imageRequest v i op n (imageLen 1 0) 0 false es
    let f := s.locateReq v.ctx r
    let bound := op.kind ≠ .write ∧ s.tileQueued v.core = false ∧ f.s.bindsNow v.who r.pol (f.locs.flatMap Prod.snd) = true
    Ready i s v → EngineFree s v → imagePlace v i n pm x = .ok es →
    (ownershipLines v r = 0 ∨ (s.ctx v.ctx).logRoom (ownershipLines v r) = true) →
    accessTrap v r f = none → f.busy = none → f.faults ++ behindPages s v.uid r.accs = [] →
    (¬bound → ∃ t o, exec i s = .next t ∧ Joins i s v t [] (.tile r [] false) 0 o ∧ o.data = [] ∧ t.mem = s.mem ∧
      t.panes = s.panes ∧ ((s.ctx v.ctx).logFlag 3 = false → JoinFrame s v t)) ∧
    (bound → ∃ t o m, exec i s = .next t ∧ Joins i s v t [] (.tile r [] true) m o ∧
      (v.l.traced = false → s.poison = [] → m = 0 ∧ JoinFrame s v t))
  let h := v.p.hidden.getD (s.hiddenOf v.pid v.p)
  let lx := v.anyBusySlot = none
  saves (.psavePane x n) 0 167936 (.pane { h with fmode := v.p.fmode, fstat := v.p.fstat }) false ∧
  (lx → saves (.psaveLx x n) 2 (640 * v.l.lslots) (.lx v.ca.longs) (s.poison.any fun y => match y with
    | .limb c _ _ => c == v.cid
    | _ => false)) ∧
  (s.allPerformed v.uid = true → v.u.fails = [] → s.drained v.uid v.u = true → restores (.prestPane x n) 0 167936 fun id =>
    { (v.flying .load []).issued s.now with park := .work id, parkedAt := s.now }) ∧
  (lx → restores (.prestLx x n) 2 (640 * v.l.lslots) fun _ => v.past (.prestLx x n) (v.flying .load [])) ∧
  queues (.psaveMx x n) (.save 1) .wr ∧ queues (.prestMx x n) (.restore 1) .rd ∧
  ∀ (id : Nat) (p : Pend) (y : PaneSt) (ca : CasementSt), s.pend.find id = some p → p.id = id → p.due ≤ s.now →
    p.held = false → s.panes.find p.pane = some y → s.cas.find y.cas = some ca →
    (∀ ls, p.work = .install 2 (some (.lx ls)) false → ∃ t, exec (.loadReply id) s = .next t ∧ t.mem = s.mem ∧
      t.pend.find id = none ∧ t.panes = s.panes ∧ OneEntry s.cas t.cas y.cas { ca with longs := ls }) ∧
    ∀ hd : Hidden, p.work = .install 0 (some (.pane hd)) false → ∃ t y', exec (.loadReply id) s = .next t ∧ t.mem = s.mem ∧
      t.pend.find id = none ∧ OneEntry s.panes t.panes p.pane y' ∧ y'.preds = hd.preds ∧ y'.fmode = hd.fmode ∧
      y'.fstat = hd.fstat ∧ y'.uhv = hd.uhv ∧ y'.detst = hd.detst ∧ y'.detaddr = hd.detaddr ∧ y'.regs = y.regs ∧
      ∀ (k : Nat) (u : UnitSt), hd.units[k]? = some u →
        let u' := u.restored p.pane s.now
        t.units.find (s.nextId + k) = some u' ∨
          (u'.park = .bar ∨ u'.park = .sbar) ∧ t.units.find (s.nextId + k) = some (u'.released_ s.now)

/-! ## Traces and device-side launches -/

/-- R190, R194, R202, R308, R370: the trace instructions. `dtst` leaves in flight, for each copy, 0 where the launch is an
incremental relaunch, its address lies in no window of the host or a peer and its granule's bit of the frozen map is 0, and 1
else; a record of another node gives 1, an index that failed 0. `trec` puts a local granule into its casement's recorder and
keeps every run it held, and `trec.wide` makes the casement wide; in a launch without TRACE neither does anything.
The model's own readings here: log entry 21. -/
def Obligations.TraceInstructionResults : Prop := ∀ (d x : Opnd) (n : Nat) s v es,
  (let i := Instr.dtst d x n
    let r := v.request i .dtst n .dflt (spread (v.inOrder i.cls es) 1 1 fun _ e a =>
      ⟨e.mask, a, 1, 0, 0, if d.isReg then [rkey d.code e.slot] else [], false⟩)
      (if d.isReg then missedKeys (v.inOrder i.cls es) d.code 1 else [])
    let f := s.locateTrace v.ctx r.accs
    Ready i s v → v.resolve i n .rd 1 x = .ok es → v.countFull .load = false →
    (r.node = none → f.traps = [] ∧ f.faults = []) →
    ∃ t ws id p, exec i s = .next t ∧ t.panes = s.panes ∧
      OneEntry s.units t.units v.uid (v.past i (v.flying .load (destCodes d 1))) ∧
      t.pend.find id = some p ∧ p.work = .regs ws [] [] 0 ∧ p.uid = v.uid ∧ p.pane = v.pid ∧ p.kind = .load ∧
      (r.node = none → ∀ q ∈ f.locs, ∀ pc ∈ q.2, ∀ key ∈ q.1.keys,
        (key, w64 (if v.l.traced = true ∧ v.l.full = false ∧ (frameOf s.dev pc.pa).away = false ∧
          s.frozenBit v.ctx pc.pa = false then 0 else 1)) ∈ ws) ∧
      (r.node.isSome → ∀ a ∈ r.accs, ∀ key ∈ a.keys, (key, w64 1) ∈ ws) ∧
      (d.isReg = true → ∀ e ∈ v.inOrder i.cls es, e.ea = none → (rkey d.code e.slot, 0) ∈ ws)) ∧
  (let i := Instr.trec x n
    let r := v.request i .trec n .dflt
      (spread (v.inOrder i.cls es) 1 1 fun _ e a => ⟨e.mask, a, 1, 0, 0, [], false⟩) []
    let f := s.locateTrace v.ctx r.accs
    Ready i s v → v.resolve i n .rd 1 x = .ok es → (r.node = none → f.traps = [] ∧ f.faults = []) →
    (v.l.traced = false → ∃ t, exec i s = .next t ∧ { t with units := s.units, tlb := s.tlb } = s ∧
      OneEntry s.units t.units v.uid (v.past i v.u)) ∧
    (∀ a pc, v.l.traced = true → r.node = none → f.locs = [(a, [pc])] → (frameOf s.dev pc.pa).local = true →
      v.ca.recd.full = false → v.ca.recd.runs.length < 8 → ∃ t runs, exec i s = .next t ∧
        { t with units := s.units, tlb := s.tlb, cas := s.cas } = s ∧ OneEntry s.units t.units v.uid (v.past i v.u) ∧
        OneEntry s.cas t.cas v.cid { v.ca with recd := { v.ca.recd with runs := runs } } ∧
        (∃ q ∈ runs, q.gran ≤ pc.pa / 4096 ∧ pc.pa / 4096 < q.gran + q.len) ∧
        ∀ q ∈ v.ca.recd.runs, ∃ q' ∈ runs, q'.gran ≤ q.gran ∧ q.gran + q.len ≤ q'.gran + q'.len)) ∧
  (Ready .trecWide s v →
    (v.l.traced = false → Stays .trecWide s v v.u) ∧
    (v.l.traced = true → ∃ t, exec .trecWide s = .next t ∧ { t with units := s.units, cas := s.cas } = s ∧
      OneEntry s.units t.units v.uid (v.past .trecWide v.u) ∧
      OneEntry s.cas t.cas v.cid { v.ca with recd := { v.ca.recd with wide := true } }))

/-- R148, R182, R183, R200, R318, R355, R369: `glaunch`, `tlaunch` and `rerun` release, claim an entry of the pending queue and
fetch their record as a load, or wait while the queue has no entry; `glaunch.nb` sets p0 at the active positions where it has
claimed one and clears it there, launching nothing, where it could not. -/
def Obligations.DeviceSideLaunchResults : Prop := ∀ (x : Opnd) (n : Nat) s v es,
  let waits := fun (i : Instr) => v.pendingFull = true → ∃ t, exec i s = .next t ∧
    OnlyUnit s t v.uid (v.u.parkOn .pendingQueue s.now)
  let starts := fun (i : Instr) (form : Nat) (nb : Bool) =>
    Ready i s v → v.resolve i n .rd 128 x = .ok es → s.allPerformed v.uid = true → v.u.fails = [] →
      Launches i form n nb s v es ∧ (nb = false → waits i) ∧
        (nb = true → v.pendingFull = true → SetsPane i s v (v.p.setPred 0 v.E 0))
  starts (.glaunch x n) 0 false ∧ starts (.glaunchNb x n) 1 true ∧ starts (.tlaunch x n) 2 false ∧
    starts (.rerun x n) 3 false

/-! ## Engines, batches, jobs and the baton -/

/-- R162 to R164, R166 to R169, R229: an engine's visit. A sealed batch or a halo command of one copy between two lines of this
device's own memory moves its bytes and no others and is gone; a batch whose copy met a cause moves nothing and keeps the cause
for its lane; a command without failures adds 1 to its completion word, a failed one also sets the word's bit 63. The collective
engine gathers this node's contributions, combines them at ROOT with the other nodes' once all have arrived, writes the results
and ends; a partial state that arrives is held until then. The model's own readings here: log entries 26, 27 and 28. -/
def Obligations.EngineVisits : Prop := ∀ (id : Nat) (s : State) (p : Pend),
  s.pend.find id = some p → p.id = id → p.due ≤ s.now → p.held = false → s.boundBefore p = true → PlainWork s p →
  let moved := fun (t : State) (ops : List CopyOp) => ∀ pl a b, (s.planCopies p.ctx ops).plans = [pl] → pl.op.srcScr = false →
    pl.op.dstScr = false → pl.src = [a] → pl.dst = [b] → a.n = b.n → 0 < a.n →
    t.mem.readNat b.pa b.n = s.mem.readNat a.pa a.n ∧
    ∀ x, x < b.pa ∨ b.pa + b.n ≤ x → t.mem.readByte x = s.mem.readByte x
  (∀ lane ops y, p.work = .copy lane ops [] [] 0 → s.panes.find p.pane = some y →
    (LocalCopies s p ops → ∃ t, exec (.copyBatchComplete id) s = .next t ∧ t.pend.find id = none ∧ t.units = s.units ∧
      (∀ k, t.panes.find k = s.panes.find k) ∧ moved t ops) ∧
    (∀ pl c a, (s.planCopies p.ctx ops).plans = [pl] → pl.trap = some (c, a) → (s.planCopies p.ctx ops).busy = false →
      (s.planCopies p.ctx ops).faults = [] → ∃ t, exec (.copyBatchComplete id) s = .next t ∧ t.mem = s.mem ∧
        t.pend.find id = none ∧ ∀ o, ops = [o] →
          OneEntry s.panes t.panes p.pane { y with batchFails := y.batchFails ++ [⟨id, lane, c, a, 0, o.mask⟩] })) ∧
  (∀ c, p.work = .halo c [] [] 0 → s.engineTurn p = true → c.cw = none → LocalCopies s p c.copies →
    ∃ t, exec (.haloCommandComplete id) s = .next t ∧ t.pend.find id = none ∧ t.units = s.units ∧ t.panes = s.panes ∧
      moved t c.copies) ∧
  (∀ c own code a pc, s.engineTurn p = true → code < 32 → c.cw = some a → remoteNode s.dev c.cwRec = none →
    let f := s.locate p.ctx .atomic [⟨c.mask, a, 8, 0, 0, [], false⟩]
    let done := fun (t : State) => t.pend.find id = none ∧ t.panes = s.panes ∧
      t.mem.readNat pc.pa 8 = (if code = 0 then (s.homeRead pc.pa 8 + 1) % 2 ^ 64
        else (s.homeRead pc.pa 8 + 1) % 2 ^ 64 ||| 2 ^ 63) ∧
      ∀ x, x < pc.pa ∨ pc.pa + 8 ≤ x → t.mem.readByte x = s.mem.readByte x
    f.busy = none → f.traps = [] → refusals s.dev (.atom .add .i64 false) f.locs = [] → f.faults = [] →
    f.locs.flatMap Prod.snd = [pc] → (frameOf s.dev pc.pa).local = true →
    (p.work = .halo c [] [] (32 + code) → ∃ t, exec (.haloCommandComplete id) s = .next t ∧ done t) ∧
    (p.work = .coll c own [] [] (32 + code) → ∃ t, exec (.collectiveCommandComplete id) s = .next t ∧ done t)) ∧
  (∀ c, p.work = .coll c [] [] [] 0 → s.engineTurn p = true → c.inGroup s.dev.node = true → c.badParam = false →
    c.root = s.dev.node → LocalCopies s p ((c.gathers s.dev.node).filterMap fun g => g) →
    let pl := s.planCopies p.ctx ((c.gathers s.dev.node).filterMap fun g => g)
    ∃ t, exec (.collectiveCommandComplete id) s = .next t ∧ t.mem = s.mem ∧ t.panes = s.panes ∧
      let own := c.ownWords (gathered pl.s (s.whoOf p) pl.plans [] (c.gathers s.dev.node) 0).1
      t.pend.find id = some { p with work := .coll c own [] [] 3 }) ∧
  (∀ c own xs, p.work = .coll c own [] [] 3 → s.engineTurn p = true → c.root = s.dev.node → s.mismatch c = false →
    firstOf (s.arrived c) (c.peers s.dev.node) = some xs → ∃ t, exec (.collectiveCommandComplete id) s = .next t ∧
      t.mem = s.mem ∧ t.panes = s.panes ∧ t.dev.partials = xs.foldl (fun l x => l.erase x) s.dev.partials ∧
      let res := c.result (own.take (c.N * c.partWidth) :: xs.map Partial.words) (own.drop (c.N * c.partWidth))
      t.pend.find id = some { p with work := .coll c res [] [] 4 }) ∧
  (∀ c own o w pl b, p.work = .coll c own [] [] 4 → s.engineTurn p = true → c.scatters own = [(o, w)] → LocalCopies s p [o] →
    (s.planCopies p.ctx [o]).plans = [pl] → pl.dst = [b] → ∃ t, exec (.collectiveCommandComplete id) s = .next t ∧
      t.mem.readNat b.pa b.n = w % 2 ^ (8 * b.n) ∧ (∀ x, x < b.pa ∨ b.pa + b.n ≤ x → t.mem.readByte x = s.mem.readByte x) ∧
      t.pend.find id = some { p with work := .coll c own [] [] 5 }) ∧
  (∀ c own, p.work = .coll c own [] [] 5 → s.engineTurn p = true → c.all = false ∨ c.root ≠ s.dev.node ∨ c.nodes = 1 →
    c.cw = none → ∃ t, exec (.collectiveCommandComplete id) s = .next t ∧ t.mem = s.mem ∧ t.pend.find id = none ∧
      t.panes = s.panes) ∧
  ∀ q : Partial, exec (.collectivePartialState q) s = .next (s.setDev { s.dev with partials := s.dev.partials ++ [q] })

/-- R40, R118, R120 to R122: a stack-side job that meets nothing writes every element of Y, each W's row times its member's X
rounded once to FP32, and its completion word 1; one with a field out of range writes 2^63 + 1 there and nothing of Y. A free
baton goes to the pane of the unit that has waited longest for it, and matrix registers of another context are stale.
The model's own readings here: log entries 30 and 31. -/
def Obligations.StackJobsAndBatonGrants : Prop := ∀ (s : State),
  (∀ (id : Nat) (p : Pend) (words : List Nat) (r : MemReq) (since : Nat) (again : Bool), s.pend.find id = some p → p.id = id →
    p.due ≤ s.now → p.held = false → s.boundBefore p = true → s.jobTurn p words since = true → PlainWork s p →
    p.work = .job words r [] since again → words.length = 16 → remoteNode s.dev (Job.ofWords words).yrec = none →
    let j := Job.ofWords words
    let ty := (jobType r.i).1
    let add := (jobType r.i).2
    let gm := ((s.cas.find (s.whoOf p).cid).map CasementSt.gm).getD 0 * ((s.launchOfPane p.pane).map LaunchSt.M).getD 1
    let W := s.jobLocate p.ctx .read (recRows j.wrec r.xm gm j.nrow (rowLen ty j.K))
    let X := W.s.jobLocate p.ctx .read (recRows j.xrec r.xm gm j.G (4 * j.K))
    let Y := X.s.jobLocate p.ctx .write (recRows j.yrec r.xm gm j.G (4 * j.nrow))
    let cs := jobWrites s ty add j W.locs X.locs Y.locs
    let C := (cs.foldl (fun s c => s.plainWrite (s.whoOf p) c) Y.s).jobLocate p.ctx .write (j.cwAcc r.xm 1)
    let C0 := s.jobLocate p.ctx .write (j.cwAcc r.xm (2 ^ 63 + 1))
    let clear := fun (f : Found) => f.traps = [] ∧ f.faults = [] ∧ f.busy = none ∧
      ∀ q ∈ f.locs, ∀ pc ∈ q.2, (frameOf s.dev pc.pa).local = true
    let cw := fun (f : Found) (st : Nat) =>
      ((f.locs.flatMap Prod.snd).take 1).map fun pc => (⟨pc.pa, pc.va, 8, st, pc.leaf.trk, false⟩ : Chunk)
    (j.bad ty add = true → clear C0 → ∃ t, exec (.stackJobComplete id) s = .next t ∧ t.pend.find id = none ∧
      t.panes = s.panes ∧ Written s t (cw C0 (2 ^ 63 + 1))) ∧
    (j.bad ty add = false → remoteNode s.dev j.wrec = none → remoteNode s.dev j.xrec = none →
      BufRec.mmode j.wrec = 0 → j.beyond = false → clear W → clear X → clear Y → clear C → outsideStack s.dev W.locs = false →
      ∃ t, exec (.stackJobComplete id) s = .next t ∧ t.pend.find id = none ∧ t.panes = s.panes ∧
        Written s t (cs ++ cw C 1) ∧ (∀ ch ∈ cs, ∃ y ∈ Y.locs, ∃ pc ∈ y.2, ch.pa = pc.pa ∧ ch.size = pc.n) ∧
        ∀ q ∈ X.locs.zip Y.locs, ∀ pc ∈ q.2.2, ∃ ch ∈ cs, ch.pa = pc.pa ∧ ch.size = pc.n ∧
          ∀ k row, W.locs[k]? = some row → let off := pc.va - q.2.1.ea % 2 ^ 57
            off ≤ 4 * k → 4 * k + 4 ≤ off + pc.n →
            bits ch.data (8 * (4 * k - off)) 32 = jobElement ty j.K (homePieces s row.2) (homePieces s q.1.2)
              (if add then some (bits (homePieces s q.2.2) (32 * k) 32) else none) % 2 ^ 32)) ∧
  ∀ (core : Nat) (q : Nat × UnitSt), s.batonNext core = some q → ∃ t, exec (.batonGrant core) s = .next t ∧
    { t with cores := s.cores } = s ∧ (t.core core).baton = some q.2.pane ∧ (t.core core).mx = (s.core core).mx ∧
    (∀ c, c ≠ core → t.core c = s.core c) ∧ (s.core core).baton = none ∧ q ∈ s.batonWaiters core ∧
    (∀ x ∈ s.batonWaiters core, (∃ y, s.panes.find x.2.pane = some y ∧ y.out = false) →
      (∃ c, s.casOfPane x.2.pane = some c ∧ (c.phase = .resident ∨ c.phase = .saving ∨ c.phase = .resuming)) →
      parkedBefore s x.2 q.2 = false) ∧
    ((t.core core).stale = true ↔ (s.core core).stale = true ∨
      ∃ c, (s.core core).batonCtx = some c ∧ c ≠ ((s.launchOfPane q.2.pane).map LaunchSt.ctx).getD 0)

/-! ## Other nodes and the host's replies -/

/-- R205, R206, R208 to R210, R212, R215: a reply to one of several requests of an instruction is kept and its charge released;
the last one writes a load's copies and lets its unit go on, or, where a request failed, raises REMOTE, or RTIMEOUT for status
1, with the failing line and its erem; a request whose time has passed is answered with status 1, which a store keeps for its
unit's next release. A peer's request whose tag fails, or without a key, is dropped and counted; any other is performed at its
address in the context that its offset names and answered, and one to a context that is not defined is answered with status 4.
The model's own readings here: log entries 45 and 48. -/
def Obligations.RemoteRequestsAndReplies : Prop := ∀ (s : State),
  (∀ (id k status data stamp : Nat) (p : Pend) (r : MemReq) (rs : List RemReq) (q : RemReq) (x : PaneSt),
    s.pend.find id = some p → p.id = id → p.work = .remote r rs → rs[k]? = some q → q.answer = none → q.lost = false →
    q.held = false → (q.host = true ∨ q.node ≠ s.dev.node) → s.panes.find p.pane = some x →
    (∀ w, q.window = some w → (x.discharged s.now q).charge.getD w 0 = x.charge.getD w 0 - q.charge) ∧
    ((∃ j y, j ≠ k ∧ rs[j]? = some y ∧ y.answer = none) → ∃ t, exec (.remoteReply id k status data stamp) s = .next t ∧
      t.mem = s.mem ∧ t.units = s.units ∧ OneEntry s.panes t.panes p.pane (x.discharged s.now q) ∧
      t.pend.find id = some { p with work := .remote r (rs.set k { q with answer := some (status, data) }) } ∧
      (t.core p.core).lamport = max (s.core p.core).lamport stamp) ∧
    (∀ sx n a key u, rs = [q] → k = 0 → r.op = .load sx n → r.accs = [a] → r.zeros = [] → a.keys = [key] → key < 126 * 256 →
      a.ea / 64 = q.line → 0 < a.size → a.ea % 64 + a.size ≤ 64 → s.units.find p.uid = some u →
      u.park = .work id →
      (status = 0 → ∃ t y, exec (.remoteReply id k status data stamp) s = .next t ∧ t.mem = s.mem ∧ t.pend.find id = none ∧
        OneEntry s.units t.units p.uid (u.advance (1 + r.i.extraWords) s.now) ∧ OneEntry s.panes t.panes p.pane y ∧
        Sparse.read y.regs key = extendTo sx n (bits data (8 * (a.ea % 64)) (8 * a.size)) ∧
        ∀ j, j ≠ key → Sparse.read y.regs j = Sparse.read x.regs j) ∧
      (status ≠ 0 → ∃ s1 : State, { s1 with panes := s.panes, pend := s.pend, cores := s.cores } = s ∧
        OneEntry s.panes s1.panes p.pane (x.discharged s.now q) ∧ s1.pend.find id = none ∧
        exec (.remoteReply id k status data stamp) s = .next (s1.deliver p.uid
          { cause := if status = 1 then 0x0B else 0x0A, mask := a.mask, eaddr := q.addr, word := some r.word
            erem := eremOf { q with answer := some (status, data) } } r.word (epcOf u.pc u.idx))))) ∧
  (∀ (id : Nat) (p : Pend) (r : MemReq) (q : RemReq) (x : PaneSt) (u : UnitSt), s.pend.find id = some p → p.id = id →
    p.work = .remote r [q] → q.answer = none → q.timeout ≤ s.now → s.panes.find p.pane = some x →
    s.units.find p.uid = some u → r.op = .store → ∃ t m, exec (.remoteTimeout id) s = .next t ∧ t.mem = s.mem ∧
      t.pend.find id = none ∧ OneEntry s.panes t.panes p.pane (x.discharged s.now q) ∧ OneEntry s.units t.units p.uid
        { u with fails := u.fails ++ [⟨m, eremOf { q with answer := some (1, 0) }, q.addr, id⟩] }) ∧
  (∀ q : RemReq, q.node < 1024 → (∀ w, q.window = some w → w < 16) → ∀ st d, q.answer = some (st, d) →
    bits (eremOf q) 40 8 = st % 2 ^ 8 ∧ bits (eremOf q) 0 10 = q.node ∧ bits (eremOf q) 10 1 = (if q.host then 1 else 0)) ∧
  ∀ r : Inbound,
    (r.tagOk = false ∨ s.dev.keys.find r.src = none ∨ s.dev.recovery = true →
      exec (.inboundRemoteRequest r) s = .next (s.setDev { s.dev with badTags := s.dev.badTags + 1 })) ∧
    (r.tagOk = true → (s.dev.keys.find r.src).isSome → s.dev.recovery = false → s.poison = [] →
      let answers := fun (t : State) (ws : List Nat) => t.panes = s.panes ∧ t.units = s.units ∧
        t.dev.answers = s.dev.answers ++ [⟨2 ^ 32 + r.src, ws⟩]
      (s.ctxs.find (bits r.off 35 6) = none → r.kind ≠ .batch →
        ∃ t, exec (.inboundRemoteRequest r) s = .next t ∧ t.mem = s.mem ∧ answers t [4, 0]) ∧
      ∀ c pa l, (s.ctx c).mapsOff →
        (r.kind = .load → s.resolveInbound .read (.load false 8) r.off = .ok c pa l →
          ∃ t, exec (.inboundRemoteRequest r) s = .next t ∧ t.mem = s.mem ∧ answers t [0, s.homeRead pa r.size]) ∧
        (r.kind = .store → s.resolveInbound .write .store r.off = .ok c pa l →
          ∃ t, exec (.inboundRemoteRequest r) s = .next t ∧ answers t [0, 0] ∧
            Written s t [⟨pa, r.off % 2 ^ 35, r.size, r.data, l.trk, false⟩]) ∧
        (r.kind = .atomic → s.resolveInbound .atomic (inboundOp r) r.off = .ok c pa l →
          let old := s.homeRead pa r.size
          let new := match r.op2 with
            | none => atomApply r.op r.ty old r.data r.cmp
            | some o => atom2Apply o old r.data
          ∃ t, exec (.inboundRemoteRequest r) s = .next t ∧ answers t [0, old] ∧
            Written s t [⟨pa, r.off % 2 ^ 35, r.size, new, l.trk, false⟩]))

/-! ## Page faults, watchdogs and residence -/

/-- R227 to R230: a page-fault record whose window has closed enters its context's ring, with its waiters counted and PROD as its
ID, and PROD grows; an increment of REPLY is acted on once. A record answered 1 is dropped and the engine items that wait for it
are tried again, one answered 3 ends its context with FAULTFATAL, and one not answered stays.
The model's own readings here: log entries 41, 42 and 52. -/
def Obligations.PageFaultRecordsAndReplies : Prop := ∀ (s : State) (ctx : Nat) (c : CtxSt) (f : FaultRec),
  s.ctxs.find ctx = some c → f ∈ c.faults →
  (∀ d rb rl id pa l pb m, s.closedFaults d = [(ctx, f)] → c.desc ≠ 0 → c.mapsOff → s.ringFull ctx = false →
    s.devReadWord ctx c.desc = some rb → s.devReadWord ctx (c.desc + 8) = some rl → s.devReadWord ctx (c.desc + 16) = some id →
    (s.devXlate ctx .write c.desc).isSome →
    let a := bits rb 12 45 * 4096 + 32 * (id % 2 ^ bits rl 0 5)
    let n := min (s.pend.vals.filter fun p => c.waits ctx f p).length 65535
    let rec0 := 2 ^ 56 + f.acc % 256 * 2 ^ 48 + n * 2 ^ 32 + f.reason
    s.devXlate ctx .write a = some (pa, l) →
    (∀ v, (s.homeWrite ctx ⟨pa, a, 32, v, l.trk, false⟩).devXlate ctx .write (c.desc + 16) = some (pb, m)) →
    s.converting pa = false → s.converting pb = false → pb + 8 ≤ pa ∨ pa + 32 ≤ pb →
    ∃ t, exec (.faultMergeWindow d) s = .next t ∧ t.panes = s.panes ∧ t.units = s.units ∧
      OneEntry s.ctxs t.ctxs ctx { c with faults := c.faults.map fun x => if x = f then { x with ring := some id } else x } ∧
      t.mem.readNat pa 8 = rec0 % 2 ^ 64 ∧ t.mem.readNat (pa + 8) 8 = f.page * 65536 % 2 ^ 64 ∧
      t.mem.readNat (pa + 16) 8 = id % 2 ^ 64 ∧ t.mem.readNat (pa + 24) 8 = 0 ∧ t.mem.readNat pb 8 = (id + 1) % 2 ^ 64 ∧
      ∀ x, x < pa ∨ pa + 32 ≤ x → x < pb ∨ pb + 8 ≤ x → t.mem.readByte x = s.mem.readByte x) ∧
  (∀ id, c.replies ≠ 0 → c.faults = [f] → f.ring = some id → s.fetchers ctx f = [] →
    (s.answerOf ctx id = 0 → ∃ t, exec (.pageFaultReply ctx) s = .next t ∧ { t with ctxs := s.ctxs } = s ∧
      OneEntry s.ctxs t.ctxs ctx { c with replies := c.replies - 1 }) ∧
    (s.answerOf ctx id = 1 → (s.pend.vals.filter fun p => c.waits ctx f p) = [] → ∃ t, exec (.pageFaultReply ctx) s = .next t ∧
      { t with ctxs := s.ctxs } = s ∧ OneEntry s.ctxs t.ctxs ctx { c with replies := c.replies - 1, faults := [] }) ∧
    (∀ p lane ops pages k, s.answerOf ctx id = 1 → (s.pend.vals.filter fun p => c.waits ctx f p) = [p] →
      p.work = .copy lane ops pages [] k → s.pend.find p.id = some p → ∃ t, exec (.pageFaultReply ctx) s = .next t ∧
        t.mem = s.mem ∧ t.units = s.units ∧
        t.pend.find p.id = some { p with held := false, due := s.now, work := .copy lane ops [] [] k }) ∧
    (s.answerOf ctx id = 3 → ∃ s1 : State, { s1 with ctxs := s.ctxs } = s ∧
      exec (.pageFaultReply ctx) s = .next (s1.terminate ctx 0x1A 0)))

/-- R60, R61, R62, R232, R233, R381: a casement whose barrier count, or whose resident time, has passed its limit has every
unit stopped, and BARRIER, or PROGRESS, is delivered to its first live unit in the handler at phv, at the watchdog level; each
fires once. A limit not written in this ac is that of wdb, or wdp. Holds of a context whose fring names no diagnostic area.
The model's own readings here: log entry 43. -/
def Obligations.WatchdogsFire : Prop := ∀ (s : State) (cas uid : Nat) (ca : CasementSt) (l : LaunchSt) (u : UnitSt) (x : PaneSt),
  s.cas.find cas = some ca → s.launches.find ca.lid = some l → ca.fired = false → (s.ctx l.ctx).desc = 0 →
  (s.diagEntries cas l.M).findSome? DiagEntry.uid = some uid → s.units.find uid = some u → u.level.inSup = false →
  s.panes.find u.pane = some x → x.cas = cas → (s.ctx l.ctx).phv ≠ 0 →
  let w := u.onward s.now
  let fires := fun (i : Instr) (cause : Nat) => ∃ t, exec i s = .next t ∧ t.mem = s.mem ∧ t.panes = s.panes ∧
    (∃ e, t.units.find uid = some e ∧ e.level = .watchdog ∧ e.sup = true ∧ e.ecause = w64 cause ∧
      e.epc = w64 (epcOf w.pc w.idx) ∧ e.emask = w.xm ∧ e.pc = (s.ctx l.ctx).phv.toNat % 2 ^ 57 ∧ e.idx = 0 ∧
      e.park = .ready ∧ e.seated = true) ∧
    (∀ k y, k ≠ uid → s.units.find k = some y → (∃ z, s.panes.find y.pane = some z ∧ z.cas = cas) →
      t.units.find k = some { y.onward s.now with park := .stopped }) ∧
    ∃ c, t.cas.find cas = some c ∧ c.fired = true
  (∀ t0, ca.phase = .resident → ca.barStart = some t0 → (s.ctx l.ctx).barLimit < s.now - t0 →
    fires (.barrierWatchdog cas) 0x0C) ∧
  (ca.resident = true → (s.ctx l.ctx).progressLimit < ca.ran + (s.now - ca.admitAt) → fires (.progressWatchdog cas) 0x0D) ∧
  ((s.ctx l.ctx).was = [] →
    (s.ctx l.ctx).barLimit =
      1024 * (if bits (s.ctx l.ctx).wdb.toNat 0 32 = 0 then 2 ^ 20 else bits (s.ctx l.ctx).wdb.toNat 0 32) ∧
    (s.ctx l.ctx).progressLimit =
      2 ^ 20 * (if bits (s.ctx l.ctx).wdp.toNat 0 32 = 0 then 2 ^ 16 else bits (s.ctx l.ctx).wdp.toNat 0 32))

/-- R23, R47, R181, R187, R237: residence. A slice that has run out, and a core on which every pane waits for registers,
request the pre-emption of a casement's whole sash; the panes of a casement admitted again start at psv with efd 1 and nothing
in their registers; a pane that has waited in `ctwt` for its threshold leaves its slot, once its host writes are placed, and
comes back to a free one; its units then stand as after `acq`.
The model's own readings here: log entries 38, 39 and 40. -/
def Obligations.ResidenceEvents : Prop := ∀ (s : State),
  let stops := fun (t : State) (ca : CasementSt) => ∀ k c, s.cas.find k = some c → c.lid = ca.lid → c.sid = ca.sid →
    c.phase = .resident → t.cas.find k = some { c with phase := .stopping, preAt := s.now }
  let whole := fun (ca : CasementSt) => ∀ q ∈ s.sashOf ca, q.2.phase = .resident ∧ q.2.fired = false
  (∀ core ctx k ca, s.sliceOver core ctx = true → s.residents core ctx = [(k, ca)] → s.cas.find k = some ca → whole ca →
    ∃ t, exec (.sliceExpiry core ctx) s = .next t ∧ { t with cas := s.cas } = s ∧ stops t ca) ∧
  (∀ core k ca, s.youngest (s.deadlocked core) = some k → s.cas.find k = some ca →
    ((s.ctx (s.ctxOfCas ca)).psv ≠ 0 → whole ca → ∃ t, exec (.vgrowDeadlock core) s = .next t ∧ { t with cas := s.cas } = s ∧
      stops t ca) ∧
    ((s.ctx (s.ctxOfCas ca)).psv = 0 → ∃ epc, exec (.vgrowDeadlock core) s = .next (s.terminate (s.ctxOfCas ca) 0x13 epc))) ∧
  (∀ cas ca l pid p, s.cas.find cas = some ca → s.launches.find ca.lid = some l → ca.phase = .resuming →
    s.panesOf cas = [(pid, p)] → s.panes.find pid = some p → p.saved = true →
    ((s.ctx l.ctx).psv = 0 → exec (.resumption cas) s = .next (s.terminate l.ctx 0x13 0)) ∧
    ((s.ctx l.ctx).psv ≠ 0 → ∃ t x u, exec (.resumption cas) s = .next t ∧ t.mem = s.mem ∧
      OneEntry s.panes t.panes pid x ∧ x.regs = [] ∧ x.preds = [] ∧ x.lanes = [] ∧ x.slot = p.slot ∧ x.vcnt = p.vcnt ∧
      OneEntry s.units t.units s.nextId u ∧ u.pane = pid ∧ u.pc = (s.ctx l.ctx).psv.toNat ∧ u.sup = true ∧
      u.level = .resume ∧ u.ecause = 0x13 ∧ u.efd = 1 ∧ u.xm = fullMask l.M)) ∧
  ∀ pid p c l, s.panes.find pid = some p → s.cas.find p.cas = some c → s.launches.find c.lid = some l →
    (s.swappable pid p c l = true →
      let va := l.swapBase + (64 * c.core + p.slot) * l.saveSize
      let a := s.acquireUnits c.core ((s.unitsOf pid).map Prod.fst)
      (s.unplacedIn pid ≠ [] → ∃ t, exec (.swapOut pid) s = .next t ∧ (t.panes.find pid).map PaneSt.out = some false) ∧
      (s.unplacedIn pid = [] → a.fresh.1.devSpan l.ctx va l.saveSize (Config.swapByte s.nextId) = none →
        ∃ s1 : State, { s1 with nextId := a.nextId } = a ∧ exec (.swapOut pid) s = .next (s1.terminate l.ctx 0x1A 0)) ∧
      (s.unplacedIn pid = [] → (a.fresh.1.devSpan l.ctx va l.saveSize (Config.swapByte s.nextId)).isSome →
        ∃ t, exec (.swapOut pid) s = .next t ∧ t.units = a.units ∧
          OneEntry s.panes t.panes pid { p with out := true, outAt := s.now, outVa := va } ∧
          ((t.core c.core).baton ≠ some pid ∨ ((s.core c.core).engQ.any fun o => o.pane == pid) = true))) ∧
    ∀ k, s.returnSlot pid p c l = some k → s.spanOk l.ctx .read p.outVa l.saveSize = true →
      ∃ t, exec (.swapIn pid) s = .next t ∧
        { t with panes := s.panes } = s.acquireUnits c.core ((s.unitsOf pid).map Prod.fst) ∧
        OneEntry s.panes t.panes pid { p with out := false, slot := k } ∧ k < 64 ∧ (s.usedSlots c.core).contains k = false

/-! ## Launches -/

/-- R173, R174, R176, R183 to R185: the way into the launch queue. A host write that ends a record latches it: it takes an entry
and ACCEPTED grows, or, with 64 in the queue, REFUSED grows and LASTREASON is 0x09. A pending record moves to the queue, or to
the task table for `tlaunch`. The oldest unchecked record is checked: accepted with its sashes to bind, or refused with the first
code that applies and gone; the check of a DET or traced record reads its descriptor, arguments and header, which recalls their
owners (R9). A task whose counters all hold their thresholds becomes ready.
The model's own readings here: log entry 33. -/
def Obligations.LaunchQueueEvents : Prop := ∀ (s : State),
  (∀ (ctx port : Nat) (data : List Byte) (c : CtxSt), s.ctxs.find ctx = some c → data.length = 128 →
    let ws := (List.range 16).map fun k => ofBytes ((data.drop (8 * k)).take 8)
    ((s.queueOf ctx false).length < 64 → ∃ t l c', exec (.hostLaunch ctx port 0 data) s = .next t ∧ t.mem = s.mem ∧
      OneEntry s.launches t.launches s.nextId l ∧ l.ctx = ctx ∧ l.kind = .launch ∧ l.phase = .queued ∧ l.words = ws ∧
      t.nextId = s.nextId + 1 ∧ OneEntry s.ctxs t.ctxs ctx c' ∧ c'.accepted = (c.accepted + 1) % 2 ^ 64 ∧
      c'.refused = c.refused ∧ ∀ k, k < 16 → (c'.port port).getD k 0 = ws.getD k 0) ∧
    (64 ≤ (s.queueOf ctx false).length → ∃ t c', exec (.hostLaunch ctx port 0 data) s = .next t ∧
      (∀ q ∈ t.launches, q ∈ s.launches) ∧ t.ctxs.find ctx = some c' ∧ c'.refused = (c.refused + 1) % 2 ^ 64 ∧ c'.lastReason = 9)) ∧
  (∀ (cas : Nat) (ca : CasementSt) (e : PendRec), s.cas.find cas = some ca → ca.pendQ = [e] → e.words ≠ [] →
    s.queueFull (s.ctxOfCas ca) (e.form == 2) = false → ∃ t l, exec (.pendingMove cas) s = .next t ∧ t.mem = s.mem ∧
      OneEntry s.cas t.cas cas { ca with pendQ := [] } ∧ OneEntry s.launches t.launches s.nextId l ∧ l.words = e.words ∧
      l.ctx = s.ctxOfCas ca ∧ l.phase = .queued ∧
      l.kind = (if e.form = 2 then .task else if e.form = 3 then .relaunch else .launch)) ∧
  (∀ (task : Bool) (ctx lid : Nat) (l : LaunchSt), s.unchecked ctx task = some (lid, l) → s.launches.find lid = some l →
    let i : Instr := if task then .taskCheck ctx else .launchCheck ctx
    (s.checkRecord l = none → ∃ t l', exec i s = .next t ∧ { t with launches := s.launches } = s.recordRead l ∧
      (s.recordRead l).mem = s.mem ∧ (l.det = false → l.trace = false → s.recordRead l = s) ∧
      OneEntry s.launches t.launches lid l' ∧ l'.phase = .accepted ∧ l'.todo = l.order ∧ l'.words = l.words ∧ l'.kind = l.kind) ∧
    (∀ code c, s.checkRecord l = some code → s.ctxs.find ctx = some c → ∃ t, exec i s = .next t ∧ t.launches.find lid = none ∧
      (task = false → ∃ c', t.ctxs.find ctx = some c' ∧ c'.refused = (c.refused + 1) % 2 ^ 64 ∧ c'.lastReason = code)) ∧
    (l.badFields = true → s.checkRecord l = some 1) ∧
    (l.badFields = false → l.N % l.M ≠ 0 → s.checkRecord l = some 2) ∧
    (l.badFields = false → l.N % l.M = 0 → l.isTask = false → l.X = 0 ∨ 2 ^ 31 < l.X ∨ 2 ^ 48 ≤ l.grid →
      s.checkRecord l = some 3)) ∧
  ∀ (ctx task lid : Nat) (l : LaunchSt), (s.queueOf ctx true).find? (fun q => q.2.entry = task) = some (lid, l) →
    l.phase = .accepted →
    (∀ q ∈ l.counters, ∃ pa lf, s.counterPlace ctx .read q.1 = some (pa, lf) ∧ q.2 ≤ s.homeRead pa 8) →
    ∃ t l', exec (.taskReady ctx task) s = .next t ∧ { t with launches := s.launches } = s ∧
      OneEntry s.launches t.launches lid l' ∧ l'.phase = .running ∧ l'.ready = true ∧ l'.todo = l.todo ∧ l'.words = l.words

/-- R21, R22, R32, R35, R39, R155, R177 to R179, R188: from binding to completion. The firmware binds the first work of the policy
order to enabled cores of one die and writes the record to the anchor core's table, or starts a launch; a core admits the head of
its table with its panes in the lowest free slots, each with one unit at ENTRY with every position active; a casement whose panes
have exited and whose work is done retires; and a launch whose casements have retired ends with its completion word and its
parent's counter, a task with its completion counter alone. The model's own readings here: log entries 32 and 36. -/
def Obligations.BindingAdmissionAndRetirement : Prop := ∀ (s : State),
  (∀ lid die b, s.nextBind = some (.place lid die b) → ∃ t, exec .bind s = .next t ∧ t.mem = s.mem ∧ t.panes = s.panes ∧
    (t.core b.anchor).table = (s.core b.anchor).table ++ [b] ∧ (∀ k, k ≠ b.anchor → t.core k = s.core k) ∧
    (∀ k ∈ b.cores, k ∈ s.dev.cores ∧ k / 16 = die) ∧ t.dev.die = (die + 1) % 8 ∧ t.dev.lastCtx = b.ctx ∧
    ∀ l, s.launches.find lid = some l → b.kind ≠ 3 → OneEntry s.launches t.launches lid { l with todo := l.todo.tail }) ∧
  (∀ lid l, s.nextBind = some (.start lid) → s.launches.find lid = some l → l.traced = false → ∃ t l',
    exec .bind s = .next t ∧ t.panes = s.panes ∧ OneEntry s.launches t.launches lid l' ∧ l'.phase = .running ∧
    l'.started = true ∧ l'.full = true ∧ l'.skipped = [] ∧ l'.retired = 0 ∧ l'.words = l.words ∧
    (∀ k, k ∈ l'.todo ↔ k ∈ l.todo ∧ { l with skipped := [] }.members k ≠ [])) ∧
  (∀ (core : Nat) (b : BindRec) (l : LaunchSt) (linear run : Nat) (ks : List Nat), (s.core core).table = [b] → b.kind = 0 →
    b.cas = [linear] → b.cores = [core] → s.launches.find b.lid = some l → l.det = false → l.pmap = 0 →
    (s.core core).admAt ≠ some s.now → (s.ctx b.ctx).logFlag 1 = false → s.fits core (l.foot l.V) = some (ks, run) →
    ∃ t ca, exec (.admission core) s = .next t ∧ t.mem = s.mem ∧ (t.core core).table = [] ∧ (t.core core).admAt = some s.now ∧
      OneEntry s.cas t.cas s.nextId ca ∧ ca.lid = b.lid ∧ ca.linear = linear ∧ ca.core = core ∧ ca.phase = .resident ∧
      ca.admits = 1 ∧ ca.run = run ∧ ca.scratch = [] ∧ ca.longs = [] ∧
      (l.isTask = false → ca.gx = linear % l.X ∧ ca.gy = linear / l.X % l.Y ∧ ca.gz = linear / l.X / l.Y % l.Z ∧
        ca.gm = linear / l.X / l.Y / l.Z) ∧
      (∀ j, j < ks.length → t.panes.find (s.nextId + 1 + 2 * j) = some (PaneSt.start s.nextId j (ks.getD j 0) l.V) ∧
        t.units.find (s.nextId + 2 + 2 * j) =
          some (UnitSt.start (s.nextId + 1 + 2 * j) 0 l.entryPc s.now (fullMask l.M))) ∧
      ∀ k ∈ ks, k < 64 ∧ k ∉ s.usedSlots core) ∧
  (∀ cas ca l, s.cas.find cas = some ca → s.launches.find ca.lid = some l → s.retirable cas = true → l.traced = false →
    (ca.phase = .resident ∧ ca.pendQ = [] ∧ ∀ q ∈ s.panesOf cas, q.2.exited = true) ∧
    ∃ t c, exec (.casementRetire cas) s = .next t ∧ t.cas.find cas = some c ∧ c.phase = .retired ∧ c.leftAt = s.now ∧
      t.launches.find ca.lid = some { l with retired := l.retired + 1 } ∧ (∀ q ∈ t.dets, cas ∉ q.2) ∧ t.units = s.units ∧
      (ca.ords = [] → t.mem = s.mem) ∧
      ∀ a, ca.ords = [a] → s.poison = [] → (s.ctx l.ctx).mapsOff →
        Written s t [⟨a.pa, 0, a.size, a.memOp.apply (s.homeRead a.pa a.size) a.val 0, a.trk, false⟩]) ∧
  (∀ lid l, s.launches.find lid = some l → s.finished lid l = true → l.phase = .running → l.traced = false →
    (s.ctx l.ctx).tracer ≠ some lid → (s.ctx l.ctx).mapsOff → l.parent = 0 →
    l.retired = l.size ∧ (∀ q ∈ s.cas, q.2.lid = lid → q.2.resident = false ∧ (q.2.phase = .retired → q.2.leftAt ≠ s.now)) ∧
    let gone := fun (t : State) => t.launches.find lid = none ∧ (∀ q ∈ t.cas, q.2.lid ≠ lid)
    (l.isTask = false → l.cwAddr = 0 → ∃ t, exec (.launchComplete lid) s = .next t ∧ gone t ∧ t.mem = s.mem) ∧
    (∀ pa lf, l.isTask = false → l.cwAddr ≠ 0 → l.cwAddr % 8 = 0 → s.devXlate l.ctx .write l.cwAddr = some (pa, lf) →
      (frameOf s.dev pa).local = true → s.converting pa = false → ∃ t, exec (.launchComplete lid) s = .next t ∧ gone t ∧
        Written s t [⟨pa, l.cwAddr, 8, l.cwVal, lf.trk, false⟩]) ∧
    (l.isTask = true → ∃ t, exec (.taskComplete lid) s = .next t ∧ gone t ∧ t.mem = s.mem)) ∧
  ∀ lid l pa lf, s.launches.find lid = some l → s.finished lid l = true → l.isTask = true → l.parent ≠ 0 →
    (s.ctx l.ctx).mapsOff → s.counterPlace l.ctx .atomic l.parent = some (pa, lf) →
    ∃ t, exec (.taskComplete lid) s = .next t ∧ t.launches.find lid = none ∧
      t.mem.readNat pa 8 = min (s.mem.readNat pa 8 + 1) (2 ^ 64 - 1) ∧
      ∀ x, x < pa ∨ pa + 8 ≤ x → t.mem.readByte x = s.mem.readByte x

/-! ## Errors, the host and the platform -/

/-- R11, R207, R240 to R242: an error struck is a self-test to run, which fences what it finds failing: a core leaves the
enabled set, a sill way takes its region's spare, a station goes down with the requests on its link, a remapped HBM4E row
changes nothing. An uncorrectable error poisons what it struck and raises nothing.
The model's own readings here: log entry 44. -/
def Obligations.ErrorsAndFences : Prop := ∀ (s : State) (u : HwUnit),
  exec (.correctedError u) s = .next (s.setDev { s.dev with testing := s.dev.testing ++ [u] }) ∧
  (u ∈ s.dev.testing →
    let tested := s.setDev { s.dev with testing := s.dev.testing.erase u }
    exec (.selfTestResult u true) s = .next tested ∧
    (∀ c, u = .core c → c ∈ s.dev.cores → ∃ t, exec (.selfTestResult u false) s = .next t ∧
      ∀ k, k ∈ t.dev.cores ↔ k ∈ s.dev.cores ∧ k ≠ c) ∧
    (∀ g, u = .sillWay g → bits s.dev.spares g 1 = 1 → exec (.selfTestResult u false) s =
      .next (tested.setDev { tested.dev with spares := s.dev.spares - 2 ^ g })) ∧
    (∀ g, u = .sillWay g → bits s.dev.spares g 1 = 0 → ∃ t, exec (.selfTestResult u false) s = .next t ∧
      (t.wp g).vw = 0 ∧ g ∈ t.dev.fencedWays ∧ t.panes = s.panes) ∧
    (∀ r, u = .hbmRow r → exec (.selfTestResult u false) s = .next tested) ∧
    (∀ k, u = .station k → ∃ t, exec (.selfTestResult u false) s = .next t ∧
      { t with dev := s.dev, pend := s.pend } = s ∧
      (∀ id p, s.pend.find id = some p → ∃ w, t.pend.find id = some { p with work := w } ∧
        w.reqs = p.work.reqs.map fun r => if r.station = some k ∧ r.answer = none then { r with lost := true } else r) ∧
      (k < 16 → bits t.dev.stations k 1 = 0) ∧ ∀ j, j < 16 → j ≠ k → bits t.dev.stations j 1 = bits s.dev.stations j 1)) ∧
  (∀ code ctx site, s.ctxs.find ctx = none → ∃ t, exec (.uncorrectableError code site ctx) s = .next t ∧
    { t with poison := s.poison } = s ∧ site ∈ t.poison ∧ ∀ x ∈ s.poison, x ∈ t.poison) ∧
  ∀ code ctx a, (s.ctxs.find ctx).isSome → ∃ t, exec (.uncorrectableError code (.line a) ctx) s = .next t ∧ .line a ∈ t.poison

/-- R157, R173, R218, R220, R253: the host. A key that names no region with the right and the span is answered with a NAK; else a
write stores its bytes, a read and an atomic answer with theirs, and a failed translation with a NAK. The management queue pair
installs and removes regions and binds ports for a context that is defined, 1,024 regions at most, and answers with a status; a
request that the configuration record does not accept, and any in recovery, is dropped.
The model's own readings here: log entries 46, 47 and 48. -/
def Obligations.HostOperations : Prop := ∀ (s : State) (port key addr : Nat),
  let sends := fun (t : State) (qp : Nat) (ws : List Nat) => t.dev.answers = s.dev.answers ++ [⟨qp, ws⟩] ∧ t.panes = s.panes ∧
    t.units = s.units
  (s.dev.recovery = true → ∀ data len cas v cmp, exec (.hostRdmaWrite port key addr data) s = .next s ∧
    exec (.hostRdmaRead port key addr len) s = .next s ∧ exec (.hostRdmaAtomic port key addr cas v cmp) s = .next s) ∧
  (s.dev.recovery = false →
    (∀ data, s.dev.regionFor key 1 addr data.length = none → ∃ t, exec (.hostRdmaWrite port key addr data) s = .next t ∧
      t.mem = s.mem ∧ sends t port [1]) ∧
    (∀ len, s.dev.regionFor key 0 addr len = none → ∃ t, exec (.hostRdmaRead port key addr len) s = .next t ∧
      t.mem = s.mem ∧ sends t port [1]) ∧
    (∀ cas v cmp, s.dev.regionFor key 2 addr 8 = none → ∃ t, exec (.hostRdmaAtomic port key addr cas v cmp) s = .next t ∧
      t.mem = s.mem ∧ sends t port [1]) ∧
    (∀ data r ps, s.dev.regionFor key 1 addr data.length = some r → r.launch = false → (s.ctx r.ctx).mapsOff →
      s.hostSpan r.ctx .write addr data.length = .ok ps → ∃ t, exec (.hostRdmaWrite port key addr data) s = .next t ∧
        sends t port [0] ∧
        Written s t (ps.map fun p => ⟨p.pa, p.va, p.n, ofBytes ((data.drop (p.va - addr)).take p.n), p.leaf.trk, false⟩)) ∧
    (∀ len r ps, s.dev.regionFor key 0 addr len = some r → r.launch = false → s.poison = [] →
      s.hostSpan r.ctx .read addr len = .ok ps → ∃ t, exec (.hostRdmaRead port key addr len) s = .next t ∧ t.mem = s.mem ∧
        sends t port (0 :: ps.flatMap fun p => (toBytes p.n (s.homeRead p.pa p.n)).map fun b => b.toNat)) ∧
    (∀ (cas : Bool) (v cmp : Word) r p, s.dev.regionFor key 2 addr 8 = some r → r.launch = false → addr % 8 = 0 →
      s.poison = [] → (s.ctx r.ctx).mapsOff → s.hostSpan r.ctx .atomic addr 8 = .ok [p] →
      let old := s.homeRead p.pa 8
      ∃ t, exec (.hostRdmaAtomic port key addr cas v cmp) s = .next t ∧ sends t port [0, old] ∧
        Written s t [⟨p.pa, p.va, 8, if cas then (if old = cmp.toNat then v.toNat else old) else (old + v.toNat) % 2 ^ 64,
          p.leaf.trk, false⟩])) ∧
  (∀ right n r, s.dev.regionFor key right addr n = some r → s.dev.regions.find key = some r ∧ bits r.rights right 1 = 1) ∧
  ∀ (src : ReqSrc) (w0 w1 w2 w3 : Word),
    let ctx := bits w0.toNat 50 6
    let rkey := bits w0.toNat 0 32
    let slot := ctx * 4 + bits w0.toNat 48 2
    let answered := fun (i : Instr) (n : Nat) (d : DevSt) =>
      exec i s = .next (s.setDev { d with answers := s.dev.answers ++ [⟨0x10, [n]⟩] })
    let requests : List Instr := [.installRegion src w0 w1 w2 w3, .removeRegion src w0 w1 w2 w3, .bindPort src w0 w1 w2 w3,
      .unbindPort src w0 w1 w2 w3]
    (s.dev.takes src = false ∨ s.dev.recovery = true →
      (∀ i ∈ requests, exec i s = .next s) ∧
      ∀ op, op < 1 ∨ 4 < op → exec (.malformedManagementRequest src op) s = .next s) ∧
    (s.dev.takes src = true → s.dev.recovery = false →
      (∀ op, op < 1 ∨ 4 < op → answered (.malformedManagementRequest src op) 1 s.dev) ∧
      (badRegion w0 w1 w2 w3 = true → answered (.installRegion src w0 w1 w2 w3) 1 s.dev ∧
        answered (.removeRegion src w0 w1 w2 w3) 1 s.dev) ∧
      (badRegion w0 w1 w2 w3 = false →
        (s.ctxs.find ctx = none → answered (.installRegion src w0 w1 w2 w3) 2 s.dev ∧
          answered (.removeRegion src w0 w1 w2 w3) 2 s.dev) ∧
        ((s.ctxs.find ctx).isSome →
          (1024 ≤ s.dev.regions.length → s.dev.regions.find rkey = none →
            answered (.installRegion src w0 w1 w2 w3) 3 s.dev) ∧
          (s.dev.regions.length < 1024 → answered (.installRegion src w0 w1 w2 w3) 0 { s.dev with
            regions := s.dev.regions.put rkey ⟨rkey, ctx, bits w0.toNat 45 3, bits w0.toNat 44 1 == 1, bits w1.toNat 0 57,
              bits w3.toNat 0 48⟩ }) ∧
          answered (.removeRegion src w0 w1 w2 w3) 0 { s.dev with
            regions := s.dev.regions.filter fun q => !(q.1 == rkey && q.2.ctx == ctx) })) ∧
      (badBinding false w0 w2 w3 = false → (s.ctxs.find ctx).isSome → answered (.bindPort src w0 w1 w2 w3) 0 { s.dev with
        bindings := s.dev.bindings.put slot ⟨w1.toNat, rkey, bits w2.toNat 24 24⟩ }) ∧
      (badBinding true w0 w2 w3 = false → (s.ctxs.find ctx).isSome → answered (.unbindPort src w0 w1 w2 w3) 0 { s.dev with
        bindings := s.dev.bindings.del slot }))

/-- R141, R207, R215 to R217, R248 to R257: the platform. A request that the configuration record does not accept is dropped; in
recovery all but IDENTITY_CERTIFICATES, STAGE_FIRMWARE and RESET are answered with status 2. Contexts are defined with four
registers and undefined; firmware is staged only where accepted; a power limit outside 1,600 to 3,200 W is refused; RESET is
answered, then leaves nothing resident, no context, the vaults 0 and the rest of memory as it was; power-on clears memory too;
reports step the clock; keys enter and change slots; stations and expanders come and go.
The model's own readings here: log entries 48, 49 and 50. -/
def Obligations.PlatformOperations : Prop := ∀ (s : State) (src : ReqSrc),
  let answers := fun (i : Instr) (ws : List Nat) (d : DevSt) =>
    exec i s = .next (s.setDev { d with answers := s.dev.answers ++ [⟨0x11, ws⟩] })
  let sends := fun (t : State) (ws : List Nat) => t.dev.answers = s.dev.answers ++ [⟨0x11, ws⟩]
  (∀ (op ctx : Nat) (a b : Word × Word) (x0 x1 x2 x3 : Word) (image : List Byte) (q : ResetReq), q.src = src → op < 0x10 ∨ 0x18 < op →
    let fixed : List Instr := [.identityCertificates src, .stageFirmware src image, .reset q]
    let others : List Instr := [.malformedPlatformRequest src op, .defineContext src ctx x0 x1 x2 x3, .undefineContext src ctx,
      .attest src x0 x1 x2 x3, .setConfiguration src a b, .powerReport src, .setPowerLimit src x0]
    (s.dev.takes src = false → ∀ i ∈ fixed ++ others, exec i s = .next s) ∧
    (s.dev.takes src = true → s.dev.recovery = true → ∀ i ∈ others, answers i [2] s.dev)) ∧
  (s.dev.takes src = true →
    (∃ ws, answers (.identityCertificates src) (0 :: ws) s.dev) ∧
    (∀ image, imageAccepted s.dev image = false → answers (.stageFirmware src image) [1] s.dev) ∧
    (∀ image, imageAccepted s.dev image = true → answers (.stageFirmware src image) [0]
      { s.dev with staged := image, rollback := max s.dev.rollback (imageNat image 8 8) }) ∧
    ∀ q : ResetReq, q.src = src → ∃ t late, exec (.reset q) s = .next t ∧
      t.dev.answers = s.dev.answers ++ ⟨0x11, [0]⟩ :: late ∧ (∀ x ∈ late, x = ⟨0x11, [2]⟩) ∧
      late.length = (s.inbox.filter fun e =>
        decide (e.1 < s.now + q.len) && ((platformSrc e.2).map t.dev.takes).getD false).length ∧
      (∀ c, c ∈ t.dev.cores ↔ c ∈ s.dev.cores ∧ c ∉ q.bad) ∧ t.now = 0 ∧ t.units = [] ∧ t.panes = [] ∧ t.cas = [] ∧ t.launches = [] ∧
      t.ctxs = [] ∧ t.pend = [] ∧ t.dev.resets = s.dev.resets + 1 ∧ ∀ x, t.mem.readByte x =
        if Config.vaultBase ≤ x ∧ x < Config.vaultBase + 2 ^ 29 then 0 else s.mem.readByte x) ∧
  (s.dev.takes src = true → s.dev.recovery = false →
    (∀ op, op < 0x10 ∨ 0x18 < op → answers (.malformedPlatformRequest src op) [1] s.dev) ∧
    (∀ (ctx : Nat) (root phv psv fring : Word), ctx < 64 →
      ((s.ctxs.find ctx).isSome ∨ (s.dev.defining.find ctx).isSome → answers (.defineContext src ctx root phv psv fring) [3] s.dev) ∧
      (s.ctxs.find ctx = none → s.dev.defining.find ctx = none → badDefinition root phv psv fring = true →
        answers (.defineContext src ctx root phv psv fring) [1] s.dev) ∧
      (s.ctxs.find ctx = none → s.dev.defining.find ctx = none → badDefinition root phv psv fring = false → ∃ t c,
        exec (.defineContext src ctx root phv psv fring) s = .next t ∧ sends t [0] ∧ t.ctxs = s.ctxs ∧
        OneEntry s.dev.defining t.dev.defining ctx c ∧ t.takeEffect.ctxs.find ctx = some c ∧
        c.ptroot = root ∧ c.phv = phv ∧ c.psv = psv ∧ c.fring = fring ∧ c.ctxcfg = 0 ∧ c.wdb = 0 ∧ c.wdp = 0 ∧ c.logc = 0 ∧
        c.slice = 0 ∧ c.dmap = 0 ∧ c.alc = [] ∧ c.accepted = 0 ∧ c.refused = 0 ∧ t.mem = s.mem ∧ t.panes = s.panes) ∧
      (s.ctxs.find ctx = none → answers (.undefineContext src ctx) [3] s.dev) ∧
      ((s.ctxs.find ctx).isSome → ∃ t, exec (.undefineContext src ctx) s = .next t ∧ sends t [0] ∧ t.ctxs.find ctx = none ∧
        (∀ q ∈ t.launches, q.2.ctx ≠ ctx) ∧ (∀ q ∈ t.dev.regions, q.2.ctx ≠ ctx) ∧
        ∀ q ∈ t.dev.bindings, q.1 / 4 ≠ ctx)) ∧
    (∀ n0 n1 n2 n3 : Word, ∃ ws, answers (.attest src n0 n1 n2 n3)
      (0 :: ((s.dev.report [n0, n1, n2, n3]).map fun b => b.toNat) ++ ws) s.dev) ∧
    (∀ a b : Word × Word, let new := (a.1.toNat + 2 ^ 64 * a.2.toNat, b.1.toNat + 2 ^ 64 * b.2.toNat)
      answers (.setConfiguration src a b) [0] { s.dev with newCfg := some new } ∧
      ∀ t : State, t.dev.newCfg = some new → (t.takeEffect.dev.cfgA, t.takeEffect.dev.cfgB) = new) ∧
    (∃ ws, ws.length = 22 ∧ answers (.powerReport src) ([0, s.dev.average % 2 ^ 32 + s.dev.limit * 2 ^ 32,
      s.dev.clock + s.dev.downSteps * 2 ^ 32] ++ ws) s.dev) ∧
    ∀ w : Word, (w.toNat < 1600 ∨ 3200 < w.toNat → answers (.setPowerLimit src w) [1] s.dev) ∧
      (1600 ≤ w.toNat → w.toNat ≤ 3200 → answers (.setPowerLimit src w) [0] { s.dev with newLimit := w.toNat })) ∧
  (∀ bad es, ∃ t, exec (.powerOnReset bad es) s = .next t ∧ t.now = 0 ∧ t.mem = [] ∧ t.units = [] ∧ t.panes = [] ∧ t.ctxs = [] ∧
    t.launches = [] ∧ ∀ c, c ∈ t.dev.cores ↔ c ∈ s.dev.cores ∧ c ∉ bad) ∧
  (∀ ws loss, let figures := ((ws.foldl (· + ·) loss) :: s.dev.figures).take 100
    let avg := figures.foldl (· + ·) 0 / max 1 figures.length
    ∃ t, exec (.blockPowerReport ws loss) s = .next t ∧ { t with dev := s.dev } = s ∧ t.dev.limit = s.dev.newLimit ∧
    t.dev.figures = figures ∧ t.dev.average = avg ∧ t.dev.watts = ws ∧
    (s.dev.newLimit < avg → 525000 < s.dev.clock → t.dev.clock = s.dev.clock - 26250) ∧
    (s.dev.newLimit < avg → s.dev.clock ≤ 525000 → t.dev.clock = s.dev.clock) ∧
    (avg ≤ s.dev.newLimit → s.dev.newLimit ≤ avg + 100 → t.dev.clock = s.dev.clock) ∧
    (avg + 100 < s.dev.newLimit → 99 ≤ s.dev.calm → t.dev.clock = min (s.dev.clock + 26250) 1050000)) ∧
  (∀ node, s.dev.keys.find node = none → s.dev.recovery = false → exec (.keyExchange node true) s = .next (s.setDev { s.dev with
      keys := s.dev.keys.put node ⟨0, none, false, [], false⟩, exchanges := s.dev.exchanges.del node }) ∧
    exec (.keyExchange node false) s = .next (s.setDev { s.dev with
      exchanges := s.dev.exchanges.put node (s.now + 1000 * s.dev.clock) })) ∧
  (∀ node t0, s.dev.exchanges.find node = some t0 → t0 + 10 * s.dev.clock ≤ s.now → exec (.keyExchangeTimeout node) s =
    .next (s.setDev { s.dev with exchanges := s.dev.exchanges.put node (s.now + 1000 * s.dev.clock) })) ∧
  (∀ node k, s.dev.keys.find node = some k → k.slot ≤ 1 →
    (s.sealedOpen node (1 - k.slot) = true → exec (.keyRotation node) s =
      .next (s.setInbox (s.inbox ++ [(s.now + 1, .keyRotation node)]))) ∧
    (s.sealedOpen node (1 - k.slot) = false → ∃ t k', exec (.keyRotation node) s = .next t ∧ t.mem = s.mem ∧
      t.units = s.units ∧ t.panes = s.panes ∧ t.dev.keys.find node = some k' ∧ k'.slot = 1 - k.slot ∧ k'.both = true ∧
      k'.since = some s.now ∧ k'.sendSlot s.now = k.slot ∧ k'.sendSlot (s.now + 1) = 1 - k.slot)) ∧
  (∀ k nodes, k < 16 → (∃ t, exec (.stationDown k) s = .next t ∧ { t with dev := s.dev, pend := s.pend } = s ∧
      bits t.dev.stations k 1 = 0) ∧
    ∃ t, exec (.stationUp ⟨k, nodes⟩) s = .next t ∧ { t with dev := s.dev } = s ∧ bits t.dev.stations k 1 = 1 ∧
      ∀ n ∈ nodes, (k, n) ∈ t.dev.peers ∧ (s.dev.recovery = false → n ≠ s.dev.node → s.dev.keys.find n = none →
        t.dev.exchanges.find n = some s.now)) ∧
  ∀ e mib, (∃ t, exec (.expanderRemoved e) s = .next t ∧ e ∈ t.dev.gone ∧ (∀ q ∈ t.dev.attached, q.1 ≠ e) ∧
      t.panes = s.panes ∧ t.units = s.units ∧ ∀ x, t.mem.readByte x =
        if Config.cxlBase + e * 2 ^ 40 ≤ x ∧ x < Config.cxlBase + (e + 1) * 2 ^ 40 then 0 else s.mem.readByte x) ∧
    ∃ t, exec (.expanderAttached e mib) s = .next t ∧ { t with dev := s.dev } = s ∧ (e, mib) ∈ t.dev.attached ∧
      t.dev.mapped = s.dev.mapped
end

