-- ==== Sys2Proof/Laws/State.lean ====
section
/-! SUPPORT. What each plain update of the state leaves in each field: one lemma per field per update, true by definition. -/

namespace Sys2Proof.Machine

/-! ## setNow -/

@[simp] theorem State.setNow_now (s : State) (v : Nat) : (s.setNow v).now = v := rfl
@[simp] theorem State.setNow_opening (s : State) (v : Nat) : (s.setNow v).opening = s.opening := rfl
@[simp] theorem State.setNow_issuing (s : State) (v : Nat) : (s.setNow v).issuing = s.issuing := rfl
@[simp] theorem State.setNow_cur (s : State) (v : Nat) : (s.setNow v).cur = s.cur := rfl
@[simp] theorem State.setNow_inbox (s : State) (v : Nat) : (s.setNow v).inbox = s.inbox := rfl
@[simp] theorem State.setNow_nextId (s : State) (v : Nat) : (s.setNow v).nextId = s.nextId := rfl
@[simp] theorem State.setNow_free (s : State) (v : Nat) : (s.setNow v).free = s.free := rfl
@[simp] theorem State.setNow_mem (s : State) (v : Nat) : (s.setNow v).mem = s.mem := rfl
@[simp] theorem State.setNow_tlb (s : State) (v : Nat) : (s.setNow v).tlb = s.tlb := rfl
@[simp] theorem State.setNow_owner (s : State) (v : Nat) : (s.setNow v).owner = s.owner := rfl
@[simp] theorem State.setNow_shadows (s : State) (v : Nat) : (s.setNow v).shadows = s.shadows := rfl
@[simp] theorem State.setNow_dets (s : State) (v : Nat) : (s.setNow v).dets = s.dets := rfl
@[simp] theorem State.setNow_units (s : State) (v : Nat) : (s.setNow v).units = s.units := rfl
@[simp] theorem State.setNow_panes (s : State) (v : Nat) : (s.setNow v).panes = s.panes := rfl
@[simp] theorem State.setNow_cas (s : State) (v : Nat) : (s.setNow v).cas = s.cas := rfl
@[simp] theorem State.setNow_launches (s : State) (v : Nat) : (s.setNow v).launches = s.launches := rfl
@[simp] theorem State.setNow_cores (s : State) (v : Nat) : (s.setNow v).cores = s.cores := rfl
@[simp] theorem State.setNow_ctxs (s : State) (v : Nat) : (s.setNow v).ctxs = s.ctxs := rfl
@[simp] theorem State.setNow_pend (s : State) (v : Nat) : (s.setNow v).pend = s.pend := rfl
@[simp] theorem State.setNow_wpart (s : State) (v : Nat) : (s.setNow v).wpart = s.wpart := rfl
@[simp] theorem State.setNow_dev (s : State) (v : Nat) : (s.setNow v).dev = s.dev := rfl
@[simp] theorem State.setNow_poison (s : State) (v : Nat) : (s.setNow v).poison = s.poison := rfl
@[simp] theorem State.setNow_images (s : State) (v : Nat) : (s.setNow v).images = s.images := rfl

/-! ## setOpening -/

@[simp] theorem State.setOpening_now (s : State) (v : Bool) : (s.setOpening v).now = s.now := rfl
@[simp] theorem State.setOpening_opening (s : State) (v : Bool) : (s.setOpening v).opening = v := rfl
@[simp] theorem State.setOpening_issuing (s : State) (v : Bool) : (s.setOpening v).issuing = s.issuing := rfl
@[simp] theorem State.setOpening_cur (s : State) (v : Bool) : (s.setOpening v).cur = s.cur := rfl
@[simp] theorem State.setOpening_inbox (s : State) (v : Bool) : (s.setOpening v).inbox = s.inbox := rfl
@[simp] theorem State.setOpening_nextId (s : State) (v : Bool) : (s.setOpening v).nextId = s.nextId := rfl
@[simp] theorem State.setOpening_free (s : State) (v : Bool) : (s.setOpening v).free = s.free := rfl
@[simp] theorem State.setOpening_mem (s : State) (v : Bool) : (s.setOpening v).mem = s.mem := rfl
@[simp] theorem State.setOpening_tlb (s : State) (v : Bool) : (s.setOpening v).tlb = s.tlb := rfl
@[simp] theorem State.setOpening_owner (s : State) (v : Bool) : (s.setOpening v).owner = s.owner := rfl
@[simp] theorem State.setOpening_shadows (s : State) (v : Bool) : (s.setOpening v).shadows = s.shadows := rfl
@[simp] theorem State.setOpening_dets (s : State) (v : Bool) : (s.setOpening v).dets = s.dets := rfl
@[simp] theorem State.setOpening_units (s : State) (v : Bool) : (s.setOpening v).units = s.units := rfl
@[simp] theorem State.setOpening_panes (s : State) (v : Bool) : (s.setOpening v).panes = s.panes := rfl
@[simp] theorem State.setOpening_cas (s : State) (v : Bool) : (s.setOpening v).cas = s.cas := rfl
@[simp] theorem State.setOpening_launches (s : State) (v : Bool) : (s.setOpening v).launches = s.launches := rfl
@[simp] theorem State.setOpening_cores (s : State) (v : Bool) : (s.setOpening v).cores = s.cores := rfl
@[simp] theorem State.setOpening_ctxs (s : State) (v : Bool) : (s.setOpening v).ctxs = s.ctxs := rfl
@[simp] theorem State.setOpening_pend (s : State) (v : Bool) : (s.setOpening v).pend = s.pend := rfl
@[simp] theorem State.setOpening_wpart (s : State) (v : Bool) : (s.setOpening v).wpart = s.wpart := rfl
@[simp] theorem State.setOpening_dev (s : State) (v : Bool) : (s.setOpening v).dev = s.dev := rfl
@[simp] theorem State.setOpening_poison (s : State) (v : Bool) : (s.setOpening v).poison = s.poison := rfl
@[simp] theorem State.setOpening_images (s : State) (v : Bool) : (s.setOpening v).images = s.images := rfl

/-! ## setIssuing -/

@[simp] theorem State.setIssuing_now (s : State) (v : Bool) : (s.setIssuing v).now = s.now := rfl
@[simp] theorem State.setIssuing_opening (s : State) (v : Bool) : (s.setIssuing v).opening = s.opening := rfl
@[simp] theorem State.setIssuing_issuing (s : State) (v : Bool) : (s.setIssuing v).issuing = v := rfl
@[simp] theorem State.setIssuing_cur (s : State) (v : Bool) : (s.setIssuing v).cur = s.cur := rfl
@[simp] theorem State.setIssuing_inbox (s : State) (v : Bool) : (s.setIssuing v).inbox = s.inbox := rfl
@[simp] theorem State.setIssuing_nextId (s : State) (v : Bool) : (s.setIssuing v).nextId = s.nextId := rfl
@[simp] theorem State.setIssuing_free (s : State) (v : Bool) : (s.setIssuing v).free = s.free := rfl
@[simp] theorem State.setIssuing_mem (s : State) (v : Bool) : (s.setIssuing v).mem = s.mem := rfl
@[simp] theorem State.setIssuing_tlb (s : State) (v : Bool) : (s.setIssuing v).tlb = s.tlb := rfl
@[simp] theorem State.setIssuing_owner (s : State) (v : Bool) : (s.setIssuing v).owner = s.owner := rfl
@[simp] theorem State.setIssuing_shadows (s : State) (v : Bool) : (s.setIssuing v).shadows = s.shadows := rfl
@[simp] theorem State.setIssuing_dets (s : State) (v : Bool) : (s.setIssuing v).dets = s.dets := rfl
@[simp] theorem State.setIssuing_units (s : State) (v : Bool) : (s.setIssuing v).units = s.units := rfl
@[simp] theorem State.setIssuing_panes (s : State) (v : Bool) : (s.setIssuing v).panes = s.panes := rfl
@[simp] theorem State.setIssuing_cas (s : State) (v : Bool) : (s.setIssuing v).cas = s.cas := rfl
@[simp] theorem State.setIssuing_launches (s : State) (v : Bool) : (s.setIssuing v).launches = s.launches := rfl
@[simp] theorem State.setIssuing_cores (s : State) (v : Bool) : (s.setIssuing v).cores = s.cores := rfl
@[simp] theorem State.setIssuing_ctxs (s : State) (v : Bool) : (s.setIssuing v).ctxs = s.ctxs := rfl
@[simp] theorem State.setIssuing_pend (s : State) (v : Bool) : (s.setIssuing v).pend = s.pend := rfl
@[simp] theorem State.setIssuing_wpart (s : State) (v : Bool) : (s.setIssuing v).wpart = s.wpart := rfl
@[simp] theorem State.setIssuing_dev (s : State) (v : Bool) : (s.setIssuing v).dev = s.dev := rfl
@[simp] theorem State.setIssuing_poison (s : State) (v : Bool) : (s.setIssuing v).poison = s.poison := rfl
@[simp] theorem State.setIssuing_images (s : State) (v : Bool) : (s.setIssuing v).images = s.images := rfl

/-! ## setCur -/

@[simp] theorem State.setCur_now (s : State) (v : Option Nat) : (s.setCur v).now = s.now := rfl
@[simp] theorem State.setCur_opening (s : State) (v : Option Nat) : (s.setCur v).opening = s.opening := rfl
@[simp] theorem State.setCur_issuing (s : State) (v : Option Nat) : (s.setCur v).issuing = s.issuing := rfl
@[simp] theorem State.setCur_cur (s : State) (v : Option Nat) : (s.setCur v).cur = v := rfl
@[simp] theorem State.setCur_inbox (s : State) (v : Option Nat) : (s.setCur v).inbox = s.inbox := rfl
@[simp] theorem State.setCur_nextId (s : State) (v : Option Nat) : (s.setCur v).nextId = s.nextId := rfl
@[simp] theorem State.setCur_free (s : State) (v : Option Nat) : (s.setCur v).free = s.free := rfl
@[simp] theorem State.setCur_mem (s : State) (v : Option Nat) : (s.setCur v).mem = s.mem := rfl
@[simp] theorem State.setCur_tlb (s : State) (v : Option Nat) : (s.setCur v).tlb = s.tlb := rfl
@[simp] theorem State.setCur_owner (s : State) (v : Option Nat) : (s.setCur v).owner = s.owner := rfl
@[simp] theorem State.setCur_shadows (s : State) (v : Option Nat) : (s.setCur v).shadows = s.shadows := rfl
@[simp] theorem State.setCur_dets (s : State) (v : Option Nat) : (s.setCur v).dets = s.dets := rfl
@[simp] theorem State.setCur_units (s : State) (v : Option Nat) : (s.setCur v).units = s.units := rfl
@[simp] theorem State.setCur_panes (s : State) (v : Option Nat) : (s.setCur v).panes = s.panes := rfl
@[simp] theorem State.setCur_cas (s : State) (v : Option Nat) : (s.setCur v).cas = s.cas := rfl
@[simp] theorem State.setCur_launches (s : State) (v : Option Nat) : (s.setCur v).launches = s.launches := rfl
@[simp] theorem State.setCur_cores (s : State) (v : Option Nat) : (s.setCur v).cores = s.cores := rfl
@[simp] theorem State.setCur_ctxs (s : State) (v : Option Nat) : (s.setCur v).ctxs = s.ctxs := rfl
@[simp] theorem State.setCur_pend (s : State) (v : Option Nat) : (s.setCur v).pend = s.pend := rfl
@[simp] theorem State.setCur_wpart (s : State) (v : Option Nat) : (s.setCur v).wpart = s.wpart := rfl
@[simp] theorem State.setCur_dev (s : State) (v : Option Nat) : (s.setCur v).dev = s.dev := rfl
@[simp] theorem State.setCur_poison (s : State) (v : Option Nat) : (s.setCur v).poison = s.poison := rfl
@[simp] theorem State.setCur_images (s : State) (v : Option Nat) : (s.setCur v).images = s.images := rfl

/-! ## setInbox -/

@[simp] theorem State.setInbox_now (s : State) (v : List (Nat × Instr)) : (s.setInbox v).now = s.now := rfl
@[simp] theorem State.setInbox_opening (s : State) (v : List (Nat × Instr)) : (s.setInbox v).opening = s.opening := rfl
@[simp] theorem State.setInbox_issuing (s : State) (v : List (Nat × Instr)) : (s.setInbox v).issuing = s.issuing := rfl
@[simp] theorem State.setInbox_cur (s : State) (v : List (Nat × Instr)) : (s.setInbox v).cur = s.cur := rfl
@[simp] theorem State.setInbox_inbox (s : State) (v : List (Nat × Instr)) : (s.setInbox v).inbox = v := rfl
@[simp] theorem State.setInbox_nextId (s : State) (v : List (Nat × Instr)) : (s.setInbox v).nextId = s.nextId := rfl
@[simp] theorem State.setInbox_free (s : State) (v : List (Nat × Instr)) : (s.setInbox v).free = s.free := rfl
@[simp] theorem State.setInbox_mem (s : State) (v : List (Nat × Instr)) : (s.setInbox v).mem = s.mem := rfl
@[simp] theorem State.setInbox_tlb (s : State) (v : List (Nat × Instr)) : (s.setInbox v).tlb = s.tlb := rfl
@[simp] theorem State.setInbox_owner (s : State) (v : List (Nat × Instr)) : (s.setInbox v).owner = s.owner := rfl
@[simp] theorem State.setInbox_shadows (s : State) (v : List (Nat × Instr)) : (s.setInbox v).shadows = s.shadows := rfl
@[simp] theorem State.setInbox_dets (s : State) (v : List (Nat × Instr)) : (s.setInbox v).dets = s.dets := rfl
@[simp] theorem State.setInbox_units (s : State) (v : List (Nat × Instr)) : (s.setInbox v).units = s.units := rfl
@[simp] theorem State.setInbox_panes (s : State) (v : List (Nat × Instr)) : (s.setInbox v).panes = s.panes := rfl
@[simp] theorem State.setInbox_cas (s : State) (v : List (Nat × Instr)) : (s.setInbox v).cas = s.cas := rfl
@[simp] theorem State.setInbox_launches (s : State) (v : List (Nat × Instr)) : (s.setInbox v).launches = s.launches := rfl
@[simp] theorem State.setInbox_cores (s : State) (v : List (Nat × Instr)) : (s.setInbox v).cores = s.cores := rfl
@[simp] theorem State.setInbox_ctxs (s : State) (v : List (Nat × Instr)) : (s.setInbox v).ctxs = s.ctxs := rfl
@[simp] theorem State.setInbox_pend (s : State) (v : List (Nat × Instr)) : (s.setInbox v).pend = s.pend := rfl
@[simp] theorem State.setInbox_wpart (s : State) (v : List (Nat × Instr)) : (s.setInbox v).wpart = s.wpart := rfl
@[simp] theorem State.setInbox_dev (s : State) (v : List (Nat × Instr)) : (s.setInbox v).dev = s.dev := rfl
@[simp] theorem State.setInbox_poison (s : State) (v : List (Nat × Instr)) : (s.setInbox v).poison = s.poison := rfl
@[simp] theorem State.setInbox_images (s : State) (v : List (Nat × Instr)) : (s.setInbox v).images = s.images := rfl

/-! ## setFree -/

@[simp] theorem State.setFree_now (s : State) (v : Nat) : (s.setFree v).now = s.now := rfl
@[simp] theorem State.setFree_opening (s : State) (v : Nat) : (s.setFree v).opening = s.opening := rfl
@[simp] theorem State.setFree_issuing (s : State) (v : Nat) : (s.setFree v).issuing = s.issuing := rfl
@[simp] theorem State.setFree_cur (s : State) (v : Nat) : (s.setFree v).cur = s.cur := rfl
@[simp] theorem State.setFree_inbox (s : State) (v : Nat) : (s.setFree v).inbox = s.inbox := rfl
@[simp] theorem State.setFree_nextId (s : State) (v : Nat) : (s.setFree v).nextId = s.nextId := rfl
@[simp] theorem State.setFree_free (s : State) (v : Nat) : (s.setFree v).free = v := rfl
@[simp] theorem State.setFree_mem (s : State) (v : Nat) : (s.setFree v).mem = s.mem := rfl
@[simp] theorem State.setFree_tlb (s : State) (v : Nat) : (s.setFree v).tlb = s.tlb := rfl
@[simp] theorem State.setFree_owner (s : State) (v : Nat) : (s.setFree v).owner = s.owner := rfl
@[simp] theorem State.setFree_shadows (s : State) (v : Nat) : (s.setFree v).shadows = s.shadows := rfl
@[simp] theorem State.setFree_dets (s : State) (v : Nat) : (s.setFree v).dets = s.dets := rfl
@[simp] theorem State.setFree_units (s : State) (v : Nat) : (s.setFree v).units = s.units := rfl
@[simp] theorem State.setFree_panes (s : State) (v : Nat) : (s.setFree v).panes = s.panes := rfl
@[simp] theorem State.setFree_cas (s : State) (v : Nat) : (s.setFree v).cas = s.cas := rfl
@[simp] theorem State.setFree_launches (s : State) (v : Nat) : (s.setFree v).launches = s.launches := rfl
@[simp] theorem State.setFree_cores (s : State) (v : Nat) : (s.setFree v).cores = s.cores := rfl
@[simp] theorem State.setFree_ctxs (s : State) (v : Nat) : (s.setFree v).ctxs = s.ctxs := rfl
@[simp] theorem State.setFree_pend (s : State) (v : Nat) : (s.setFree v).pend = s.pend := rfl
@[simp] theorem State.setFree_wpart (s : State) (v : Nat) : (s.setFree v).wpart = s.wpart := rfl
@[simp] theorem State.setFree_dev (s : State) (v : Nat) : (s.setFree v).dev = s.dev := rfl
@[simp] theorem State.setFree_poison (s : State) (v : Nat) : (s.setFree v).poison = s.poison := rfl
@[simp] theorem State.setFree_images (s : State) (v : Nat) : (s.setFree v).images = s.images := rfl

/-! ## setMem -/

@[simp] theorem State.setMem_now (s : State) (v : Memory) : (s.setMem v).now = s.now := rfl
@[simp] theorem State.setMem_opening (s : State) (v : Memory) : (s.setMem v).opening = s.opening := rfl
@[simp] theorem State.setMem_issuing (s : State) (v : Memory) : (s.setMem v).issuing = s.issuing := rfl
@[simp] theorem State.setMem_cur (s : State) (v : Memory) : (s.setMem v).cur = s.cur := rfl
@[simp] theorem State.setMem_inbox (s : State) (v : Memory) : (s.setMem v).inbox = s.inbox := rfl
@[simp] theorem State.setMem_nextId (s : State) (v : Memory) : (s.setMem v).nextId = s.nextId := rfl
@[simp] theorem State.setMem_free (s : State) (v : Memory) : (s.setMem v).free = s.free := rfl
@[simp] theorem State.setMem_mem (s : State) (v : Memory) : (s.setMem v).mem = v := rfl
@[simp] theorem State.setMem_tlb (s : State) (v : Memory) : (s.setMem v).tlb = s.tlb := rfl
@[simp] theorem State.setMem_owner (s : State) (v : Memory) : (s.setMem v).owner = s.owner := rfl
@[simp] theorem State.setMem_shadows (s : State) (v : Memory) : (s.setMem v).shadows = s.shadows := rfl
@[simp] theorem State.setMem_dets (s : State) (v : Memory) : (s.setMem v).dets = s.dets := rfl
@[simp] theorem State.setMem_units (s : State) (v : Memory) : (s.setMem v).units = s.units := rfl
@[simp] theorem State.setMem_panes (s : State) (v : Memory) : (s.setMem v).panes = s.panes := rfl
@[simp] theorem State.setMem_cas (s : State) (v : Memory) : (s.setMem v).cas = s.cas := rfl
@[simp] theorem State.setMem_launches (s : State) (v : Memory) : (s.setMem v).launches = s.launches := rfl
@[simp] theorem State.setMem_cores (s : State) (v : Memory) : (s.setMem v).cores = s.cores := rfl
@[simp] theorem State.setMem_ctxs (s : State) (v : Memory) : (s.setMem v).ctxs = s.ctxs := rfl
@[simp] theorem State.setMem_pend (s : State) (v : Memory) : (s.setMem v).pend = s.pend := rfl
@[simp] theorem State.setMem_wpart (s : State) (v : Memory) : (s.setMem v).wpart = s.wpart := rfl
@[simp] theorem State.setMem_dev (s : State) (v : Memory) : (s.setMem v).dev = s.dev := rfl
@[simp] theorem State.setMem_poison (s : State) (v : Memory) : (s.setMem v).poison = s.poison := rfl
@[simp] theorem State.setMem_images (s : State) (v : Memory) : (s.setMem v).images = s.images := rfl

/-! ## setTlb -/

@[simp] theorem State.setTlb_now (s : State) (v : Map Nat) : (s.setTlb v).now = s.now := rfl
@[simp] theorem State.setTlb_opening (s : State) (v : Map Nat) : (s.setTlb v).opening = s.opening := rfl
@[simp] theorem State.setTlb_issuing (s : State) (v : Map Nat) : (s.setTlb v).issuing = s.issuing := rfl
@[simp] theorem State.setTlb_cur (s : State) (v : Map Nat) : (s.setTlb v).cur = s.cur := rfl
@[simp] theorem State.setTlb_inbox (s : State) (v : Map Nat) : (s.setTlb v).inbox = s.inbox := rfl
@[simp] theorem State.setTlb_nextId (s : State) (v : Map Nat) : (s.setTlb v).nextId = s.nextId := rfl
@[simp] theorem State.setTlb_free (s : State) (v : Map Nat) : (s.setTlb v).free = s.free := rfl
@[simp] theorem State.setTlb_mem (s : State) (v : Map Nat) : (s.setTlb v).mem = s.mem := rfl
@[simp] theorem State.setTlb_tlb (s : State) (v : Map Nat) : (s.setTlb v).tlb = v := rfl
@[simp] theorem State.setTlb_owner (s : State) (v : Map Nat) : (s.setTlb v).owner = s.owner := rfl
@[simp] theorem State.setTlb_shadows (s : State) (v : Map Nat) : (s.setTlb v).shadows = s.shadows := rfl
@[simp] theorem State.setTlb_dets (s : State) (v : Map Nat) : (s.setTlb v).dets = s.dets := rfl
@[simp] theorem State.setTlb_units (s : State) (v : Map Nat) : (s.setTlb v).units = s.units := rfl
@[simp] theorem State.setTlb_panes (s : State) (v : Map Nat) : (s.setTlb v).panes = s.panes := rfl
@[simp] theorem State.setTlb_cas (s : State) (v : Map Nat) : (s.setTlb v).cas = s.cas := rfl
@[simp] theorem State.setTlb_launches (s : State) (v : Map Nat) : (s.setTlb v).launches = s.launches := rfl
@[simp] theorem State.setTlb_cores (s : State) (v : Map Nat) : (s.setTlb v).cores = s.cores := rfl
@[simp] theorem State.setTlb_ctxs (s : State) (v : Map Nat) : (s.setTlb v).ctxs = s.ctxs := rfl
@[simp] theorem State.setTlb_pend (s : State) (v : Map Nat) : (s.setTlb v).pend = s.pend := rfl
@[simp] theorem State.setTlb_wpart (s : State) (v : Map Nat) : (s.setTlb v).wpart = s.wpart := rfl
@[simp] theorem State.setTlb_dev (s : State) (v : Map Nat) : (s.setTlb v).dev = s.dev := rfl
@[simp] theorem State.setTlb_poison (s : State) (v : Map Nat) : (s.setTlb v).poison = s.poison := rfl
@[simp] theorem State.setTlb_images (s : State) (v : Map Nat) : (s.setTlb v).images = s.images := rfl

/-! ## setOwner -/

@[simp] theorem State.setOwner_now (s : State) (v : Map Nat) : (s.setOwner v).now = s.now := rfl
@[simp] theorem State.setOwner_opening (s : State) (v : Map Nat) : (s.setOwner v).opening = s.opening := rfl
@[simp] theorem State.setOwner_issuing (s : State) (v : Map Nat) : (s.setOwner v).issuing = s.issuing := rfl
@[simp] theorem State.setOwner_cur (s : State) (v : Map Nat) : (s.setOwner v).cur = s.cur := rfl
@[simp] theorem State.setOwner_inbox (s : State) (v : Map Nat) : (s.setOwner v).inbox = s.inbox := rfl
@[simp] theorem State.setOwner_nextId (s : State) (v : Map Nat) : (s.setOwner v).nextId = s.nextId := rfl
@[simp] theorem State.setOwner_free (s : State) (v : Map Nat) : (s.setOwner v).free = s.free := rfl
@[simp] theorem State.setOwner_mem (s : State) (v : Map Nat) : (s.setOwner v).mem = s.mem := rfl
@[simp] theorem State.setOwner_tlb (s : State) (v : Map Nat) : (s.setOwner v).tlb = s.tlb := rfl
@[simp] theorem State.setOwner_owner (s : State) (v : Map Nat) : (s.setOwner v).owner = v := rfl
@[simp] theorem State.setOwner_shadows (s : State) (v : Map Nat) : (s.setOwner v).shadows = s.shadows := rfl
@[simp] theorem State.setOwner_dets (s : State) (v : Map Nat) : (s.setOwner v).dets = s.dets := rfl
@[simp] theorem State.setOwner_units (s : State) (v : Map Nat) : (s.setOwner v).units = s.units := rfl
@[simp] theorem State.setOwner_panes (s : State) (v : Map Nat) : (s.setOwner v).panes = s.panes := rfl
@[simp] theorem State.setOwner_cas (s : State) (v : Map Nat) : (s.setOwner v).cas = s.cas := rfl
@[simp] theorem State.setOwner_launches (s : State) (v : Map Nat) : (s.setOwner v).launches = s.launches := rfl
@[simp] theorem State.setOwner_cores (s : State) (v : Map Nat) : (s.setOwner v).cores = s.cores := rfl
@[simp] theorem State.setOwner_ctxs (s : State) (v : Map Nat) : (s.setOwner v).ctxs = s.ctxs := rfl
@[simp] theorem State.setOwner_pend (s : State) (v : Map Nat) : (s.setOwner v).pend = s.pend := rfl
@[simp] theorem State.setOwner_wpart (s : State) (v : Map Nat) : (s.setOwner v).wpart = s.wpart := rfl
@[simp] theorem State.setOwner_dev (s : State) (v : Map Nat) : (s.setOwner v).dev = s.dev := rfl
@[simp] theorem State.setOwner_poison (s : State) (v : Map Nat) : (s.setOwner v).poison = s.poison := rfl
@[simp] theorem State.setOwner_images (s : State) (v : Map Nat) : (s.setOwner v).images = s.images := rfl

/-! ## setShadows -/

@[simp] theorem State.setShadows_now (s : State) (v : List Shadow) : (s.setShadows v).now = s.now := rfl
@[simp] theorem State.setShadows_opening (s : State) (v : List Shadow) : (s.setShadows v).opening = s.opening := rfl
@[simp] theorem State.setShadows_issuing (s : State) (v : List Shadow) : (s.setShadows v).issuing = s.issuing := rfl
@[simp] theorem State.setShadows_cur (s : State) (v : List Shadow) : (s.setShadows v).cur = s.cur := rfl
@[simp] theorem State.setShadows_inbox (s : State) (v : List Shadow) : (s.setShadows v).inbox = s.inbox := rfl
@[simp] theorem State.setShadows_nextId (s : State) (v : List Shadow) : (s.setShadows v).nextId = s.nextId := rfl
@[simp] theorem State.setShadows_free (s : State) (v : List Shadow) : (s.setShadows v).free = s.free := rfl
@[simp] theorem State.setShadows_mem (s : State) (v : List Shadow) : (s.setShadows v).mem = s.mem := rfl
@[simp] theorem State.setShadows_tlb (s : State) (v : List Shadow) : (s.setShadows v).tlb = s.tlb := rfl
@[simp] theorem State.setShadows_owner (s : State) (v : List Shadow) : (s.setShadows v).owner = s.owner := rfl
@[simp] theorem State.setShadows_shadows (s : State) (v : List Shadow) : (s.setShadows v).shadows = v := rfl
@[simp] theorem State.setShadows_dets (s : State) (v : List Shadow) : (s.setShadows v).dets = s.dets := rfl
@[simp] theorem State.setShadows_units (s : State) (v : List Shadow) : (s.setShadows v).units = s.units := rfl
@[simp] theorem State.setShadows_panes (s : State) (v : List Shadow) : (s.setShadows v).panes = s.panes := rfl
@[simp] theorem State.setShadows_cas (s : State) (v : List Shadow) : (s.setShadows v).cas = s.cas := rfl
@[simp] theorem State.setShadows_launches (s : State) (v : List Shadow) : (s.setShadows v).launches = s.launches := rfl
@[simp] theorem State.setShadows_cores (s : State) (v : List Shadow) : (s.setShadows v).cores = s.cores := rfl
@[simp] theorem State.setShadows_ctxs (s : State) (v : List Shadow) : (s.setShadows v).ctxs = s.ctxs := rfl
@[simp] theorem State.setShadows_pend (s : State) (v : List Shadow) : (s.setShadows v).pend = s.pend := rfl
@[simp] theorem State.setShadows_wpart (s : State) (v : List Shadow) : (s.setShadows v).wpart = s.wpart := rfl
@[simp] theorem State.setShadows_dev (s : State) (v : List Shadow) : (s.setShadows v).dev = s.dev := rfl
@[simp] theorem State.setShadows_poison (s : State) (v : List Shadow) : (s.setShadows v).poison = s.poison := rfl
@[simp] theorem State.setShadows_images (s : State) (v : List Shadow) : (s.setShadows v).images = s.images := rfl

/-! ## setDets -/

@[simp] theorem State.setDets_now (s : State) (v : Map (List Nat)) : (s.setDets v).now = s.now := rfl
@[simp] theorem State.setDets_opening (s : State) (v : Map (List Nat)) : (s.setDets v).opening = s.opening := rfl
@[simp] theorem State.setDets_issuing (s : State) (v : Map (List Nat)) : (s.setDets v).issuing = s.issuing := rfl
@[simp] theorem State.setDets_cur (s : State) (v : Map (List Nat)) : (s.setDets v).cur = s.cur := rfl
@[simp] theorem State.setDets_inbox (s : State) (v : Map (List Nat)) : (s.setDets v).inbox = s.inbox := rfl
@[simp] theorem State.setDets_nextId (s : State) (v : Map (List Nat)) : (s.setDets v).nextId = s.nextId := rfl
@[simp] theorem State.setDets_free (s : State) (v : Map (List Nat)) : (s.setDets v).free = s.free := rfl
@[simp] theorem State.setDets_mem (s : State) (v : Map (List Nat)) : (s.setDets v).mem = s.mem := rfl
@[simp] theorem State.setDets_tlb (s : State) (v : Map (List Nat)) : (s.setDets v).tlb = s.tlb := rfl
@[simp] theorem State.setDets_owner (s : State) (v : Map (List Nat)) : (s.setDets v).owner = s.owner := rfl
@[simp] theorem State.setDets_shadows (s : State) (v : Map (List Nat)) : (s.setDets v).shadows = s.shadows := rfl
@[simp] theorem State.setDets_dets (s : State) (v : Map (List Nat)) : (s.setDets v).dets = v := rfl
@[simp] theorem State.setDets_units (s : State) (v : Map (List Nat)) : (s.setDets v).units = s.units := rfl
@[simp] theorem State.setDets_panes (s : State) (v : Map (List Nat)) : (s.setDets v).panes = s.panes := rfl
@[simp] theorem State.setDets_cas (s : State) (v : Map (List Nat)) : (s.setDets v).cas = s.cas := rfl
@[simp] theorem State.setDets_launches (s : State) (v : Map (List Nat)) : (s.setDets v).launches = s.launches := rfl
@[simp] theorem State.setDets_cores (s : State) (v : Map (List Nat)) : (s.setDets v).cores = s.cores := rfl
@[simp] theorem State.setDets_ctxs (s : State) (v : Map (List Nat)) : (s.setDets v).ctxs = s.ctxs := rfl
@[simp] theorem State.setDets_pend (s : State) (v : Map (List Nat)) : (s.setDets v).pend = s.pend := rfl
@[simp] theorem State.setDets_wpart (s : State) (v : Map (List Nat)) : (s.setDets v).wpart = s.wpart := rfl
@[simp] theorem State.setDets_dev (s : State) (v : Map (List Nat)) : (s.setDets v).dev = s.dev := rfl
@[simp] theorem State.setDets_poison (s : State) (v : Map (List Nat)) : (s.setDets v).poison = s.poison := rfl
@[simp] theorem State.setDets_images (s : State) (v : Map (List Nat)) : (s.setDets v).images = s.images := rfl

/-! ## setUnits -/

@[simp] theorem State.setUnits_now (s : State) (v : Map UnitSt) : (s.setUnits v).now = s.now := rfl
@[simp] theorem State.setUnits_opening (s : State) (v : Map UnitSt) : (s.setUnits v).opening = s.opening := rfl
@[simp] theorem State.setUnits_issuing (s : State) (v : Map UnitSt) : (s.setUnits v).issuing = s.issuing := rfl
@[simp] theorem State.setUnits_cur (s : State) (v : Map UnitSt) : (s.setUnits v).cur = s.cur := rfl
@[simp] theorem State.setUnits_inbox (s : State) (v : Map UnitSt) : (s.setUnits v).inbox = s.inbox := rfl
@[simp] theorem State.setUnits_nextId (s : State) (v : Map UnitSt) : (s.setUnits v).nextId = s.nextId := rfl
@[simp] theorem State.setUnits_free (s : State) (v : Map UnitSt) : (s.setUnits v).free = s.free := rfl
@[simp] theorem State.setUnits_mem (s : State) (v : Map UnitSt) : (s.setUnits v).mem = s.mem := rfl
@[simp] theorem State.setUnits_tlb (s : State) (v : Map UnitSt) : (s.setUnits v).tlb = s.tlb := rfl
@[simp] theorem State.setUnits_owner (s : State) (v : Map UnitSt) : (s.setUnits v).owner = s.owner := rfl
@[simp] theorem State.setUnits_shadows (s : State) (v : Map UnitSt) : (s.setUnits v).shadows = s.shadows := rfl
@[simp] theorem State.setUnits_dets (s : State) (v : Map UnitSt) : (s.setUnits v).dets = s.dets := rfl
@[simp] theorem State.setUnits_units (s : State) (v : Map UnitSt) : (s.setUnits v).units = v := rfl
@[simp] theorem State.setUnits_panes (s : State) (v : Map UnitSt) : (s.setUnits v).panes = s.panes := rfl
@[simp] theorem State.setUnits_cas (s : State) (v : Map UnitSt) : (s.setUnits v).cas = s.cas := rfl
@[simp] theorem State.setUnits_launches (s : State) (v : Map UnitSt) : (s.setUnits v).launches = s.launches := rfl
@[simp] theorem State.setUnits_cores (s : State) (v : Map UnitSt) : (s.setUnits v).cores = s.cores := rfl
@[simp] theorem State.setUnits_ctxs (s : State) (v : Map UnitSt) : (s.setUnits v).ctxs = s.ctxs := rfl
@[simp] theorem State.setUnits_pend (s : State) (v : Map UnitSt) : (s.setUnits v).pend = s.pend := rfl
@[simp] theorem State.setUnits_wpart (s : State) (v : Map UnitSt) : (s.setUnits v).wpart = s.wpart := rfl
@[simp] theorem State.setUnits_dev (s : State) (v : Map UnitSt) : (s.setUnits v).dev = s.dev := rfl
@[simp] theorem State.setUnits_poison (s : State) (v : Map UnitSt) : (s.setUnits v).poison = s.poison := rfl
@[simp] theorem State.setUnits_images (s : State) (v : Map UnitSt) : (s.setUnits v).images = s.images := rfl

/-! ## setPanes -/

@[simp] theorem State.setPanes_now (s : State) (v : Map PaneSt) : (s.setPanes v).now = s.now := rfl
@[simp] theorem State.setPanes_opening (s : State) (v : Map PaneSt) : (s.setPanes v).opening = s.opening := rfl
@[simp] theorem State.setPanes_issuing (s : State) (v : Map PaneSt) : (s.setPanes v).issuing = s.issuing := rfl
@[simp] theorem State.setPanes_cur (s : State) (v : Map PaneSt) : (s.setPanes v).cur = s.cur := rfl
@[simp] theorem State.setPanes_inbox (s : State) (v : Map PaneSt) : (s.setPanes v).inbox = s.inbox := rfl
@[simp] theorem State.setPanes_nextId (s : State) (v : Map PaneSt) : (s.setPanes v).nextId = s.nextId := rfl
@[simp] theorem State.setPanes_free (s : State) (v : Map PaneSt) : (s.setPanes v).free = s.free := rfl
@[simp] theorem State.setPanes_mem (s : State) (v : Map PaneSt) : (s.setPanes v).mem = s.mem := rfl
@[simp] theorem State.setPanes_tlb (s : State) (v : Map PaneSt) : (s.setPanes v).tlb = s.tlb := rfl
@[simp] theorem State.setPanes_owner (s : State) (v : Map PaneSt) : (s.setPanes v).owner = s.owner := rfl
@[simp] theorem State.setPanes_shadows (s : State) (v : Map PaneSt) : (s.setPanes v).shadows = s.shadows := rfl
@[simp] theorem State.setPanes_dets (s : State) (v : Map PaneSt) : (s.setPanes v).dets = s.dets := rfl
@[simp] theorem State.setPanes_units (s : State) (v : Map PaneSt) : (s.setPanes v).units = s.units := rfl
@[simp] theorem State.setPanes_panes (s : State) (v : Map PaneSt) : (s.setPanes v).panes = v := rfl
@[simp] theorem State.setPanes_cas (s : State) (v : Map PaneSt) : (s.setPanes v).cas = s.cas := rfl
@[simp] theorem State.setPanes_launches (s : State) (v : Map PaneSt) : (s.setPanes v).launches = s.launches := rfl
@[simp] theorem State.setPanes_cores (s : State) (v : Map PaneSt) : (s.setPanes v).cores = s.cores := rfl
@[simp] theorem State.setPanes_ctxs (s : State) (v : Map PaneSt) : (s.setPanes v).ctxs = s.ctxs := rfl
@[simp] theorem State.setPanes_pend (s : State) (v : Map PaneSt) : (s.setPanes v).pend = s.pend := rfl
@[simp] theorem State.setPanes_wpart (s : State) (v : Map PaneSt) : (s.setPanes v).wpart = s.wpart := rfl
@[simp] theorem State.setPanes_dev (s : State) (v : Map PaneSt) : (s.setPanes v).dev = s.dev := rfl
@[simp] theorem State.setPanes_poison (s : State) (v : Map PaneSt) : (s.setPanes v).poison = s.poison := rfl
@[simp] theorem State.setPanes_images (s : State) (v : Map PaneSt) : (s.setPanes v).images = s.images := rfl

/-! ## setCas -/

@[simp] theorem State.setCas_now (s : State) (v : Map CasementSt) : (s.setCas v).now = s.now := rfl
@[simp] theorem State.setCas_opening (s : State) (v : Map CasementSt) : (s.setCas v).opening = s.opening := rfl
@[simp] theorem State.setCas_issuing (s : State) (v : Map CasementSt) : (s.setCas v).issuing = s.issuing := rfl
@[simp] theorem State.setCas_cur (s : State) (v : Map CasementSt) : (s.setCas v).cur = s.cur := rfl
@[simp] theorem State.setCas_inbox (s : State) (v : Map CasementSt) : (s.setCas v).inbox = s.inbox := rfl
@[simp] theorem State.setCas_nextId (s : State) (v : Map CasementSt) : (s.setCas v).nextId = s.nextId := rfl
@[simp] theorem State.setCas_free (s : State) (v : Map CasementSt) : (s.setCas v).free = s.free := rfl
@[simp] theorem State.setCas_mem (s : State) (v : Map CasementSt) : (s.setCas v).mem = s.mem := rfl
@[simp] theorem State.setCas_tlb (s : State) (v : Map CasementSt) : (s.setCas v).tlb = s.tlb := rfl
@[simp] theorem State.setCas_owner (s : State) (v : Map CasementSt) : (s.setCas v).owner = s.owner := rfl
@[simp] theorem State.setCas_shadows (s : State) (v : Map CasementSt) : (s.setCas v).shadows = s.shadows := rfl
@[simp] theorem State.setCas_dets (s : State) (v : Map CasementSt) : (s.setCas v).dets = s.dets := rfl
@[simp] theorem State.setCas_units (s : State) (v : Map CasementSt) : (s.setCas v).units = s.units := rfl
@[simp] theorem State.setCas_panes (s : State) (v : Map CasementSt) : (s.setCas v).panes = s.panes := rfl
@[simp] theorem State.setCas_cas (s : State) (v : Map CasementSt) : (s.setCas v).cas = v := rfl
@[simp] theorem State.setCas_launches (s : State) (v : Map CasementSt) : (s.setCas v).launches = s.launches := rfl
@[simp] theorem State.setCas_cores (s : State) (v : Map CasementSt) : (s.setCas v).cores = s.cores := rfl
@[simp] theorem State.setCas_ctxs (s : State) (v : Map CasementSt) : (s.setCas v).ctxs = s.ctxs := rfl
@[simp] theorem State.setCas_pend (s : State) (v : Map CasementSt) : (s.setCas v).pend = s.pend := rfl
@[simp] theorem State.setCas_wpart (s : State) (v : Map CasementSt) : (s.setCas v).wpart = s.wpart := rfl
@[simp] theorem State.setCas_dev (s : State) (v : Map CasementSt) : (s.setCas v).dev = s.dev := rfl
@[simp] theorem State.setCas_poison (s : State) (v : Map CasementSt) : (s.setCas v).poison = s.poison := rfl
@[simp] theorem State.setCas_images (s : State) (v : Map CasementSt) : (s.setCas v).images = s.images := rfl

/-! ## setLaunches -/

@[simp] theorem State.setLaunches_now (s : State) (v : Map LaunchSt) : (s.setLaunches v).now = s.now := rfl
@[simp] theorem State.setLaunches_opening (s : State) (v : Map LaunchSt) : (s.setLaunches v).opening = s.opening := rfl
@[simp] theorem State.setLaunches_issuing (s : State) (v : Map LaunchSt) : (s.setLaunches v).issuing = s.issuing := rfl
@[simp] theorem State.setLaunches_cur (s : State) (v : Map LaunchSt) : (s.setLaunches v).cur = s.cur := rfl
@[simp] theorem State.setLaunches_inbox (s : State) (v : Map LaunchSt) : (s.setLaunches v).inbox = s.inbox := rfl
@[simp] theorem State.setLaunches_nextId (s : State) (v : Map LaunchSt) : (s.setLaunches v).nextId = s.nextId := rfl
@[simp] theorem State.setLaunches_free (s : State) (v : Map LaunchSt) : (s.setLaunches v).free = s.free := rfl
@[simp] theorem State.setLaunches_mem (s : State) (v : Map LaunchSt) : (s.setLaunches v).mem = s.mem := rfl
@[simp] theorem State.setLaunches_tlb (s : State) (v : Map LaunchSt) : (s.setLaunches v).tlb = s.tlb := rfl
@[simp] theorem State.setLaunches_owner (s : State) (v : Map LaunchSt) : (s.setLaunches v).owner = s.owner := rfl
@[simp] theorem State.setLaunches_shadows (s : State) (v : Map LaunchSt) : (s.setLaunches v).shadows = s.shadows := rfl
@[simp] theorem State.setLaunches_dets (s : State) (v : Map LaunchSt) : (s.setLaunches v).dets = s.dets := rfl
@[simp] theorem State.setLaunches_units (s : State) (v : Map LaunchSt) : (s.setLaunches v).units = s.units := rfl
@[simp] theorem State.setLaunches_panes (s : State) (v : Map LaunchSt) : (s.setLaunches v).panes = s.panes := rfl
@[simp] theorem State.setLaunches_cas (s : State) (v : Map LaunchSt) : (s.setLaunches v).cas = s.cas := rfl
@[simp] theorem State.setLaunches_launches (s : State) (v : Map LaunchSt) : (s.setLaunches v).launches = v := rfl
@[simp] theorem State.setLaunches_cores (s : State) (v : Map LaunchSt) : (s.setLaunches v).cores = s.cores := rfl
@[simp] theorem State.setLaunches_ctxs (s : State) (v : Map LaunchSt) : (s.setLaunches v).ctxs = s.ctxs := rfl
@[simp] theorem State.setLaunches_pend (s : State) (v : Map LaunchSt) : (s.setLaunches v).pend = s.pend := rfl
@[simp] theorem State.setLaunches_wpart (s : State) (v : Map LaunchSt) : (s.setLaunches v).wpart = s.wpart := rfl
@[simp] theorem State.setLaunches_dev (s : State) (v : Map LaunchSt) : (s.setLaunches v).dev = s.dev := rfl
@[simp] theorem State.setLaunches_poison (s : State) (v : Map LaunchSt) : (s.setLaunches v).poison = s.poison := rfl
@[simp] theorem State.setLaunches_images (s : State) (v : Map LaunchSt) : (s.setLaunches v).images = s.images := rfl

/-! ## setCores -/

@[simp] theorem State.setCores_now (s : State) (v : Map CoreSt) : (s.setCores v).now = s.now := rfl
@[simp] theorem State.setCores_opening (s : State) (v : Map CoreSt) : (s.setCores v).opening = s.opening := rfl
@[simp] theorem State.setCores_issuing (s : State) (v : Map CoreSt) : (s.setCores v).issuing = s.issuing := rfl
@[simp] theorem State.setCores_cur (s : State) (v : Map CoreSt) : (s.setCores v).cur = s.cur := rfl
@[simp] theorem State.setCores_inbox (s : State) (v : Map CoreSt) : (s.setCores v).inbox = s.inbox := rfl
@[simp] theorem State.setCores_nextId (s : State) (v : Map CoreSt) : (s.setCores v).nextId = s.nextId := rfl
@[simp] theorem State.setCores_free (s : State) (v : Map CoreSt) : (s.setCores v).free = s.free := rfl
@[simp] theorem State.setCores_mem (s : State) (v : Map CoreSt) : (s.setCores v).mem = s.mem := rfl
@[simp] theorem State.setCores_tlb (s : State) (v : Map CoreSt) : (s.setCores v).tlb = s.tlb := rfl
@[simp] theorem State.setCores_owner (s : State) (v : Map CoreSt) : (s.setCores v).owner = s.owner := rfl
@[simp] theorem State.setCores_shadows (s : State) (v : Map CoreSt) : (s.setCores v).shadows = s.shadows := rfl
@[simp] theorem State.setCores_dets (s : State) (v : Map CoreSt) : (s.setCores v).dets = s.dets := rfl
@[simp] theorem State.setCores_units (s : State) (v : Map CoreSt) : (s.setCores v).units = s.units := rfl
@[simp] theorem State.setCores_panes (s : State) (v : Map CoreSt) : (s.setCores v).panes = s.panes := rfl
@[simp] theorem State.setCores_cas (s : State) (v : Map CoreSt) : (s.setCores v).cas = s.cas := rfl
@[simp] theorem State.setCores_launches (s : State) (v : Map CoreSt) : (s.setCores v).launches = s.launches := rfl
@[simp] theorem State.setCores_cores (s : State) (v : Map CoreSt) : (s.setCores v).cores = v := rfl
@[simp] theorem State.setCores_ctxs (s : State) (v : Map CoreSt) : (s.setCores v).ctxs = s.ctxs := rfl
@[simp] theorem State.setCores_pend (s : State) (v : Map CoreSt) : (s.setCores v).pend = s.pend := rfl
@[simp] theorem State.setCores_wpart (s : State) (v : Map CoreSt) : (s.setCores v).wpart = s.wpart := rfl
@[simp] theorem State.setCores_dev (s : State) (v : Map CoreSt) : (s.setCores v).dev = s.dev := rfl
@[simp] theorem State.setCores_poison (s : State) (v : Map CoreSt) : (s.setCores v).poison = s.poison := rfl
@[simp] theorem State.setCores_images (s : State) (v : Map CoreSt) : (s.setCores v).images = s.images := rfl

/-! ## setCtxs -/

@[simp] theorem State.setCtxs_now (s : State) (v : Map CtxSt) : (s.setCtxs v).now = s.now := rfl
@[simp] theorem State.setCtxs_opening (s : State) (v : Map CtxSt) : (s.setCtxs v).opening = s.opening := rfl
@[simp] theorem State.setCtxs_issuing (s : State) (v : Map CtxSt) : (s.setCtxs v).issuing = s.issuing := rfl
@[simp] theorem State.setCtxs_cur (s : State) (v : Map CtxSt) : (s.setCtxs v).cur = s.cur := rfl
@[simp] theorem State.setCtxs_inbox (s : State) (v : Map CtxSt) : (s.setCtxs v).inbox = s.inbox := rfl
@[simp] theorem State.setCtxs_nextId (s : State) (v : Map CtxSt) : (s.setCtxs v).nextId = s.nextId := rfl
@[simp] theorem State.setCtxs_free (s : State) (v : Map CtxSt) : (s.setCtxs v).free = s.free := rfl
@[simp] theorem State.setCtxs_mem (s : State) (v : Map CtxSt) : (s.setCtxs v).mem = s.mem := rfl
@[simp] theorem State.setCtxs_tlb (s : State) (v : Map CtxSt) : (s.setCtxs v).tlb = s.tlb := rfl
@[simp] theorem State.setCtxs_owner (s : State) (v : Map CtxSt) : (s.setCtxs v).owner = s.owner := rfl
@[simp] theorem State.setCtxs_shadows (s : State) (v : Map CtxSt) : (s.setCtxs v).shadows = s.shadows := rfl
@[simp] theorem State.setCtxs_dets (s : State) (v : Map CtxSt) : (s.setCtxs v).dets = s.dets := rfl
@[simp] theorem State.setCtxs_units (s : State) (v : Map CtxSt) : (s.setCtxs v).units = s.units := rfl
@[simp] theorem State.setCtxs_panes (s : State) (v : Map CtxSt) : (s.setCtxs v).panes = s.panes := rfl
@[simp] theorem State.setCtxs_cas (s : State) (v : Map CtxSt) : (s.setCtxs v).cas = s.cas := rfl
@[simp] theorem State.setCtxs_launches (s : State) (v : Map CtxSt) : (s.setCtxs v).launches = s.launches := rfl
@[simp] theorem State.setCtxs_cores (s : State) (v : Map CtxSt) : (s.setCtxs v).cores = s.cores := rfl
@[simp] theorem State.setCtxs_ctxs (s : State) (v : Map CtxSt) : (s.setCtxs v).ctxs = v := rfl
@[simp] theorem State.setCtxs_pend (s : State) (v : Map CtxSt) : (s.setCtxs v).pend = s.pend := rfl
@[simp] theorem State.setCtxs_wpart (s : State) (v : Map CtxSt) : (s.setCtxs v).wpart = s.wpart := rfl
@[simp] theorem State.setCtxs_dev (s : State) (v : Map CtxSt) : (s.setCtxs v).dev = s.dev := rfl
@[simp] theorem State.setCtxs_poison (s : State) (v : Map CtxSt) : (s.setCtxs v).poison = s.poison := rfl
@[simp] theorem State.setCtxs_images (s : State) (v : Map CtxSt) : (s.setCtxs v).images = s.images := rfl

/-! ## setPend -/

@[simp] theorem State.setPend_now (s : State) (v : Map Pend) : (s.setPend v).now = s.now := rfl
@[simp] theorem State.setPend_opening (s : State) (v : Map Pend) : (s.setPend v).opening = s.opening := rfl
@[simp] theorem State.setPend_issuing (s : State) (v : Map Pend) : (s.setPend v).issuing = s.issuing := rfl
@[simp] theorem State.setPend_cur (s : State) (v : Map Pend) : (s.setPend v).cur = s.cur := rfl
@[simp] theorem State.setPend_inbox (s : State) (v : Map Pend) : (s.setPend v).inbox = s.inbox := rfl
@[simp] theorem State.setPend_nextId (s : State) (v : Map Pend) : (s.setPend v).nextId = s.nextId := rfl
@[simp] theorem State.setPend_free (s : State) (v : Map Pend) : (s.setPend v).free = s.free := rfl
@[simp] theorem State.setPend_mem (s : State) (v : Map Pend) : (s.setPend v).mem = s.mem := rfl
@[simp] theorem State.setPend_tlb (s : State) (v : Map Pend) : (s.setPend v).tlb = s.tlb := rfl
@[simp] theorem State.setPend_owner (s : State) (v : Map Pend) : (s.setPend v).owner = s.owner := rfl
@[simp] theorem State.setPend_shadows (s : State) (v : Map Pend) : (s.setPend v).shadows = s.shadows := rfl
@[simp] theorem State.setPend_dets (s : State) (v : Map Pend) : (s.setPend v).dets = s.dets := rfl
@[simp] theorem State.setPend_units (s : State) (v : Map Pend) : (s.setPend v).units = s.units := rfl
@[simp] theorem State.setPend_panes (s : State) (v : Map Pend) : (s.setPend v).panes = s.panes := rfl
@[simp] theorem State.setPend_cas (s : State) (v : Map Pend) : (s.setPend v).cas = s.cas := rfl
@[simp] theorem State.setPend_launches (s : State) (v : Map Pend) : (s.setPend v).launches = s.launches := rfl
@[simp] theorem State.setPend_cores (s : State) (v : Map Pend) : (s.setPend v).cores = s.cores := rfl
@[simp] theorem State.setPend_ctxs (s : State) (v : Map Pend) : (s.setPend v).ctxs = s.ctxs := rfl
@[simp] theorem State.setPend_pend (s : State) (v : Map Pend) : (s.setPend v).pend = v := rfl
@[simp] theorem State.setPend_wpart (s : State) (v : Map Pend) : (s.setPend v).wpart = s.wpart := rfl
@[simp] theorem State.setPend_dev (s : State) (v : Map Pend) : (s.setPend v).dev = s.dev := rfl
@[simp] theorem State.setPend_poison (s : State) (v : Map Pend) : (s.setPend v).poison = s.poison := rfl
@[simp] theorem State.setPend_images (s : State) (v : Map Pend) : (s.setPend v).images = s.images := rfl

/-! ## setWpart -/

@[simp] theorem State.setWpart_now (s : State) (v : Map WpartSt) : (s.setWpart v).now = s.now := rfl
@[simp] theorem State.setWpart_opening (s : State) (v : Map WpartSt) : (s.setWpart v).opening = s.opening := rfl
@[simp] theorem State.setWpart_issuing (s : State) (v : Map WpartSt) : (s.setWpart v).issuing = s.issuing := rfl
@[simp] theorem State.setWpart_cur (s : State) (v : Map WpartSt) : (s.setWpart v).cur = s.cur := rfl
@[simp] theorem State.setWpart_inbox (s : State) (v : Map WpartSt) : (s.setWpart v).inbox = s.inbox := rfl
@[simp] theorem State.setWpart_nextId (s : State) (v : Map WpartSt) : (s.setWpart v).nextId = s.nextId := rfl
@[simp] theorem State.setWpart_free (s : State) (v : Map WpartSt) : (s.setWpart v).free = s.free := rfl
@[simp] theorem State.setWpart_mem (s : State) (v : Map WpartSt) : (s.setWpart v).mem = s.mem := rfl
@[simp] theorem State.setWpart_tlb (s : State) (v : Map WpartSt) : (s.setWpart v).tlb = s.tlb := rfl
@[simp] theorem State.setWpart_owner (s : State) (v : Map WpartSt) : (s.setWpart v).owner = s.owner := rfl
@[simp] theorem State.setWpart_shadows (s : State) (v : Map WpartSt) : (s.setWpart v).shadows = s.shadows := rfl
@[simp] theorem State.setWpart_dets (s : State) (v : Map WpartSt) : (s.setWpart v).dets = s.dets := rfl
@[simp] theorem State.setWpart_units (s : State) (v : Map WpartSt) : (s.setWpart v).units = s.units := rfl
@[simp] theorem State.setWpart_panes (s : State) (v : Map WpartSt) : (s.setWpart v).panes = s.panes := rfl
@[simp] theorem State.setWpart_cas (s : State) (v : Map WpartSt) : (s.setWpart v).cas = s.cas := rfl
@[simp] theorem State.setWpart_launches (s : State) (v : Map WpartSt) : (s.setWpart v).launches = s.launches := rfl
@[simp] theorem State.setWpart_cores (s : State) (v : Map WpartSt) : (s.setWpart v).cores = s.cores := rfl
@[simp] theorem State.setWpart_ctxs (s : State) (v : Map WpartSt) : (s.setWpart v).ctxs = s.ctxs := rfl
@[simp] theorem State.setWpart_pend (s : State) (v : Map WpartSt) : (s.setWpart v).pend = s.pend := rfl
@[simp] theorem State.setWpart_wpart (s : State) (v : Map WpartSt) : (s.setWpart v).wpart = v := rfl
@[simp] theorem State.setWpart_dev (s : State) (v : Map WpartSt) : (s.setWpart v).dev = s.dev := rfl
@[simp] theorem State.setWpart_poison (s : State) (v : Map WpartSt) : (s.setWpart v).poison = s.poison := rfl
@[simp] theorem State.setWpart_images (s : State) (v : Map WpartSt) : (s.setWpart v).images = s.images := rfl

/-! ## setDev -/

@[simp] theorem State.setDev_now (s : State) (v : DevSt) : (s.setDev v).now = s.now := rfl
@[simp] theorem State.setDev_opening (s : State) (v : DevSt) : (s.setDev v).opening = s.opening := rfl
@[simp] theorem State.setDev_issuing (s : State) (v : DevSt) : (s.setDev v).issuing = s.issuing := rfl
@[simp] theorem State.setDev_cur (s : State) (v : DevSt) : (s.setDev v).cur = s.cur := rfl
@[simp] theorem State.setDev_inbox (s : State) (v : DevSt) : (s.setDev v).inbox = s.inbox := rfl
@[simp] theorem State.setDev_nextId (s : State) (v : DevSt) : (s.setDev v).nextId = s.nextId := rfl
@[simp] theorem State.setDev_free (s : State) (v : DevSt) : (s.setDev v).free = s.free := rfl
@[simp] theorem State.setDev_mem (s : State) (v : DevSt) : (s.setDev v).mem = s.mem := rfl
@[simp] theorem State.setDev_tlb (s : State) (v : DevSt) : (s.setDev v).tlb = s.tlb := rfl
@[simp] theorem State.setDev_owner (s : State) (v : DevSt) : (s.setDev v).owner = s.owner := rfl
@[simp] theorem State.setDev_shadows (s : State) (v : DevSt) : (s.setDev v).shadows = s.shadows := rfl
@[simp] theorem State.setDev_dets (s : State) (v : DevSt) : (s.setDev v).dets = s.dets := rfl
@[simp] theorem State.setDev_units (s : State) (v : DevSt) : (s.setDev v).units = s.units := rfl
@[simp] theorem State.setDev_panes (s : State) (v : DevSt) : (s.setDev v).panes = s.panes := rfl
@[simp] theorem State.setDev_cas (s : State) (v : DevSt) : (s.setDev v).cas = s.cas := rfl
@[simp] theorem State.setDev_launches (s : State) (v : DevSt) : (s.setDev v).launches = s.launches := rfl
@[simp] theorem State.setDev_cores (s : State) (v : DevSt) : (s.setDev v).cores = s.cores := rfl
@[simp] theorem State.setDev_ctxs (s : State) (v : DevSt) : (s.setDev v).ctxs = s.ctxs := rfl
@[simp] theorem State.setDev_pend (s : State) (v : DevSt) : (s.setDev v).pend = s.pend := rfl
@[simp] theorem State.setDev_wpart (s : State) (v : DevSt) : (s.setDev v).wpart = s.wpart := rfl
@[simp] theorem State.setDev_dev (s : State) (v : DevSt) : (s.setDev v).dev = v := rfl
@[simp] theorem State.setDev_poison (s : State) (v : DevSt) : (s.setDev v).poison = s.poison := rfl
@[simp] theorem State.setDev_images (s : State) (v : DevSt) : (s.setDev v).images = s.images := rfl

/-! ## setPoison -/

@[simp] theorem State.setPoison_now (s : State) (v : List Site) : (s.setPoison v).now = s.now := rfl
@[simp] theorem State.setPoison_opening (s : State) (v : List Site) : (s.setPoison v).opening = s.opening := rfl
@[simp] theorem State.setPoison_issuing (s : State) (v : List Site) : (s.setPoison v).issuing = s.issuing := rfl
@[simp] theorem State.setPoison_cur (s : State) (v : List Site) : (s.setPoison v).cur = s.cur := rfl
@[simp] theorem State.setPoison_inbox (s : State) (v : List Site) : (s.setPoison v).inbox = s.inbox := rfl
@[simp] theorem State.setPoison_nextId (s : State) (v : List Site) : (s.setPoison v).nextId = s.nextId := rfl
@[simp] theorem State.setPoison_free (s : State) (v : List Site) : (s.setPoison v).free = s.free := rfl
@[simp] theorem State.setPoison_mem (s : State) (v : List Site) : (s.setPoison v).mem = s.mem := rfl
@[simp] theorem State.setPoison_tlb (s : State) (v : List Site) : (s.setPoison v).tlb = s.tlb := rfl
@[simp] theorem State.setPoison_owner (s : State) (v : List Site) : (s.setPoison v).owner = s.owner := rfl
@[simp] theorem State.setPoison_shadows (s : State) (v : List Site) : (s.setPoison v).shadows = s.shadows := rfl
@[simp] theorem State.setPoison_dets (s : State) (v : List Site) : (s.setPoison v).dets = s.dets := rfl
@[simp] theorem State.setPoison_units (s : State) (v : List Site) : (s.setPoison v).units = s.units := rfl
@[simp] theorem State.setPoison_panes (s : State) (v : List Site) : (s.setPoison v).panes = s.panes := rfl
@[simp] theorem State.setPoison_cas (s : State) (v : List Site) : (s.setPoison v).cas = s.cas := rfl
@[simp] theorem State.setPoison_launches (s : State) (v : List Site) : (s.setPoison v).launches = s.launches := rfl
@[simp] theorem State.setPoison_cores (s : State) (v : List Site) : (s.setPoison v).cores = s.cores := rfl
@[simp] theorem State.setPoison_ctxs (s : State) (v : List Site) : (s.setPoison v).ctxs = s.ctxs := rfl
@[simp] theorem State.setPoison_pend (s : State) (v : List Site) : (s.setPoison v).pend = s.pend := rfl
@[simp] theorem State.setPoison_wpart (s : State) (v : List Site) : (s.setPoison v).wpart = s.wpart := rfl
@[simp] theorem State.setPoison_dev (s : State) (v : List Site) : (s.setPoison v).dev = s.dev := rfl
@[simp] theorem State.setPoison_poison (s : State) (v : List Site) : (s.setPoison v).poison = v := rfl
@[simp] theorem State.setPoison_images (s : State) (v : List Site) : (s.setPoison v).images = s.images := rfl

/-! ## setImages -/

@[simp] theorem State.setImages_now (s : State) (v : List Img) : (s.setImages v).now = s.now := rfl
@[simp] theorem State.setImages_opening (s : State) (v : List Img) : (s.setImages v).opening = s.opening := rfl
@[simp] theorem State.setImages_issuing (s : State) (v : List Img) : (s.setImages v).issuing = s.issuing := rfl
@[simp] theorem State.setImages_cur (s : State) (v : List Img) : (s.setImages v).cur = s.cur := rfl
@[simp] theorem State.setImages_inbox (s : State) (v : List Img) : (s.setImages v).inbox = s.inbox := rfl
@[simp] theorem State.setImages_nextId (s : State) (v : List Img) : (s.setImages v).nextId = s.nextId := rfl
@[simp] theorem State.setImages_free (s : State) (v : List Img) : (s.setImages v).free = s.free := rfl
@[simp] theorem State.setImages_mem (s : State) (v : List Img) : (s.setImages v).mem = s.mem := rfl
@[simp] theorem State.setImages_tlb (s : State) (v : List Img) : (s.setImages v).tlb = s.tlb := rfl
@[simp] theorem State.setImages_owner (s : State) (v : List Img) : (s.setImages v).owner = s.owner := rfl
@[simp] theorem State.setImages_shadows (s : State) (v : List Img) : (s.setImages v).shadows = s.shadows := rfl
@[simp] theorem State.setImages_dets (s : State) (v : List Img) : (s.setImages v).dets = s.dets := rfl
@[simp] theorem State.setImages_units (s : State) (v : List Img) : (s.setImages v).units = s.units := rfl
@[simp] theorem State.setImages_panes (s : State) (v : List Img) : (s.setImages v).panes = s.panes := rfl
@[simp] theorem State.setImages_cas (s : State) (v : List Img) : (s.setImages v).cas = s.cas := rfl
@[simp] theorem State.setImages_launches (s : State) (v : List Img) : (s.setImages v).launches = s.launches := rfl
@[simp] theorem State.setImages_cores (s : State) (v : List Img) : (s.setImages v).cores = s.cores := rfl
@[simp] theorem State.setImages_ctxs (s : State) (v : List Img) : (s.setImages v).ctxs = s.ctxs := rfl
@[simp] theorem State.setImages_pend (s : State) (v : List Img) : (s.setImages v).pend = s.pend := rfl
@[simp] theorem State.setImages_wpart (s : State) (v : List Img) : (s.setImages v).wpart = s.wpart := rfl
@[simp] theorem State.setImages_dev (s : State) (v : List Img) : (s.setImages v).dev = s.dev := rfl
@[simp] theorem State.setImages_poison (s : State) (v : List Img) : (s.setImages v).poison = s.poison := rfl
@[simp] theorem State.setImages_images (s : State) (v : List Img) : (s.setImages v).images = v := rfl

end Sys2Proof.Machine
end

