-- ==== Sys2Proof/Laws/Store.lean ====
section
/-! SUPPORT. Finite maps, sparse maps and memory: reading after writing, and the canonical form kept. -/

namespace Sys2Proof.Machine

/-! ## Finite maps -/

@[simp] theorem Map.find_put_self {α : Type} (m : Map α) (k : Nat) (v : α) : (Map.put m k v).find k = some v := by
  induction m with
  | nil => simp [Map.put, Map.find]
  | cons c r ih =>
    obtain ⟨a, b⟩ := c
    unfold Map.put
    by_cases h1 : k < a
    · simp [h1, Map.find]
    · by_cases h2 : k = a
      · simp [h2, Map.find]
      · have h3 : ¬ a = k := fun e => h2 e.symm
        simp [h1, h2, h3, Map.find, ih]

theorem Map.find_put_other {α : Type} (m : Map α) {k j : Nat} (v : α) (h : j ≠ k) : (Map.put m k v).find j = m.find j := by
  have h' : ¬ k = j := fun e => h e.symm
  induction m with
  | nil => simp [Map.put, Map.find, h']
  | cons c r ih =>
    obtain ⟨a, b⟩ := c
    unfold Map.put
    by_cases h1 : k < a
    · simp [h1, Map.find, h']
    · by_cases h2 : k = a
      · subst h2
        simp [Map.find, h']
      · simp [h1, h2, Map.find, ih]

@[simp] theorem Map.find_del_self {α : Type} (m : Map α) (k : Nat) : (Map.del m k).find k = none := by
  induction m with
  | nil => rfl
  | cons c r ih =>
    obtain ⟨a, b⟩ := c
    by_cases h : a = k
    · simp [Map.del, h, ih]
    · simp [Map.del, Map.find, h, ih]

theorem Map.find_del_other {α : Type} (m : Map α) {k j : Nat} (h : j ≠ k) : (Map.del m k).find j = m.find j := by
  induction m with
  | nil => rfl
  | cons c r ih =>
    obtain ⟨a, b⟩ := c
    by_cases h1 : a = k
    · have h2 : ¬ a = j := fun e => h (e.symm.trans h1)
      simp only [Map.del, Map.find, if_pos h1, if_neg h2, ih]
    · simp [Map.del, Map.find, h1, ih]

/-- Every key of a map is at least n. -/
def Map.above {α : Type} (m : Map α) (n : Nat) : Prop := ∀ c ∈ m, n ≤ c.1

theorem Map.sorted_cons {α : Type} {a : Nat} {b : α} {r : Map α} :
    Map.sorted ((a, b) :: r) = true ↔ Map.sorted r = true ∧ Map.above r (a + 1) := by
  induction r generalizing a b with
  | nil => simp [Map.sorted, Map.above]
  | cons c r ih =>
    obtain ⟨x, y⟩ := c
    simp only [Map.sorted, Bool.and_eq_true, decide_eq_true_eq]
    constructor
    · rintro ⟨h1, h2⟩
      refine ⟨h2, ?_⟩
      intro d hd
      rcases List.mem_cons.1 hd with rfl | hd
      · exact h1
      · have := (ih.1 h2).2 d hd
        omega
    · rintro ⟨h1, h2⟩
      exact ⟨h2 (x, y) (by simp), h1⟩

theorem Map.above_put {α : Type} {m : Map α} {k n : Nat} {v : α} (h : Map.above m n) (hk : n ≤ k) : Map.above (Map.put m k v) n := by
  induction m with
  | nil => intro c hc; simp [Map.put] at hc; subst hc; exact hk
  | cons c r ih =>
    obtain ⟨a, b⟩ := c
    have hr : Map.above r n := fun d hd => h d (by simp [hd])
    intro d hd
    unfold Map.put at hd
    split at hd
    · rcases List.mem_cons.1 hd with rfl | hd
      · exact hk
      · exact h d hd
    · split at hd
      · rcases List.mem_cons.1 hd with rfl | hd
        · exact hk
        · exact hr d hd
      · rcases List.mem_cons.1 hd with rfl | hd
        · exact h (a, b) (by simp)
        · exact ih hr d hd

theorem Map.sorted_put {α : Type} {m : Map α} (k : Nat) (v : α) (h : Map.sorted m = true) : Map.sorted (Map.put m k v) = true := by
  induction m with
  | nil => rfl
  | cons c r ih =>
    obtain ⟨a, b⟩ := c
    obtain ⟨h1, h2⟩ := Map.sorted_cons.1 h
    unfold Map.put
    split
    · refine Map.sorted_cons.2 ⟨h, ?_⟩
      intro d hd
      rcases List.mem_cons.1 hd with rfl | hd
      · simpa
      · have := h2 d hd; omega
    · split
      · rename_i h3 h4
        subst h4
        exact Map.sorted_cons.2 ⟨h1, h2⟩
      · exact Map.sorted_cons.2 ⟨ih h1, Map.above_put h2 (by omega)⟩

theorem Map.mem_del {α : Type} {m : Map α} {k : Nat} {c : Nat × α} (h : c ∈ Map.del m k) : c ∈ m := by
  induction m with
  | nil => exact h
  | cons d r ih =>
    obtain ⟨a, b⟩ := d
    unfold Map.del at h
    split at h
    · exact List.mem_cons_of_mem _ (ih h)
    · rcases List.mem_cons.1 h with rfl | h
      · simp
      · exact List.mem_cons_of_mem _ (ih h)

theorem Map.mem_put {α : Type} {m : Map α} {k : Nat} {v : α} {c : Nat × α} (h : c ∈ Map.put m k v) : c = (k, v) ∨ c ∈ m := by
  induction m with
  | nil => left; simpa [Map.put] using h
  | cons d r ih =>
    obtain ⟨a, b⟩ := d
    unfold Map.put at h
    split at h
    · rcases List.mem_cons.1 h with rfl | h
      · exact .inl rfl
      · exact .inr h
    · split at h
      · rcases List.mem_cons.1 h with rfl | h
        · exact .inl rfl
        · exact .inr (List.mem_cons_of_mem _ h)
      · rcases List.mem_cons.1 h with rfl | h
        · exact .inr (by simp)
        · rcases ih h with h | h
          · exact .inl h
          · exact .inr (List.mem_cons_of_mem _ h)

theorem Map.sorted_del {α : Type} {m : Map α} (k : Nat) (h : Map.sorted m = true) : Map.sorted (Map.del m k) = true := by
  induction m with
  | nil => rfl
  | cons c r ih =>
    obtain ⟨a, b⟩ := c
    obtain ⟨h1, h2⟩ := Map.sorted_cons.1 h
    unfold Map.del
    split
    · exact ih h1
    · exact Map.sorted_cons.2 ⟨ih h1, fun d hd => h2 d (Map.mem_del hd)⟩

theorem Map.sorted_filter {α : Type} {m : Map α} (p : Nat × α → Bool) (h : Map.sorted m = true) :
    Map.sorted (m.filter p) = true := by
  induction m with
  | nil => rfl
  | cons c r ih =>
    obtain ⟨a, b⟩ := c
    obtain ⟨h1, h2⟩ := Map.sorted_cons.1 h
    rw [List.filter_cons]
    split
    · exact Map.sorted_cons.2 ⟨ih h1, fun d hd => h2 d (List.mem_filter.1 hd).1⟩
    · exact ih h1

/-! ## Sparse maps -/

@[simp] theorem Sparse.read_write_self {n : Nat} (m : Sparse n) (k : Nat) (v : BitVec n) :
    Sparse.read (Sparse.write m k v) k = v := by
  unfold Sparse.read Sparse.write Map.getD
  split
  · rename_i h; simp [h]
  · simp

theorem Sparse.read_write_other {n : Nat} (m : Sparse n) {k j : Nat} (v : BitVec n) (h : j ≠ k) :
    Sparse.read (Sparse.write m k v) j = Sparse.read m j := by
  unfold Sparse.read Sparse.write Map.getD
  split
  · rw [Map.find_del_other m h]
  · rw [Map.find_put_other m v h]

theorem Sparse.wf_write {n : Nat} {m : Sparse n} (k : Nat) (v : BitVec n) (h : Sparse.wf m = true) :
    Sparse.wf (Sparse.write m k v) = true := by
  unfold Sparse.wf at *
  rw [Bool.and_eq_true, List.all_eq_true] at *
  obtain ⟨h1, h2⟩ := h
  unfold Sparse.write
  split
  · exact ⟨Map.sorted_del k h1, fun c hc => h2 c (Map.mem_del hc)⟩
  · rename_i hv
    refine ⟨Map.sorted_put k v h1, fun c hc => ?_⟩
    rcases Map.mem_put hc with rfl | hc
    · simpa using hv
    · exact h2 c hc

theorem Sparse.wf_filter {n : Nat} {m : Sparse n} (p : Nat × BitVec n → Bool) (h : Sparse.wf m = true) :
    Sparse.wf (m.filter p) = true := by
  unfold Sparse.wf at *
  rw [Bool.and_eq_true, List.all_eq_true] at *
  exact ⟨Map.sorted_filter p h.1, fun c hc => h.2 c (List.mem_filter.1 hc).1⟩

/-! ## Memory -/

@[simp] theorem Memory.read_write_self (m : Memory) (a : Nat) (b : Byte) : (m.writeByte a b).readByte a = b :=
  Sparse.read_write_self (n := 8) m a b

theorem Memory.read_write_other (m : Memory) {a c : Nat} (b : Byte) (h : c ≠ a) : (m.writeByte a b).readByte c = m.readByte c :=
  Sparse.read_write_other (n := 8) m b h

theorem Memory.wf_writeByte {m : Memory} (a : Nat) (b : Byte) (h : m.wf = true) : (m.writeByte a b).wf = true :=
  Sparse.wf_write (n := 8) a b h

theorem Memory.wf_writeBytes {m : Memory} (a : Nat) (bs : List Byte) (h : m.wf = true) : (m.writeBytes a bs).wf = true := by
  induction bs generalizing m a with
  | nil => exact h
  | cons b bs ih => exact ih _ (Memory.wf_writeByte a b h)

theorem Memory.wf_writeNat {m : Memory} (a n v : Nat) (h : m.wf = true) : (m.writeNat a n v).wf = true :=
  Memory.wf_writeBytes a _ h

theorem Memory.wf_filter {m : Memory} (p : Host.Cell → Bool) (h : m.wf = true) : Memory.wf (m.filter p) = true :=
  Sparse.wf_filter (n := 8) p h

theorem Memory.read_writeBytes_outside (m : Memory) (a : Nat) (bs : List Byte) {c : Nat} (h : c < a ∨ a + bs.length ≤ c) :
    (m.writeBytes a bs).readByte c = m.readByte c := by
  induction bs generalizing m a with
  | nil => rfl
  | cons b bs ih =>
    simp only [List.length_cons] at h
    unfold Memory.writeBytes
    rw [ih (m.writeByte a b) (a + 1) (by omega), Memory.read_write_other m b (by omega)]

theorem Memory.read_writeBytes_inside (m : Memory) (a : Nat) (bs : List Byte) {k : Nat} (h : k < bs.length) :
    (m.writeBytes a bs).readByte (a + k) = bs[k] := by
  induction bs generalizing m a k with
  | nil => simp at h
  | cons b bs ih =>
    unfold Memory.writeBytes
    cases k with
    | zero =>
      rw [Memory.read_writeBytes_outside _ _ _ (by omega)]
      simp
    | succ k =>
      have := ih (m.writeByte a b) (a + 1) (k := k) (by simpa using h)
      rw [show a + (k + 1) = a + 1 + k by omega, this]
      simp

@[simp] theorem toBytes_length (n v : Nat) : (toBytes n v).length = n := by
  induction n generalizing v with
  | zero => rfl
  | succ n ih => simp [toBytes, ih]

theorem Memory.read_writeNat_outside (m : Memory) (a n v : Nat) {c : Nat} (h : c < a ∨ a + n ≤ c) :
    (m.writeNat a n v).readByte c = m.readByte c :=
  Memory.read_writeBytes_outside m a _ (by simpa using h)

theorem ofBytes_toBytes (n v : Nat) : ofBytes (toBytes n v) = v % 256 ^ n := by
  induction n generalizing v with
  | zero => simp [toBytes, ofBytes, Nat.mod_one]
  | succ n ih =>
    simp only [toBytes, ofBytes, ih, BitVec.toNat_ofNat]
    rw [show (256 : Nat) ^ (n + 1) = 256 * 256 ^ n by rw [Nat.pow_succ, Nat.mul_comm], Nat.mod_mul]

theorem Memory.readBytes_writeBytes (m : Memory) (a : Nat) (bs : List Byte) :
    (m.writeBytes a bs).readBytes a bs.length = bs := by
  have key : ∀ (n : Nat) (m' : Memory) (b : Nat) (xs : List Byte), xs.length = n →
      (∀ k (h : k < xs.length), m'.readByte (b + k) = xs[k]) → m'.readBytes b n = xs := by
    intro n
    induction n with
    | zero => intro m' b xs hl _; rw [List.length_eq_zero_iff.1 hl]; rfl
    | succ n ih =>
      intro m' b xs hl hk
      cases xs with
      | nil => simp at hl
      | cons x xs =>
        have h0 := hk 0 (by simp)
        simp only [Nat.add_zero, List.getElem_cons_zero] at h0
        rw [Memory.readBytes, h0, ih m' (b + 1) xs (by simpa using hl)]
        intro k h
        have := hk (k + 1) (by simpa using h)
        rw [show b + 1 + k = b + (k + 1) by omega, this]
        rfl
  exact key _ _ _ _ rfl fun k h => Memory.read_writeBytes_inside m a bs h

/-- A number read back from where it was written (R2). -/
theorem Memory.readNat_writeNat (m : Memory) (a n v : Nat) : (m.writeNat a n v).readNat a n = v % 256 ^ n := by
  have h := Memory.readBytes_writeBytes m a (toBytes n v)
  rw [toBytes_length] at h
  rw [Memory.readNat, Memory.writeNat, h, ofBytes_toBytes]

end Sys2Proof.Machine
end

