-- ==== Sys2Proof/Laws/Lookup.lean ====
section
/-! SUPPORT. What storing and updating a table entry leaves in every field of the state, and what is found afterwards. -/

namespace Sys2Proof.Machine

/-! ## putUnit -/

@[simp] theorem State.putUnit_now (s : State) (k : Nat) (v : UnitSt) : (s.putUnit k v).now = s.now := rfl
@[simp] theorem State.putUnit_issuing (s : State) (k : Nat) (v : UnitSt) : (s.putUnit k v).issuing = s.issuing := rfl
@[simp] theorem State.putUnit_cur (s : State) (k : Nat) (v : UnitSt) : (s.putUnit k v).cur = s.cur := rfl
@[simp] theorem State.putUnit_inbox (s : State) (k : Nat) (v : UnitSt) : (s.putUnit k v).inbox = s.inbox := rfl
@[simp] theorem State.putUnit_nextId (s : State) (k : Nat) (v : UnitSt) : (s.putUnit k v).nextId = s.nextId := rfl
@[simp] theorem State.putUnit_free (s : State) (k : Nat) (v : UnitSt) : (s.putUnit k v).free = s.free := rfl
@[simp] theorem State.putUnit_mem (s : State) (k : Nat) (v : UnitSt) : (s.putUnit k v).mem = s.mem := rfl
@[simp] theorem State.putUnit_tlb (s : State) (k : Nat) (v : UnitSt) : (s.putUnit k v).tlb = s.tlb := rfl
@[simp] theorem State.putUnit_owner (s : State) (k : Nat) (v : UnitSt) : (s.putUnit k v).owner = s.owner := rfl
@[simp] theorem State.putUnit_dets (s : State) (k : Nat) (v : UnitSt) : (s.putUnit k v).dets = s.dets := rfl
@[simp] theorem State.putUnit_panes (s : State) (k : Nat) (v : UnitSt) : (s.putUnit k v).panes = s.panes := rfl
@[simp] theorem State.putUnit_cas (s : State) (k : Nat) (v : UnitSt) : (s.putUnit k v).cas = s.cas := rfl
@[simp] theorem State.putUnit_launches (s : State) (k : Nat) (v : UnitSt) : (s.putUnit k v).launches = s.launches := rfl
@[simp] theorem State.putUnit_cores (s : State) (k : Nat) (v : UnitSt) : (s.putUnit k v).cores = s.cores := rfl
@[simp] theorem State.putUnit_ctxs (s : State) (k : Nat) (v : UnitSt) : (s.putUnit k v).ctxs = s.ctxs := rfl
@[simp] theorem State.putUnit_pend (s : State) (k : Nat) (v : UnitSt) : (s.putUnit k v).pend = s.pend := rfl
@[simp] theorem State.putUnit_wpart (s : State) (k : Nat) (v : UnitSt) : (s.putUnit k v).wpart = s.wpart := rfl
@[simp] theorem State.putUnit_dev (s : State) (k : Nat) (v : UnitSt) : (s.putUnit k v).dev = s.dev := rfl
@[simp] theorem State.putUnit_poison (s : State) (k : Nat) (v : UnitSt) : (s.putUnit k v).poison = s.poison := rfl
@[simp] theorem State.putUnit_images (s : State) (k : Nat) (v : UnitSt) : (s.putUnit k v).images = s.images := rfl

/-! ## putPane -/

@[simp] theorem State.putPane_now (s : State) (k : Nat) (v : PaneSt) : (s.putPane k v).now = s.now := rfl
@[simp] theorem State.putPane_issuing (s : State) (k : Nat) (v : PaneSt) : (s.putPane k v).issuing = s.issuing := rfl
@[simp] theorem State.putPane_cur (s : State) (k : Nat) (v : PaneSt) : (s.putPane k v).cur = s.cur := rfl
@[simp] theorem State.putPane_inbox (s : State) (k : Nat) (v : PaneSt) : (s.putPane k v).inbox = s.inbox := rfl
@[simp] theorem State.putPane_nextId (s : State) (k : Nat) (v : PaneSt) : (s.putPane k v).nextId = s.nextId := rfl
@[simp] theorem State.putPane_free (s : State) (k : Nat) (v : PaneSt) : (s.putPane k v).free = s.free := rfl
@[simp] theorem State.putPane_mem (s : State) (k : Nat) (v : PaneSt) : (s.putPane k v).mem = s.mem := rfl
@[simp] theorem State.putPane_tlb (s : State) (k : Nat) (v : PaneSt) : (s.putPane k v).tlb = s.tlb := rfl
@[simp] theorem State.putPane_owner (s : State) (k : Nat) (v : PaneSt) : (s.putPane k v).owner = s.owner := rfl
@[simp] theorem State.putPane_dets (s : State) (k : Nat) (v : PaneSt) : (s.putPane k v).dets = s.dets := rfl
@[simp] theorem State.putPane_units (s : State) (k : Nat) (v : PaneSt) : (s.putPane k v).units = s.units := rfl
@[simp] theorem State.putPane_cas (s : State) (k : Nat) (v : PaneSt) : (s.putPane k v).cas = s.cas := rfl
@[simp] theorem State.putPane_launches (s : State) (k : Nat) (v : PaneSt) : (s.putPane k v).launches = s.launches := rfl
@[simp] theorem State.putPane_cores (s : State) (k : Nat) (v : PaneSt) : (s.putPane k v).cores = s.cores := rfl
@[simp] theorem State.putPane_ctxs (s : State) (k : Nat) (v : PaneSt) : (s.putPane k v).ctxs = s.ctxs := rfl
@[simp] theorem State.putPane_pend (s : State) (k : Nat) (v : PaneSt) : (s.putPane k v).pend = s.pend := rfl
@[simp] theorem State.putPane_wpart (s : State) (k : Nat) (v : PaneSt) : (s.putPane k v).wpart = s.wpart := rfl
@[simp] theorem State.putPane_dev (s : State) (k : Nat) (v : PaneSt) : (s.putPane k v).dev = s.dev := rfl
@[simp] theorem State.putPane_poison (s : State) (k : Nat) (v : PaneSt) : (s.putPane k v).poison = s.poison := rfl
@[simp] theorem State.putPane_images (s : State) (k : Nat) (v : PaneSt) : (s.putPane k v).images = s.images := rfl

/-! ## putCasement -/

@[simp] theorem State.putCasement_now (s : State) (k : Nat) (v : CasementSt) : (s.putCasement k v).now = s.now := rfl
@[simp] theorem State.putCasement_issuing (s : State) (k : Nat) (v : CasementSt) : (s.putCasement k v).issuing = s.issuing := rfl
@[simp] theorem State.putCasement_cur (s : State) (k : Nat) (v : CasementSt) : (s.putCasement k v).cur = s.cur := rfl
@[simp] theorem State.putCasement_inbox (s : State) (k : Nat) (v : CasementSt) : (s.putCasement k v).inbox = s.inbox := rfl
@[simp] theorem State.putCasement_nextId (s : State) (k : Nat) (v : CasementSt) : (s.putCasement k v).nextId = s.nextId := rfl
@[simp] theorem State.putCasement_free (s : State) (k : Nat) (v : CasementSt) : (s.putCasement k v).free = s.free := rfl
@[simp] theorem State.putCasement_mem (s : State) (k : Nat) (v : CasementSt) : (s.putCasement k v).mem = s.mem := rfl
@[simp] theorem State.putCasement_tlb (s : State) (k : Nat) (v : CasementSt) : (s.putCasement k v).tlb = s.tlb := rfl
@[simp] theorem State.putCasement_owner (s : State) (k : Nat) (v : CasementSt) : (s.putCasement k v).owner = s.owner := rfl
@[simp] theorem State.putCasement_dets (s : State) (k : Nat) (v : CasementSt) : (s.putCasement k v).dets = s.dets := rfl
@[simp] theorem State.putCasement_units (s : State) (k : Nat) (v : CasementSt) : (s.putCasement k v).units = s.units := rfl
@[simp] theorem State.putCasement_panes (s : State) (k : Nat) (v : CasementSt) : (s.putCasement k v).panes = s.panes := rfl
@[simp] theorem State.putCasement_launches (s : State) (k : Nat) (v : CasementSt) : (s.putCasement k v).launches = s.launches := rfl
@[simp] theorem State.putCasement_cores (s : State) (k : Nat) (v : CasementSt) : (s.putCasement k v).cores = s.cores := rfl
@[simp] theorem State.putCasement_ctxs (s : State) (k : Nat) (v : CasementSt) : (s.putCasement k v).ctxs = s.ctxs := rfl
@[simp] theorem State.putCasement_pend (s : State) (k : Nat) (v : CasementSt) : (s.putCasement k v).pend = s.pend := rfl
@[simp] theorem State.putCasement_wpart (s : State) (k : Nat) (v : CasementSt) : (s.putCasement k v).wpart = s.wpart := rfl
@[simp] theorem State.putCasement_dev (s : State) (k : Nat) (v : CasementSt) : (s.putCasement k v).dev = s.dev := rfl
@[simp] theorem State.putCasement_poison (s : State) (k : Nat) (v : CasementSt) : (s.putCasement k v).poison = s.poison := rfl
@[simp] theorem State.putCasement_images (s : State) (k : Nat) (v : CasementSt) : (s.putCasement k v).images = s.images := rfl

/-! ## putLaunch -/

@[simp] theorem State.putLaunch_now (s : State) (k : Nat) (v : LaunchSt) : (s.putLaunch k v).now = s.now := rfl
@[simp] theorem State.putLaunch_issuing (s : State) (k : Nat) (v : LaunchSt) : (s.putLaunch k v).issuing = s.issuing := rfl
@[simp] theorem State.putLaunch_cur (s : State) (k : Nat) (v : LaunchSt) : (s.putLaunch k v).cur = s.cur := rfl
@[simp] theorem State.putLaunch_inbox (s : State) (k : Nat) (v : LaunchSt) : (s.putLaunch k v).inbox = s.inbox := rfl
@[simp] theorem State.putLaunch_nextId (s : State) (k : Nat) (v : LaunchSt) : (s.putLaunch k v).nextId = s.nextId := rfl
@[simp] theorem State.putLaunch_free (s : State) (k : Nat) (v : LaunchSt) : (s.putLaunch k v).free = s.free := rfl
@[simp] theorem State.putLaunch_mem (s : State) (k : Nat) (v : LaunchSt) : (s.putLaunch k v).mem = s.mem := rfl
@[simp] theorem State.putLaunch_tlb (s : State) (k : Nat) (v : LaunchSt) : (s.putLaunch k v).tlb = s.tlb := rfl
@[simp] theorem State.putLaunch_owner (s : State) (k : Nat) (v : LaunchSt) : (s.putLaunch k v).owner = s.owner := rfl
@[simp] theorem State.putLaunch_dets (s : State) (k : Nat) (v : LaunchSt) : (s.putLaunch k v).dets = s.dets := rfl
@[simp] theorem State.putLaunch_units (s : State) (k : Nat) (v : LaunchSt) : (s.putLaunch k v).units = s.units := rfl
@[simp] theorem State.putLaunch_panes (s : State) (k : Nat) (v : LaunchSt) : (s.putLaunch k v).panes = s.panes := rfl
@[simp] theorem State.putLaunch_cas (s : State) (k : Nat) (v : LaunchSt) : (s.putLaunch k v).cas = s.cas := rfl
@[simp] theorem State.putLaunch_cores (s : State) (k : Nat) (v : LaunchSt) : (s.putLaunch k v).cores = s.cores := rfl
@[simp] theorem State.putLaunch_ctxs (s : State) (k : Nat) (v : LaunchSt) : (s.putLaunch k v).ctxs = s.ctxs := rfl
@[simp] theorem State.putLaunch_pend (s : State) (k : Nat) (v : LaunchSt) : (s.putLaunch k v).pend = s.pend := rfl
@[simp] theorem State.putLaunch_wpart (s : State) (k : Nat) (v : LaunchSt) : (s.putLaunch k v).wpart = s.wpart := rfl
@[simp] theorem State.putLaunch_dev (s : State) (k : Nat) (v : LaunchSt) : (s.putLaunch k v).dev = s.dev := rfl
@[simp] theorem State.putLaunch_poison (s : State) (k : Nat) (v : LaunchSt) : (s.putLaunch k v).poison = s.poison := rfl
@[simp] theorem State.putLaunch_images (s : State) (k : Nat) (v : LaunchSt) : (s.putLaunch k v).images = s.images := rfl

/-! ## putCore -/

@[simp] theorem State.putCore_now (s : State) (k : Nat) (v : CoreSt) : (s.putCore k v).now = s.now := rfl
@[simp] theorem State.putCore_issuing (s : State) (k : Nat) (v : CoreSt) : (s.putCore k v).issuing = s.issuing := rfl
@[simp] theorem State.putCore_cur (s : State) (k : Nat) (v : CoreSt) : (s.putCore k v).cur = s.cur := rfl
@[simp] theorem State.putCore_inbox (s : State) (k : Nat) (v : CoreSt) : (s.putCore k v).inbox = s.inbox := rfl
@[simp] theorem State.putCore_nextId (s : State) (k : Nat) (v : CoreSt) : (s.putCore k v).nextId = s.nextId := rfl
@[simp] theorem State.putCore_free (s : State) (k : Nat) (v : CoreSt) : (s.putCore k v).free = s.free := rfl
@[simp] theorem State.putCore_mem (s : State) (k : Nat) (v : CoreSt) : (s.putCore k v).mem = s.mem := rfl
@[simp] theorem State.putCore_tlb (s : State) (k : Nat) (v : CoreSt) : (s.putCore k v).tlb = s.tlb := rfl
@[simp] theorem State.putCore_owner (s : State) (k : Nat) (v : CoreSt) : (s.putCore k v).owner = s.owner := rfl
@[simp] theorem State.putCore_dets (s : State) (k : Nat) (v : CoreSt) : (s.putCore k v).dets = s.dets := rfl
@[simp] theorem State.putCore_units (s : State) (k : Nat) (v : CoreSt) : (s.putCore k v).units = s.units := rfl
@[simp] theorem State.putCore_panes (s : State) (k : Nat) (v : CoreSt) : (s.putCore k v).panes = s.panes := rfl
@[simp] theorem State.putCore_cas (s : State) (k : Nat) (v : CoreSt) : (s.putCore k v).cas = s.cas := rfl
@[simp] theorem State.putCore_launches (s : State) (k : Nat) (v : CoreSt) : (s.putCore k v).launches = s.launches := rfl
@[simp] theorem State.putCore_ctxs (s : State) (k : Nat) (v : CoreSt) : (s.putCore k v).ctxs = s.ctxs := rfl
@[simp] theorem State.putCore_pend (s : State) (k : Nat) (v : CoreSt) : (s.putCore k v).pend = s.pend := rfl
@[simp] theorem State.putCore_wpart (s : State) (k : Nat) (v : CoreSt) : (s.putCore k v).wpart = s.wpart := rfl
@[simp] theorem State.putCore_dev (s : State) (k : Nat) (v : CoreSt) : (s.putCore k v).dev = s.dev := rfl
@[simp] theorem State.putCore_poison (s : State) (k : Nat) (v : CoreSt) : (s.putCore k v).poison = s.poison := rfl
@[simp] theorem State.putCore_images (s : State) (k : Nat) (v : CoreSt) : (s.putCore k v).images = s.images := rfl

/-! ## putCtx -/

@[simp] theorem State.putCtx_now (s : State) (k : Nat) (v : CtxSt) : (s.putCtx k v).now = s.now := rfl
@[simp] theorem State.putCtx_issuing (s : State) (k : Nat) (v : CtxSt) : (s.putCtx k v).issuing = s.issuing := rfl
@[simp] theorem State.putCtx_cur (s : State) (k : Nat) (v : CtxSt) : (s.putCtx k v).cur = s.cur := rfl
@[simp] theorem State.putCtx_inbox (s : State) (k : Nat) (v : CtxSt) : (s.putCtx k v).inbox = s.inbox := rfl
@[simp] theorem State.putCtx_nextId (s : State) (k : Nat) (v : CtxSt) : (s.putCtx k v).nextId = s.nextId := rfl
@[simp] theorem State.putCtx_free (s : State) (k : Nat) (v : CtxSt) : (s.putCtx k v).free = s.free := rfl
@[simp] theorem State.putCtx_mem (s : State) (k : Nat) (v : CtxSt) : (s.putCtx k v).mem = s.mem := rfl
@[simp] theorem State.putCtx_tlb (s : State) (k : Nat) (v : CtxSt) : (s.putCtx k v).tlb = s.tlb := rfl
@[simp] theorem State.putCtx_owner (s : State) (k : Nat) (v : CtxSt) : (s.putCtx k v).owner = s.owner := rfl
@[simp] theorem State.putCtx_dets (s : State) (k : Nat) (v : CtxSt) : (s.putCtx k v).dets = s.dets := rfl
@[simp] theorem State.putCtx_units (s : State) (k : Nat) (v : CtxSt) : (s.putCtx k v).units = s.units := rfl
@[simp] theorem State.putCtx_panes (s : State) (k : Nat) (v : CtxSt) : (s.putCtx k v).panes = s.panes := rfl
@[simp] theorem State.putCtx_cas (s : State) (k : Nat) (v : CtxSt) : (s.putCtx k v).cas = s.cas := rfl
@[simp] theorem State.putCtx_launches (s : State) (k : Nat) (v : CtxSt) : (s.putCtx k v).launches = s.launches := rfl
@[simp] theorem State.putCtx_cores (s : State) (k : Nat) (v : CtxSt) : (s.putCtx k v).cores = s.cores := rfl
@[simp] theorem State.putCtx_pend (s : State) (k : Nat) (v : CtxSt) : (s.putCtx k v).pend = s.pend := rfl
@[simp] theorem State.putCtx_wpart (s : State) (k : Nat) (v : CtxSt) : (s.putCtx k v).wpart = s.wpart := rfl
@[simp] theorem State.putCtx_dev (s : State) (k : Nat) (v : CtxSt) : (s.putCtx k v).dev = s.dev := rfl
@[simp] theorem State.putCtx_poison (s : State) (k : Nat) (v : CtxSt) : (s.putCtx k v).poison = s.poison := rfl
@[simp] theorem State.putCtx_images (s : State) (k : Nat) (v : CtxSt) : (s.putCtx k v).images = s.images := rfl

/-! ## putPend -/

@[simp] theorem State.putPend_now (s : State) (v : Pend) : (s.putPend v).now = s.now := rfl
@[simp] theorem State.putPend_issuing (s : State) (v : Pend) : (s.putPend v).issuing = s.issuing := rfl
@[simp] theorem State.putPend_cur (s : State) (v : Pend) : (s.putPend v).cur = s.cur := rfl
@[simp] theorem State.putPend_inbox (s : State) (v : Pend) : (s.putPend v).inbox = s.inbox := rfl
@[simp] theorem State.putPend_nextId (s : State) (v : Pend) : (s.putPend v).nextId = s.nextId := rfl
@[simp] theorem State.putPend_free (s : State) (v : Pend) : (s.putPend v).free = s.free := rfl
@[simp] theorem State.putPend_mem (s : State) (v : Pend) : (s.putPend v).mem = s.mem := rfl
@[simp] theorem State.putPend_tlb (s : State) (v : Pend) : (s.putPend v).tlb = s.tlb := rfl
@[simp] theorem State.putPend_owner (s : State) (v : Pend) : (s.putPend v).owner = s.owner := rfl
@[simp] theorem State.putPend_dets (s : State) (v : Pend) : (s.putPend v).dets = s.dets := rfl
@[simp] theorem State.putPend_units (s : State) (v : Pend) : (s.putPend v).units = s.units := rfl
@[simp] theorem State.putPend_panes (s : State) (v : Pend) : (s.putPend v).panes = s.panes := rfl
@[simp] theorem State.putPend_cas (s : State) (v : Pend) : (s.putPend v).cas = s.cas := rfl
@[simp] theorem State.putPend_launches (s : State) (v : Pend) : (s.putPend v).launches = s.launches := rfl
@[simp] theorem State.putPend_cores (s : State) (v : Pend) : (s.putPend v).cores = s.cores := rfl
@[simp] theorem State.putPend_ctxs (s : State) (v : Pend) : (s.putPend v).ctxs = s.ctxs := rfl
@[simp] theorem State.putPend_wpart (s : State) (v : Pend) : (s.putPend v).wpart = s.wpart := rfl
@[simp] theorem State.putPend_dev (s : State) (v : Pend) : (s.putPend v).dev = s.dev := rfl
@[simp] theorem State.putPend_poison (s : State) (v : Pend) : (s.putPend v).poison = s.poison := rfl
@[simp] theorem State.putPend_images (s : State) (v : Pend) : (s.putPend v).images = s.images := rfl

/-! ## dropPend -/

@[simp] theorem State.dropPend_now (s : State) (id : Nat) : (s.dropPend id).now = s.now := rfl
@[simp] theorem State.dropPend_issuing (s : State) (id : Nat) : (s.dropPend id).issuing = s.issuing := rfl
@[simp] theorem State.dropPend_cur (s : State) (id : Nat) : (s.dropPend id).cur = s.cur := rfl
@[simp] theorem State.dropPend_inbox (s : State) (id : Nat) : (s.dropPend id).inbox = s.inbox := rfl
@[simp] theorem State.dropPend_nextId (s : State) (id : Nat) : (s.dropPend id).nextId = s.nextId := rfl
@[simp] theorem State.dropPend_free (s : State) (id : Nat) : (s.dropPend id).free = s.free := rfl
@[simp] theorem State.dropPend_mem (s : State) (id : Nat) : (s.dropPend id).mem = s.mem := rfl
@[simp] theorem State.dropPend_tlb (s : State) (id : Nat) : (s.dropPend id).tlb = s.tlb := rfl
@[simp] theorem State.dropPend_owner (s : State) (id : Nat) : (s.dropPend id).owner = s.owner := rfl
@[simp] theorem State.dropPend_dets (s : State) (id : Nat) : (s.dropPend id).dets = s.dets := rfl
@[simp] theorem State.dropPend_units (s : State) (id : Nat) : (s.dropPend id).units = s.units := rfl
@[simp] theorem State.dropPend_panes (s : State) (id : Nat) : (s.dropPend id).panes = s.panes := rfl
@[simp] theorem State.dropPend_cas (s : State) (id : Nat) : (s.dropPend id).cas = s.cas := rfl
@[simp] theorem State.dropPend_launches (s : State) (id : Nat) : (s.dropPend id).launches = s.launches := rfl
@[simp] theorem State.dropPend_cores (s : State) (id : Nat) : (s.dropPend id).cores = s.cores := rfl
@[simp] theorem State.dropPend_ctxs (s : State) (id : Nat) : (s.dropPend id).ctxs = s.ctxs := rfl
@[simp] theorem State.dropPend_wpart (s : State) (id : Nat) : (s.dropPend id).wpart = s.wpart := rfl
@[simp] theorem State.dropPend_dev (s : State) (id : Nat) : (s.dropPend id).dev = s.dev := rfl
@[simp] theorem State.dropPend_poison (s : State) (id : Nat) : (s.dropPend id).poison = s.poison := rfl
@[simp] theorem State.dropPend_images (s : State) (id : Nat) : (s.dropPend id).images = s.images := rfl

/-! ## updUnit -/

@[simp] theorem State.updUnit_now (s : State) (k : Nat) (f : UnitSt → UnitSt) : (s.updUnit k f).now = s.now := by
  unfold State.updUnit; split <;> rfl
@[simp] theorem State.updUnit_issuing (s : State) (k : Nat) (f : UnitSt → UnitSt) : (s.updUnit k f).issuing = s.issuing := by
  unfold State.updUnit; split <;> rfl
@[simp] theorem State.updUnit_cur (s : State) (k : Nat) (f : UnitSt → UnitSt) : (s.updUnit k f).cur = s.cur := by
  unfold State.updUnit; split <;> rfl
@[simp] theorem State.updUnit_inbox (s : State) (k : Nat) (f : UnitSt → UnitSt) : (s.updUnit k f).inbox = s.inbox := by
  unfold State.updUnit; split <;> rfl
@[simp] theorem State.updUnit_nextId (s : State) (k : Nat) (f : UnitSt → UnitSt) : (s.updUnit k f).nextId = s.nextId := by
  unfold State.updUnit; split <;> rfl
@[simp] theorem State.updUnit_free (s : State) (k : Nat) (f : UnitSt → UnitSt) : (s.updUnit k f).free = s.free := by
  unfold State.updUnit; split <;> rfl
@[simp] theorem State.updUnit_mem (s : State) (k : Nat) (f : UnitSt → UnitSt) : (s.updUnit k f).mem = s.mem := by
  unfold State.updUnit; split <;> rfl
@[simp] theorem State.updUnit_tlb (s : State) (k : Nat) (f : UnitSt → UnitSt) : (s.updUnit k f).tlb = s.tlb := by
  unfold State.updUnit; split <;> rfl
@[simp] theorem State.updUnit_owner (s : State) (k : Nat) (f : UnitSt → UnitSt) : (s.updUnit k f).owner = s.owner := by
  unfold State.updUnit; split <;> rfl
@[simp] theorem State.updUnit_dets (s : State) (k : Nat) (f : UnitSt → UnitSt) : (s.updUnit k f).dets = s.dets := by
  unfold State.updUnit; split <;> rfl
@[simp] theorem State.updUnit_panes (s : State) (k : Nat) (f : UnitSt → UnitSt) : (s.updUnit k f).panes = s.panes := by
  unfold State.updUnit; split <;> rfl
@[simp] theorem State.updUnit_cas (s : State) (k : Nat) (f : UnitSt → UnitSt) : (s.updUnit k f).cas = s.cas := by
  unfold State.updUnit; split <;> rfl
@[simp] theorem State.updUnit_launches (s : State) (k : Nat) (f : UnitSt → UnitSt) : (s.updUnit k f).launches = s.launches := by
  unfold State.updUnit; split <;> rfl
@[simp] theorem State.updUnit_cores (s : State) (k : Nat) (f : UnitSt → UnitSt) : (s.updUnit k f).cores = s.cores := by
  unfold State.updUnit; split <;> rfl
@[simp] theorem State.updUnit_ctxs (s : State) (k : Nat) (f : UnitSt → UnitSt) : (s.updUnit k f).ctxs = s.ctxs := by
  unfold State.updUnit; split <;> rfl
@[simp] theorem State.updUnit_pend (s : State) (k : Nat) (f : UnitSt → UnitSt) : (s.updUnit k f).pend = s.pend := by
  unfold State.updUnit; split <;> rfl
@[simp] theorem State.updUnit_wpart (s : State) (k : Nat) (f : UnitSt → UnitSt) : (s.updUnit k f).wpart = s.wpart := by
  unfold State.updUnit; split <;> rfl
@[simp] theorem State.updUnit_dev (s : State) (k : Nat) (f : UnitSt → UnitSt) : (s.updUnit k f).dev = s.dev := by
  unfold State.updUnit; split <;> rfl
@[simp] theorem State.updUnit_poison (s : State) (k : Nat) (f : UnitSt → UnitSt) : (s.updUnit k f).poison = s.poison := by
  unfold State.updUnit; split <;> rfl
@[simp] theorem State.updUnit_images (s : State) (k : Nat) (f : UnitSt → UnitSt) : (s.updUnit k f).images = s.images := by
  unfold State.updUnit; split <;> rfl
@[simp] theorem State.updUnit_find_self (s : State) (k : Nat) (f : UnitSt → UnitSt) :
    (s.updUnit k f).units.find k = (s.units.find k).map f := by
  unfold State.updUnit; split <;> simp_all [State.putUnit, State.setUnits]
theorem State.updUnit_find_other (s : State) {k j : Nat} (f : UnitSt → UnitSt) (h : j ≠ k) :
    (s.updUnit k f).units.find j = s.units.find j := by
  unfold State.updUnit; split
  · simp only [State.putUnit, State.setUnits]; exact Map.find_put_other _ _ h
  · rfl

/-! ## updPane -/

@[simp] theorem State.updPane_now (s : State) (k : Nat) (f : PaneSt → PaneSt) : (s.updPane k f).now = s.now := by
  unfold State.updPane; split <;> rfl
@[simp] theorem State.updPane_issuing (s : State) (k : Nat) (f : PaneSt → PaneSt) : (s.updPane k f).issuing = s.issuing := by
  unfold State.updPane; split <;> rfl
@[simp] theorem State.updPane_cur (s : State) (k : Nat) (f : PaneSt → PaneSt) : (s.updPane k f).cur = s.cur := by
  unfold State.updPane; split <;> rfl
@[simp] theorem State.updPane_inbox (s : State) (k : Nat) (f : PaneSt → PaneSt) : (s.updPane k f).inbox = s.inbox := by
  unfold State.updPane; split <;> rfl
@[simp] theorem State.updPane_nextId (s : State) (k : Nat) (f : PaneSt → PaneSt) : (s.updPane k f).nextId = s.nextId := by
  unfold State.updPane; split <;> rfl
@[simp] theorem State.updPane_free (s : State) (k : Nat) (f : PaneSt → PaneSt) : (s.updPane k f).free = s.free := by
  unfold State.updPane; split <;> rfl
@[simp] theorem State.updPane_mem (s : State) (k : Nat) (f : PaneSt → PaneSt) : (s.updPane k f).mem = s.mem := by
  unfold State.updPane; split <;> rfl
@[simp] theorem State.updPane_tlb (s : State) (k : Nat) (f : PaneSt → PaneSt) : (s.updPane k f).tlb = s.tlb := by
  unfold State.updPane; split <;> rfl
@[simp] theorem State.updPane_owner (s : State) (k : Nat) (f : PaneSt → PaneSt) : (s.updPane k f).owner = s.owner := by
  unfold State.updPane; split <;> rfl
@[simp] theorem State.updPane_dets (s : State) (k : Nat) (f : PaneSt → PaneSt) : (s.updPane k f).dets = s.dets := by
  unfold State.updPane; split <;> rfl
@[simp] theorem State.updPane_units (s : State) (k : Nat) (f : PaneSt → PaneSt) : (s.updPane k f).units = s.units := by
  unfold State.updPane; split <;> rfl
@[simp] theorem State.updPane_cas (s : State) (k : Nat) (f : PaneSt → PaneSt) : (s.updPane k f).cas = s.cas := by
  unfold State.updPane; split <;> rfl
@[simp] theorem State.updPane_launches (s : State) (k : Nat) (f : PaneSt → PaneSt) : (s.updPane k f).launches = s.launches := by
  unfold State.updPane; split <;> rfl
@[simp] theorem State.updPane_cores (s : State) (k : Nat) (f : PaneSt → PaneSt) : (s.updPane k f).cores = s.cores := by
  unfold State.updPane; split <;> rfl
@[simp] theorem State.updPane_ctxs (s : State) (k : Nat) (f : PaneSt → PaneSt) : (s.updPane k f).ctxs = s.ctxs := by
  unfold State.updPane; split <;> rfl
@[simp] theorem State.updPane_pend (s : State) (k : Nat) (f : PaneSt → PaneSt) : (s.updPane k f).pend = s.pend := by
  unfold State.updPane; split <;> rfl
@[simp] theorem State.updPane_wpart (s : State) (k : Nat) (f : PaneSt → PaneSt) : (s.updPane k f).wpart = s.wpart := by
  unfold State.updPane; split <;> rfl
@[simp] theorem State.updPane_dev (s : State) (k : Nat) (f : PaneSt → PaneSt) : (s.updPane k f).dev = s.dev := by
  unfold State.updPane; split <;> rfl
@[simp] theorem State.updPane_poison (s : State) (k : Nat) (f : PaneSt → PaneSt) : (s.updPane k f).poison = s.poison := by
  unfold State.updPane; split <;> rfl
@[simp] theorem State.updPane_images (s : State) (k : Nat) (f : PaneSt → PaneSt) : (s.updPane k f).images = s.images := by
  unfold State.updPane; split <;> rfl
@[simp] theorem State.updPane_find_self (s : State) (k : Nat) (f : PaneSt → PaneSt) :
    (s.updPane k f).panes.find k = (s.panes.find k).map f := by
  unfold State.updPane; split <;> simp_all [State.putPane, State.setPanes]
theorem State.updPane_find_other (s : State) {k j : Nat} (f : PaneSt → PaneSt) (h : j ≠ k) :
    (s.updPane k f).panes.find j = s.panes.find j := by
  unfold State.updPane; split
  · simp only [State.putPane, State.setPanes]; exact Map.find_put_other _ _ h
  · rfl

/-! ## updCas -/

@[simp] theorem State.updCas_now (s : State) (k : Nat) (f : CasementSt → CasementSt) : (s.updCas k f).now = s.now := by
  unfold State.updCas; split <;> rfl
@[simp] theorem State.updCas_issuing (s : State) (k : Nat) (f : CasementSt → CasementSt) : (s.updCas k f).issuing = s.issuing := by
  unfold State.updCas; split <;> rfl
@[simp] theorem State.updCas_cur (s : State) (k : Nat) (f : CasementSt → CasementSt) : (s.updCas k f).cur = s.cur := by
  unfold State.updCas; split <;> rfl
@[simp] theorem State.updCas_inbox (s : State) (k : Nat) (f : CasementSt → CasementSt) : (s.updCas k f).inbox = s.inbox := by
  unfold State.updCas; split <;> rfl
@[simp] theorem State.updCas_nextId (s : State) (k : Nat) (f : CasementSt → CasementSt) : (s.updCas k f).nextId = s.nextId := by
  unfold State.updCas; split <;> rfl
@[simp] theorem State.updCas_free (s : State) (k : Nat) (f : CasementSt → CasementSt) : (s.updCas k f).free = s.free := by
  unfold State.updCas; split <;> rfl
@[simp] theorem State.updCas_mem (s : State) (k : Nat) (f : CasementSt → CasementSt) : (s.updCas k f).mem = s.mem := by
  unfold State.updCas; split <;> rfl
@[simp] theorem State.updCas_tlb (s : State) (k : Nat) (f : CasementSt → CasementSt) : (s.updCas k f).tlb = s.tlb := by
  unfold State.updCas; split <;> rfl
@[simp] theorem State.updCas_owner (s : State) (k : Nat) (f : CasementSt → CasementSt) : (s.updCas k f).owner = s.owner := by
  unfold State.updCas; split <;> rfl
@[simp] theorem State.updCas_dets (s : State) (k : Nat) (f : CasementSt → CasementSt) : (s.updCas k f).dets = s.dets := by
  unfold State.updCas; split <;> rfl
@[simp] theorem State.updCas_units (s : State) (k : Nat) (f : CasementSt → CasementSt) : (s.updCas k f).units = s.units := by
  unfold State.updCas; split <;> rfl
@[simp] theorem State.updCas_panes (s : State) (k : Nat) (f : CasementSt → CasementSt) : (s.updCas k f).panes = s.panes := by
  unfold State.updCas; split <;> rfl
@[simp] theorem State.updCas_launches (s : State) (k : Nat) (f : CasementSt → CasementSt) : (s.updCas k f).launches = s.launches := by
  unfold State.updCas; split <;> rfl
@[simp] theorem State.updCas_cores (s : State) (k : Nat) (f : CasementSt → CasementSt) : (s.updCas k f).cores = s.cores := by
  unfold State.updCas; split <;> rfl
@[simp] theorem State.updCas_ctxs (s : State) (k : Nat) (f : CasementSt → CasementSt) : (s.updCas k f).ctxs = s.ctxs := by
  unfold State.updCas; split <;> rfl
@[simp] theorem State.updCas_pend (s : State) (k : Nat) (f : CasementSt → CasementSt) : (s.updCas k f).pend = s.pend := by
  unfold State.updCas; split <;> rfl
@[simp] theorem State.updCas_wpart (s : State) (k : Nat) (f : CasementSt → CasementSt) : (s.updCas k f).wpart = s.wpart := by
  unfold State.updCas; split <;> rfl
@[simp] theorem State.updCas_dev (s : State) (k : Nat) (f : CasementSt → CasementSt) : (s.updCas k f).dev = s.dev := by
  unfold State.updCas; split <;> rfl
@[simp] theorem State.updCas_poison (s : State) (k : Nat) (f : CasementSt → CasementSt) : (s.updCas k f).poison = s.poison := by
  unfold State.updCas; split <;> rfl
@[simp] theorem State.updCas_images (s : State) (k : Nat) (f : CasementSt → CasementSt) : (s.updCas k f).images = s.images := by
  unfold State.updCas; split <;> rfl
@[simp] theorem State.updCas_find_self (s : State) (k : Nat) (f : CasementSt → CasementSt) :
    (s.updCas k f).cas.find k = (s.cas.find k).map f := by
  unfold State.updCas; split <;> simp_all [State.putCasement, State.setCas]
theorem State.updCas_find_other (s : State) {k j : Nat} (f : CasementSt → CasementSt) (h : j ≠ k) :
    (s.updCas k f).cas.find j = s.cas.find j := by
  unfold State.updCas; split
  · simp only [State.putCasement, State.setCas]; exact Map.find_put_other _ _ h
  · rfl

/-! ## updLaunch -/

@[simp] theorem State.updLaunch_now (s : State) (k : Nat) (f : LaunchSt → LaunchSt) : (s.updLaunch k f).now = s.now := by
  unfold State.updLaunch; split <;> rfl
@[simp] theorem State.updLaunch_issuing (s : State) (k : Nat) (f : LaunchSt → LaunchSt) : (s.updLaunch k f).issuing = s.issuing := by
  unfold State.updLaunch; split <;> rfl
@[simp] theorem State.updLaunch_cur (s : State) (k : Nat) (f : LaunchSt → LaunchSt) : (s.updLaunch k f).cur = s.cur := by
  unfold State.updLaunch; split <;> rfl
@[simp] theorem State.updLaunch_inbox (s : State) (k : Nat) (f : LaunchSt → LaunchSt) : (s.updLaunch k f).inbox = s.inbox := by
  unfold State.updLaunch; split <;> rfl
@[simp] theorem State.updLaunch_nextId (s : State) (k : Nat) (f : LaunchSt → LaunchSt) : (s.updLaunch k f).nextId = s.nextId := by
  unfold State.updLaunch; split <;> rfl
@[simp] theorem State.updLaunch_free (s : State) (k : Nat) (f : LaunchSt → LaunchSt) : (s.updLaunch k f).free = s.free := by
  unfold State.updLaunch; split <;> rfl
@[simp] theorem State.updLaunch_mem (s : State) (k : Nat) (f : LaunchSt → LaunchSt) : (s.updLaunch k f).mem = s.mem := by
  unfold State.updLaunch; split <;> rfl
@[simp] theorem State.updLaunch_tlb (s : State) (k : Nat) (f : LaunchSt → LaunchSt) : (s.updLaunch k f).tlb = s.tlb := by
  unfold State.updLaunch; split <;> rfl
@[simp] theorem State.updLaunch_owner (s : State) (k : Nat) (f : LaunchSt → LaunchSt) : (s.updLaunch k f).owner = s.owner := by
  unfold State.updLaunch; split <;> rfl
@[simp] theorem State.updLaunch_dets (s : State) (k : Nat) (f : LaunchSt → LaunchSt) : (s.updLaunch k f).dets = s.dets := by
  unfold State.updLaunch; split <;> rfl
@[simp] theorem State.updLaunch_units (s : State) (k : Nat) (f : LaunchSt → LaunchSt) : (s.updLaunch k f).units = s.units := by
  unfold State.updLaunch; split <;> rfl
@[simp] theorem State.updLaunch_panes (s : State) (k : Nat) (f : LaunchSt → LaunchSt) : (s.updLaunch k f).panes = s.panes := by
  unfold State.updLaunch; split <;> rfl
@[simp] theorem State.updLaunch_cas (s : State) (k : Nat) (f : LaunchSt → LaunchSt) : (s.updLaunch k f).cas = s.cas := by
  unfold State.updLaunch; split <;> rfl
@[simp] theorem State.updLaunch_cores (s : State) (k : Nat) (f : LaunchSt → LaunchSt) : (s.updLaunch k f).cores = s.cores := by
  unfold State.updLaunch; split <;> rfl
@[simp] theorem State.updLaunch_ctxs (s : State) (k : Nat) (f : LaunchSt → LaunchSt) : (s.updLaunch k f).ctxs = s.ctxs := by
  unfold State.updLaunch; split <;> rfl
@[simp] theorem State.updLaunch_pend (s : State) (k : Nat) (f : LaunchSt → LaunchSt) : (s.updLaunch k f).pend = s.pend := by
  unfold State.updLaunch; split <;> rfl
@[simp] theorem State.updLaunch_wpart (s : State) (k : Nat) (f : LaunchSt → LaunchSt) : (s.updLaunch k f).wpart = s.wpart := by
  unfold State.updLaunch; split <;> rfl
@[simp] theorem State.updLaunch_dev (s : State) (k : Nat) (f : LaunchSt → LaunchSt) : (s.updLaunch k f).dev = s.dev := by
  unfold State.updLaunch; split <;> rfl
@[simp] theorem State.updLaunch_poison (s : State) (k : Nat) (f : LaunchSt → LaunchSt) : (s.updLaunch k f).poison = s.poison := by
  unfold State.updLaunch; split <;> rfl
@[simp] theorem State.updLaunch_images (s : State) (k : Nat) (f : LaunchSt → LaunchSt) : (s.updLaunch k f).images = s.images := by
  unfold State.updLaunch; split <;> rfl
@[simp] theorem State.updLaunch_find_self (s : State) (k : Nat) (f : LaunchSt → LaunchSt) :
    (s.updLaunch k f).launches.find k = (s.launches.find k).map f := by
  unfold State.updLaunch; split <;> simp_all [State.putLaunch, State.setLaunches]
theorem State.updLaunch_find_other (s : State) {k j : Nat} (f : LaunchSt → LaunchSt) (h : j ≠ k) :
    (s.updLaunch k f).launches.find j = s.launches.find j := by
  unfold State.updLaunch; split
  · simp only [State.putLaunch, State.setLaunches]; exact Map.find_put_other _ _ h
  · rfl

/-! ## updCtx -/

@[simp] theorem State.updCtx_now (s : State) (k : Nat) (f : CtxSt → CtxSt) : (s.updCtx k f).now = s.now := by
  unfold State.updCtx; split <;> rfl
@[simp] theorem State.updCtx_issuing (s : State) (k : Nat) (f : CtxSt → CtxSt) : (s.updCtx k f).issuing = s.issuing := by
  unfold State.updCtx; split <;> rfl
@[simp] theorem State.updCtx_cur (s : State) (k : Nat) (f : CtxSt → CtxSt) : (s.updCtx k f).cur = s.cur := by
  unfold State.updCtx; split <;> rfl
@[simp] theorem State.updCtx_inbox (s : State) (k : Nat) (f : CtxSt → CtxSt) : (s.updCtx k f).inbox = s.inbox := by
  unfold State.updCtx; split <;> rfl
@[simp] theorem State.updCtx_nextId (s : State) (k : Nat) (f : CtxSt → CtxSt) : (s.updCtx k f).nextId = s.nextId := by
  unfold State.updCtx; split <;> rfl
@[simp] theorem State.updCtx_free (s : State) (k : Nat) (f : CtxSt → CtxSt) : (s.updCtx k f).free = s.free := by
  unfold State.updCtx; split <;> rfl
@[simp] theorem State.updCtx_mem (s : State) (k : Nat) (f : CtxSt → CtxSt) : (s.updCtx k f).mem = s.mem := by
  unfold State.updCtx; split <;> rfl
@[simp] theorem State.updCtx_tlb (s : State) (k : Nat) (f : CtxSt → CtxSt) : (s.updCtx k f).tlb = s.tlb := by
  unfold State.updCtx; split <;> rfl
@[simp] theorem State.updCtx_owner (s : State) (k : Nat) (f : CtxSt → CtxSt) : (s.updCtx k f).owner = s.owner := by
  unfold State.updCtx; split <;> rfl
@[simp] theorem State.updCtx_dets (s : State) (k : Nat) (f : CtxSt → CtxSt) : (s.updCtx k f).dets = s.dets := by
  unfold State.updCtx; split <;> rfl
@[simp] theorem State.updCtx_units (s : State) (k : Nat) (f : CtxSt → CtxSt) : (s.updCtx k f).units = s.units := by
  unfold State.updCtx; split <;> rfl
@[simp] theorem State.updCtx_panes (s : State) (k : Nat) (f : CtxSt → CtxSt) : (s.updCtx k f).panes = s.panes := by
  unfold State.updCtx; split <;> rfl
@[simp] theorem State.updCtx_cas (s : State) (k : Nat) (f : CtxSt → CtxSt) : (s.updCtx k f).cas = s.cas := by
  unfold State.updCtx; split <;> rfl
@[simp] theorem State.updCtx_launches (s : State) (k : Nat) (f : CtxSt → CtxSt) : (s.updCtx k f).launches = s.launches := by
  unfold State.updCtx; split <;> rfl
@[simp] theorem State.updCtx_cores (s : State) (k : Nat) (f : CtxSt → CtxSt) : (s.updCtx k f).cores = s.cores := by
  unfold State.updCtx; split <;> rfl
@[simp] theorem State.updCtx_pend (s : State) (k : Nat) (f : CtxSt → CtxSt) : (s.updCtx k f).pend = s.pend := by
  unfold State.updCtx; split <;> rfl
@[simp] theorem State.updCtx_wpart (s : State) (k : Nat) (f : CtxSt → CtxSt) : (s.updCtx k f).wpart = s.wpart := by
  unfold State.updCtx; split <;> rfl
@[simp] theorem State.updCtx_dev (s : State) (k : Nat) (f : CtxSt → CtxSt) : (s.updCtx k f).dev = s.dev := by
  unfold State.updCtx; split <;> rfl
@[simp] theorem State.updCtx_poison (s : State) (k : Nat) (f : CtxSt → CtxSt) : (s.updCtx k f).poison = s.poison := by
  unfold State.updCtx; split <;> rfl
@[simp] theorem State.updCtx_images (s : State) (k : Nat) (f : CtxSt → CtxSt) : (s.updCtx k f).images = s.images := by
  unfold State.updCtx; split <;> rfl
@[simp] theorem State.updCtx_find_self (s : State) (k : Nat) (f : CtxSt → CtxSt) :
    (s.updCtx k f).ctxs.find k = (s.ctxs.find k).map f := by
  unfold State.updCtx; split <;> simp_all [State.putCtx, State.setCtxs]
theorem State.updCtx_find_other (s : State) {k j : Nat} (f : CtxSt → CtxSt) (h : j ≠ k) :
    (s.updCtx k f).ctxs.find j = s.ctxs.find j := by
  unfold State.updCtx; split
  · simp only [State.putCtx, State.setCtxs]; exact Map.find_put_other _ _ h
  · rfl

/-! ## updCore and updDev -/

@[simp] theorem State.updCore_now (s : State) (k : Nat) (f : CoreSt → CoreSt) : (s.updCore k f).now = s.now := rfl
@[simp] theorem State.updDev_now (s : State) (f : DevSt → DevSt) : (s.updDev f).now = s.now := rfl
@[simp] theorem State.updCore_issuing (s : State) (k : Nat) (f : CoreSt → CoreSt) : (s.updCore k f).issuing = s.issuing := rfl
@[simp] theorem State.updDev_issuing (s : State) (f : DevSt → DevSt) : (s.updDev f).issuing = s.issuing := rfl
@[simp] theorem State.updCore_cur (s : State) (k : Nat) (f : CoreSt → CoreSt) : (s.updCore k f).cur = s.cur := rfl
@[simp] theorem State.updDev_cur (s : State) (f : DevSt → DevSt) : (s.updDev f).cur = s.cur := rfl
@[simp] theorem State.updCore_inbox (s : State) (k : Nat) (f : CoreSt → CoreSt) : (s.updCore k f).inbox = s.inbox := rfl
@[simp] theorem State.updDev_inbox (s : State) (f : DevSt → DevSt) : (s.updDev f).inbox = s.inbox := rfl
@[simp] theorem State.updCore_nextId (s : State) (k : Nat) (f : CoreSt → CoreSt) : (s.updCore k f).nextId = s.nextId := rfl
@[simp] theorem State.updDev_nextId (s : State) (f : DevSt → DevSt) : (s.updDev f).nextId = s.nextId := rfl
@[simp] theorem State.updCore_free (s : State) (k : Nat) (f : CoreSt → CoreSt) : (s.updCore k f).free = s.free := rfl
@[simp] theorem State.updDev_free (s : State) (f : DevSt → DevSt) : (s.updDev f).free = s.free := rfl
@[simp] theorem State.updCore_mem (s : State) (k : Nat) (f : CoreSt → CoreSt) : (s.updCore k f).mem = s.mem := rfl
@[simp] theorem State.updDev_mem (s : State) (f : DevSt → DevSt) : (s.updDev f).mem = s.mem := rfl
@[simp] theorem State.updCore_tlb (s : State) (k : Nat) (f : CoreSt → CoreSt) : (s.updCore k f).tlb = s.tlb := rfl
@[simp] theorem State.updDev_tlb (s : State) (f : DevSt → DevSt) : (s.updDev f).tlb = s.tlb := rfl
@[simp] theorem State.updCore_owner (s : State) (k : Nat) (f : CoreSt → CoreSt) : (s.updCore k f).owner = s.owner := rfl
@[simp] theorem State.updDev_owner (s : State) (f : DevSt → DevSt) : (s.updDev f).owner = s.owner := rfl
@[simp] theorem State.updCore_dets (s : State) (k : Nat) (f : CoreSt → CoreSt) : (s.updCore k f).dets = s.dets := rfl
@[simp] theorem State.updDev_dets (s : State) (f : DevSt → DevSt) : (s.updDev f).dets = s.dets := rfl
@[simp] theorem State.updCore_units (s : State) (k : Nat) (f : CoreSt → CoreSt) : (s.updCore k f).units = s.units := rfl
@[simp] theorem State.updDev_units (s : State) (f : DevSt → DevSt) : (s.updDev f).units = s.units := rfl
@[simp] theorem State.updCore_panes (s : State) (k : Nat) (f : CoreSt → CoreSt) : (s.updCore k f).panes = s.panes := rfl
@[simp] theorem State.updDev_panes (s : State) (f : DevSt → DevSt) : (s.updDev f).panes = s.panes := rfl
@[simp] theorem State.updCore_cas (s : State) (k : Nat) (f : CoreSt → CoreSt) : (s.updCore k f).cas = s.cas := rfl
@[simp] theorem State.updDev_cas (s : State) (f : DevSt → DevSt) : (s.updDev f).cas = s.cas := rfl
@[simp] theorem State.updCore_launches (s : State) (k : Nat) (f : CoreSt → CoreSt) : (s.updCore k f).launches = s.launches := rfl
@[simp] theorem State.updDev_launches (s : State) (f : DevSt → DevSt) : (s.updDev f).launches = s.launches := rfl
@[simp] theorem State.updDev_cores (s : State) (f : DevSt → DevSt) : (s.updDev f).cores = s.cores := rfl
@[simp] theorem State.updCore_ctxs (s : State) (k : Nat) (f : CoreSt → CoreSt) : (s.updCore k f).ctxs = s.ctxs := rfl
@[simp] theorem State.updDev_ctxs (s : State) (f : DevSt → DevSt) : (s.updDev f).ctxs = s.ctxs := rfl
@[simp] theorem State.updCore_pend (s : State) (k : Nat) (f : CoreSt → CoreSt) : (s.updCore k f).pend = s.pend := rfl
@[simp] theorem State.updDev_pend (s : State) (f : DevSt → DevSt) : (s.updDev f).pend = s.pend := rfl
@[simp] theorem State.updCore_wpart (s : State) (k : Nat) (f : CoreSt → CoreSt) : (s.updCore k f).wpart = s.wpart := rfl
@[simp] theorem State.updDev_wpart (s : State) (f : DevSt → DevSt) : (s.updDev f).wpart = s.wpart := rfl
@[simp] theorem State.updCore_dev (s : State) (k : Nat) (f : CoreSt → CoreSt) : (s.updCore k f).dev = s.dev := rfl
@[simp] theorem State.updCore_poison (s : State) (k : Nat) (f : CoreSt → CoreSt) : (s.updCore k f).poison = s.poison := rfl
@[simp] theorem State.updDev_poison (s : State) (f : DevSt → DevSt) : (s.updDev f).poison = s.poison := rfl
@[simp] theorem State.updCore_images (s : State) (k : Nat) (f : CoreSt → CoreSt) : (s.updCore k f).images = s.images := rfl
@[simp] theorem State.updDev_images (s : State) (f : DevSt → DevSt) : (s.updDev f).images = s.images := rfl
@[simp] theorem State.updCore_core (s : State) (k : Nat) (f : CoreSt → CoreSt) : (s.updCore k f).core k = f (s.core k) := by
  simp [State.updCore, State.putCore, State.core, Map.getD]
theorem State.updCore_core_other (s : State) {k j : Nat} (f : CoreSt → CoreSt) (h : j ≠ k) : (s.updCore k f).core j = s.core j := by
  simp [State.updCore, State.putCore, State.core, Map.getD, Map.find_put_other _ _ h]
@[simp] theorem State.updDev_dev (s : State) (f : DevSt → DevSt) : (s.updDev f).dev = f s.dev := rfl

end Sys2Proof.Machine
end

