-- ==== Sys2Proof/Laws/Issue.lean ====
section
/-! SUPPORT. What the frame of an issuing instruction does, said once: the common causes, the act, its end. -/

namespace Sys2Proof.Machine

/-- None of the common causes holds for an instruction that issues with its own effect. -/
theorem Issues.no_common {i : Instr} {e : Early} {s : State} {v : View} (h : Issues i e s v) : commonTrap v i e = none := by
  have hE : ¬(v.E = 0 ∧ (!actsEmpty i) = true ∧ (!needsFull i) = true ∧ (!e.full) = true) := by
    rintro ⟨h0, h1, -⟩
    rcases h.active with ha | ha
    · exact ha h0
    · simp [ha] at h1
  have hm : (if v.u.sup = true then none else privIndex i) = none := by
    rcases h.mode with hm | hm <;> simp [hm]
  unfold commonTrap
  simp only [h.legal, h.legalHere]
  rw [if_neg (by simpa using hE)]
  simp only [hm, h.declared, h.rank4, h.covered]
  rw [if_neg]
  intro hf
  rw [Bool.and_eq_true] at hf
  have := h.full hf.1
  simp [this] at hf

/-- An instruction that issues with its own effect is its meaning's act. -/
theorem Issues.perform {i : Instr} {e : View → Early} {s : State} {v : View} {body : View → Act} (h : Issues i (e v) s v) :
    perform i e body v = body v := by
  unfold Machine.perform
  rw [h.no_common]
  have hE : ¬(v.E = 0 ∧ (!actsEmpty i) = true) := by
    rintro ⟨h0, h1⟩
    rcases h.active with ha | ha
    · exact ha h0
    · simp [ha] at h1
  simp only [if_neg hE, withPoison, h.clean]

/-- THE FRAME: what an instruction that issues with its own effect answers. -/
theorem Issues.issueWith {i : Instr} {e : View → Early} {s : State} {v : View} {body : View → Act} (h : Issues i (e v) s v) :
    issueWith i e body s = .next (commit v (1 + i.extraWords) (body v)) := by
  unfold Machine.issueWith
  rw [h.chosen]
  simp only [h.quiet, h.perform]

/-- The same without causes of its own. -/
theorem Issues.issue {i : Instr} {s : State} {v : View} {body : View → Act} (h : Issues i {} s v) :
    issue i body s = .next (commit v (1 + i.extraWords) (body v)) :=
  Issues.issueWith (e := fun _ => {}) h

/-- What a view says of its state. -/
theorem view_facts {s : State} {v : View} (h : s.view = some v) :
    v.s = s ∧ s.cur = some v.uid ∧ s.units.find v.uid = some v.u ∧ v.pid = v.u.pane ∧ s.panes.find v.pid = some v.p ∧
      v.cid = v.p.cas ∧ s.cas.find v.cid = some v.ca ∧ s.launches.find v.ca.lid = some v.l := by
  unfold State.view at h
  split at h
  · exact absurd h (by simp)
  split at h
  · exact absurd h (by simp)
  split at h
  · exact absurd h (by simp)
  split at h
  · exact absurd h (by simp)
  split at h
  · exact absurd h (by simp)
  rename_i h1 _ _ h2 _ _ h3 _ _ h4 _ _ h5
  cases h
  exact ⟨rfl, h1, h2, rfl, h3, rfl, h4, h5⟩

end Sys2Proof.Machine
end

