-- ==== Sys2Proof/Laws/Frame.lean ====
section
/-! SUPPORT. Every instruction that has a word issues through the one frame, with the causes of its own rules. -/

namespace Sys2Proof.Machine

/-- EVERY INSTRUCTION ISSUES: what `exec` does is the frame around the instruction's own act. -/
theorem exec_issues (i : Instr) (h : i.hasWord = true) : ∃ body, ∀ s, exec i s = issueWith i (earlyOf i) body s := by
  cases i <;> first
    | exact absurd h Bool.false_ne_true
    | exact ⟨_, fun s => rfl⟩

end Sys2Proof.Machine
end

