-- ==== Sys2Proof/Laws/Values.lean ====
section
/-! SUPPORT. What packed elements, wrapping, counting bits and bit fields answer. -/

namespace Sys2Proof.Machine

theorem packSubs_lt (w : Nat) (xs : List Nat) : packSubs w xs < 2 ^ (w * xs.length) := by
  induction xs with
  | nil => simp [packSubs]
  | cons x r ih =>
    simp only [packSubs, List.length_cons, Nat.mul_add, Nat.mul_one, Nat.pow_add]
    have h1 : x % 2 ^ w < 2 ^ w := Nat.mod_lt _ (Nat.two_pow_pos w)
    have : 2 ^ w * packSubs w r + 2 ^ w ≤ 2 ^ w * 2 ^ (w * r.length) := by
      rw [← Nat.mul_succ]; exact Nat.mul_le_mul_left _ ih
    rw [Nat.mul_comm (2 ^ (w * r.length))]
    omega

theorem packSubs_get (w : Nat) (xs : List Nat) (e : Nat) : packSubs w xs / 2 ^ (w * e) % 2 ^ w = (xs.getD e 0) % 2 ^ w := by
  induction xs generalizing e with
  | nil => simp [packSubs]
  | cons x r ih =>
    cases e with
    | zero => simp [packSubs, Nat.add_mul_mod_self_left]
    | succ e =>
      simp only [packSubs, Nat.mul_add, Nat.mul_one]
      rw [Nat.add_comm, Nat.pow_add, Nat.mul_comm (2 ^ (w * e)), ← Nat.div_div_eq_div_mul, Nat.add_comm,
        Nat.add_mul_div_left _ _ (Nat.two_pow_pos w), Nat.div_eq_of_lt (Nat.mod_lt _ (Nat.two_pow_pos w)), Nat.zero_add, ih]
      simp

/-- An element of joined sub-elements. -/theorem sub_pack (w : Nat) (xs : List Nat) (e : Nat) (h : w * xs.length ≤ 64) :
    sub w e (w64 (packSubs w xs)) = (xs.getD e 0) % 2 ^ w := by
  have hl : packSubs w xs < 2 ^ 64 := lt_of_lt_of_le (packSubs_lt w xs) (Nat.pow_le_pow_right (by decide) h)
  simp only [sub, bits, BitVec.toNat_ofNat, Nat.mod_eq_of_lt hl]
  exact packSubs_get w xs e

theorem sub_packed {w : Nat} {f : Nat → Nat} {e : Nat} (he : e < 64 / w) :
    sub w e (w64 (packSubs w ((List.range (64 / w)).map f))) = f e % 2 ^ w := by
  rw [sub_pack]
  · rw [List.getD_eq_getElem?_getD]
    simp [he]
  · simp only [List.length_map, List.length_range]; exact Nat.mul_div_le 64 w

theorem sub_packed2 {w : Nat} {f : Nat → Nat → Nat} {a b : Word} {e : Nat} (he : e < 64 / w) :
    sub w e (packed2 w f a b) = f (sub w e a) (sub w e b) % 2 ^ w := sub_packed he

theorem sub_packed1 {w : Nat} {f : Nat → Nat} {a : Word} {e : Nat} (he : e < 64 / w) :
    sub w e (packed1 w f a) = f (sub w e a) % 2 ^ w := sub_packed he

theorem sub_packed3 {w : Nat} {f : Nat → Nat → Nat → Nat} {a b c : Word} {e : Nat} (he : e < 64 / w) :
    sub w e (packed3 w f a b c) = f (sub w e a) (sub w e b) (sub w e c) % 2 ^ w := sub_packed he

theorem sub_lt (w e : Nat) (x : Word) : sub w e x < 2 ^ w := Nat.mod_lt _ (Nat.two_pow_pos w)

theorem wrap_lt (n : Nat) (v : Int) : wrap n v < 2 ^ n := by
  unfold wrap
  have := Int.emod_lt_of_pos v (show (0:Int) < 2 ^ n by positivity)
  have h0 := Int.emod_nonneg v (show (2:Int) ^ n ≠ 0 by positivity)
  zify
  rw [Int.toNat_of_nonneg h0]
  exact_mod_cast this

theorem wrap_mod (n : Nat) (v : Int) : wrap n v % 2 ^ n = wrap n v := Nat.mod_eq_of_lt (wrap_lt n v)

theorem wrap_nat (n m : Nat) : wrap n (m : Int) = m % 2 ^ n := by
  unfold wrap
  have : ((m : Int) % (2:Int) ^ n) = ((m % 2 ^ n : Nat) : Int) := by push_cast; rfl
  rw [this]; rfl

theorem wrap_congr {n : Nat} {a b : Int} (h : a % 2 ^ n = b % 2 ^ n) : wrap n a = wrap n b := by unfold wrap; rw [h]

theorem signed_mod (n x : Nat) : signed n x % 2 ^ n = (x : Int) % 2 ^ n := by
  unfold signed
  simp only
  split <;> simp

theorem xor_lt' {x y n : Nat} (hx : x < 2 ^ n) (hy : y < 2 ^ n) : x ^^^ y < 2 ^ n := Nat.xor_lt_two_pow hx hy

theorem signed_inj {W x y : Nat} (hx : x < 2 ^ W) (hy : y < 2 ^ W) (h : signed W x = signed W y) : x = y := by
  have := signed_mod W x
  have h2 := signed_mod W y
  rw [h, h2] at this
  rw [Int.emod_eq_of_lt (by positivity) (by exact_mod_cast hy), Int.emod_eq_of_lt (by positivity) (by exact_mod_cast hx)] at this
  exact_mod_cast this.symm

theorem clz_spec (W x : Nat) (hx : x < 2 ^ W) : clz W x ≤ W ∧ x < 2 ^ (W - clz W x) ∧ (clz W x < W → 2 ^ (W - clz W x - 1) ≤ x) := by
  induction W with
  | zero => simp [clz]; omega
  | succ W ih =>
    have hb : bits x W 1 = if 2 ^ W ≤ x then 1 else 0 := by
      simp only [bits, pow_one]
      have : x / 2 ^ W < 2 := by rw [Nat.div_lt_iff_lt_mul (Nat.two_pow_pos _)]; rw [pow_succ] at hx; omega
      split
      · have : 1 ≤ x / 2 ^ W := by rw [Nat.le_div_iff_mul_le (Nat.two_pow_pos _)]; omega
        omega
      · rw [Nat.div_eq_of_lt (by omega)]
    simp only [clz, hb]
    by_cases h : 2 ^ W ≤ x
    · simp [h]; exact hx
    · have := ih (by omega)
      simp only [h, if_false]
      refine ⟨by simp; omega, ?_, ?_⟩
      · simp only [Nat.zero_ne_one, if_false]; rw [show W + 1 - (1 + clz W x) = W - clz W x by omega]; exact this.2.1
      · simp only [Nat.zero_ne_one, if_false]; intro h2; rw [show W + 1 - (1 + clz W x) = W - clz W x by omega]; exact this.2.2 (by omega)

theorem bits_one (x k : Nat) : bits x k 1 = (x.testBit k).toNat := by
  simp [bits, Nat.testBit_eq_decide_div_mod_eq]
  rcases Nat.mod_two_eq_zero_or_one (x / 2 ^ k) with h | h <;> simp [h]

theorem popc_spec (W x : Nat) : popc W x = ((List.range W).filter fun k => x.testBit k).length := by
  induction W with
  | zero => rfl
  | succ W ih =>
    simp only [popc, List.range_succ, List.filter_append, List.length_append, ih, bits_one]
    cases h : x.testBit W <;> simp [h]; omega

theorem brev_lt (W x : Nat) : brev W x < 2 ^ W := by
  induction W with
  | zero => simp [brev]
  | succ W ih =>
    simp only [brev, bits_one, pow_succ]
    cases x.testBit W <;> simp <;> omega

theorem brev_spec (W x k : Nat) (hk : k < W) : (brev W x).testBit k = x.testBit (W - 1 - k) := by
  induction W generalizing k with
  | zero => omega
  | succ W ih =>
    simp only [brev, bits_one]
    cases k with
    | zero => cases h : x.testBit W <;> simp [Nat.testBit_zero, h, Nat.add_mod]
    | succ k =>
      rw [Nat.testBit_succ, show ((x.testBit W).toNat + 2 * brev W x) / 2 = brev W x by cases x.testBit W <;> simp <;> omega,
        ih k (by omega)]
      congr 1; omega

theorem popc_le (W x : Nat) : popc W x ≤ W := by
  rw [popc_spec]; exact (List.length_filter_le _ _).trans (by simp)

theorem le_mod_ibits (w : IWidth) {n : Nat} (h : n ≤ ibits w) : n % 2 ^ ibits w = n := by
  apply Nat.mod_eq_of_lt
  have : ibits w < 2 ^ ibits w := Nat.lt_two_pow_self
  omega

theorem w64_bit (n k : Nat) (hk : k < 64) : (w64 n).getLsbD k = n.testBit k := by
  rw [BitVec.getLsbD_ofNat]; simp [hk]

theorem bits_bit (n P L k : Nat) : (bits n P L).testBit k = (decide (k < L) && n.testBit (P + k)) := by
  simp [bits, Nat.testBit_mod_two_pow, Nat.testBit_div_two_pow, Nat.add_comm]

theorem fieldOf_eq (y : Word) : fieldOf y = (y.toNat % 64, min (y.toNat / 256 % 128) (64 - y.toNat % 64)) := by
  simp [fieldOf, bits]

theorem int_mod_testBit (n : Nat) (hn : n ≤ 64) (b k : Nat) (hb : b < 2 ^ n) (h0 : 0 < n) (hk : k < 64) :
    (wrap 64 (signed n b)).testBit k = b.testBit (min k (n - 1)) := by
  have hs : signed n b = (BitVec.ofNat n b).toInt := by
    rw [BitVec.toInt_eq_toNat_cond]; simp [signed, Nat.mod_eq_of_lt hb]
  have hw : wrap 64 (signed n b) = ((BitVec.ofNat n b).signExtend 64).toNat := by
    rw [hs]; simp [wrap, BitVec.signExtend, BitVec.toNat_ofInt]
  rw [hw, BitVec.testBit_toNat, BitVec.getLsbD_signExtend]
  simp only [hk, decide_true, Bool.true_and]
  split
  · rename_i h; rw [show min k (n - 1) = k by omega, BitVec.getLsbD_ofNat]; simp [h]
  · rename_i h; rw [show min k (n - 1) = n - 1 by omega, BitVec.msb_eq_getLsbD_last, BitVec.getLsbD_ofNat]; simp [h0]

theorem fieldS_bit (x : Word) (P L k : Nat) (hL64 : L ≤ 64) (hk : k < 64) :
    BitVec.getLsbD (if L = 0 then (0 : Word) else w64 (wrap 64 (signed L (bits x.toNat P L)))) k =
      (decide (L ≠ 0) && x.getLsbD (P + min k (L - 1))) := by
  split
  · simp [*]
  · rename_i h0
    rw [w64_bit _ _ hk, int_mod_testBit L hL64 _ k (Nat.mod_lt _ (Nat.two_pow_pos _)) (by omega) hk, bits_bit]
    have : min k (L - 1) < L := by omega
    simp only [this, ne_eq, h0, not_false_eq_true, decide_true, Bool.true_and]; rfl

theorem fieldI_bit (x z : Word) (P L k : Nat) (hk : k < 64) :
    (w64 (z.toNat / 2 ^ (P + L) * 2 ^ (P + L) + bits x.toNat 0 L * 2 ^ P + z.toNat % 2 ^ P)).getLsbD k =
      if P ≤ k ∧ k < P + L then x.getLsbD (k - P) else z.getLsbD k := by
  rw [w64_bit _ _ hk]
  have e1 : z.toNat / 2 ^ (P + L) * 2 ^ (P + L) + bits x.toNat 0 L * 2 ^ P + z.toNat % 2 ^ P =
    2 ^ P * (2 ^ L * (z.toNat / 2 ^ (P + L)) + bits x.toNat 0 L) + z.toNat % 2 ^ P := by rw [pow_add]; ring
  rw [e1, Nat.testBit_two_pow_mul_add _ (Nat.mod_lt _ (Nat.two_pow_pos _))]
  split
  · rename_i h; rw [Nat.testBit_mod_two_pow, if_neg (by omega)]; simp only [h, decide_true, Bool.true_and]; rfl
  · rename_i h
    rw [Nat.testBit_two_pow_mul_add _ (Nat.mod_lt _ (Nat.two_pow_pos _))]
    split
    · rename_i h2; rw [bits_bit, if_pos (by omega), Nat.zero_add]; simp only [h2, decide_true, Bool.true_and]; rfl
    · rw [if_neg (by omega), Nat.testBit_div_two_pow, show k - P - L + (P + L) = k by omega]; rfl

theorem wrap_signed_id (x : Int) (h1 : -(2 ^ 63) ≤ x) (h2 : x < 2 ^ 63) : (w64 (wrap 64 x)).toInt = x := by
  have : w64 (wrap 64 x) = BitVec.ofInt 64 x := by
    apply BitVec.eq_of_toNat_eq
    simp [w64, wrap, BitVec.toNat_ofInt]
    omega
  rw [this, BitVec.toInt_ofInt]
  simp [Int.bmod]
  omega

theorem wle (t : FType) : fbits t * (64 / fbits t) ≤ 64 := Nat.mul_div_le _ _

theorem wler (t : RType) : rbits t * (64 / rbits t) ≤ 64 := Nat.mul_div_le _ _

theorem signBit_eq (t : FType) : (Fmt.ofType t).signBit = 2 ^ (fbits t - 1) := by cases t <;> rfl

end Sys2Proof.Machine
end

