-- ==== Sys2Proof/Laws/Masks.lean ====
section
/-! SUPPORT. Bits of masks, of flags, and the order of lanes. -/

namespace Sys2Proof.Machine

theorem bitAt_one (k q : Nat) : bitAt (BitVec.ofNat 256 (2 ^ k)) q = (decide (q < 256) && decide (q = k)) := by
  unfold bitAt; rw [BitVec.getLsbD_ofNat, Nat.testBit_two_pow]; simp [eq_comm]

theorem bitAt_or (a b : Mask) (q : Nat) : bitAt (a ||| b) q = (bitAt a q || bitAt b q) := by simp [bitAt]

theorem bitAt_and (a b : Mask) (q : Nat) : bitAt (a &&& b) q = (bitAt a q && bitAt b q) := by simp [bitAt]

theorem bitAt_zero (q : Nat) : bitAt 0 q = false := by simp [bitAt]

theorem bitAt_lt {m : Mask} {q : Nat} (h : bitAt m q = true) : q < 256 := by
  by_contra hq
  simp [bitAt, BitVec.getLsbD_of_ge _ _ (Nat.le_of_not_lt hq)] at h

theorem bitAt_foldl_or (qs : List Mask) (m : Mask) (q : Nat) :
    bitAt (qs.foldl (· ||| ·) m) q = true ↔ bitAt m q = true ∨ ∃ x ∈ qs, bitAt x q = true := by
  induction qs generalizing m with
  | nil => simp
  | cons x r ih =>
    rw [List.foldl_cons, ih, bitAt_or]
    simp only [Bool.or_eq_true, List.mem_cons, exists_eq_or_imp, or_assoc]

theorem bitAt_maskOf (qs : List Nat) (q : Nat) : bitAt (maskOf qs) q = true ↔ q ∈ qs ∧ q < 256 := by
  have : maskOf qs = (qs.map fun k => BitVec.ofNat 256 (2 ^ k)).foldl (· ||| ·) 0 := by
    unfold maskOf; rw [List.foldl_map]
  rw [this, bitAt_foldl_or]
  simp only [bitAt_zero, Bool.false_eq_true, false_or, List.mem_map, exists_exists_and_eq_and, bitAt_one]
  constructor
  · rintro ⟨x, hx, h⟩; simp at h; exact ⟨h.2 ▸ hx, h.1⟩
  · rintro ⟨h, hl⟩; exact ⟨q, h, by simp [hl]⟩

theorem bitAt_unionMask (qs : List Mask) (q : Nat) : bitAt (unionMask qs) q = true ↔ ∃ x ∈ qs, bitAt x q = true := by
  unfold unionMask; rw [bitAt_foldl_or]; simp [bitAt_zero]

theorem mem_positions {E : Mask} {q : Nat} : q ∈ positions E ↔ bitAt E q = true := by
  unfold positions positionsBelow
  simp only [List.mem_filter, List.mem_range]
  exact ⟨fun h => h.2, fun h => ⟨bitAt_lt h, h⟩⟩

/-- the bits of setBits -/theorem setBits_bit {E : Mask} {f : Nat → Bool} {q : Nat} (h : bitAt E q = true) :
    bitAt (maskOf ((positions E).filter f)) q = f q := by
  have := bitAt_maskOf ((positions E).filter f) q
  rw [List.mem_filter, mem_positions] at this
  cases hf : f q
  · cases hb : bitAt (maskOf ((positions E).filter f)) q
    · rfl
    · simp [hf] at this; rw [hb] at this; exact this
  · exact this.2 ⟨⟨h, hf⟩, bitAt_lt h⟩

theorem allFlags_bit (rs : List SlotRes) (k : Nat) : (allFlags rs).testBit k = true ↔ ∃ r ∈ rs, r.flags.testBit k = true := by
  have : ∀ a : Nat, (rs.foldl (fun a (r : SlotRes) => a ||| r.flags) a).testBit k = true ↔ a.testBit k = true ∨ ∃ r ∈ rs, r.flags.testBit k = true := by
    induction rs with
    | nil => simp
    | cons x r ih => intro a; rw [List.foldl_cons, ih]; simp [or_assoc]
  unfold allFlags; rw [this]; simp

theorem and_ne_zero_iff (a b : Nat) : a &&& b ≠ 0 ↔ ∃ k, a.testBit k = true ∧ b.testBit k = true := by
  constructor
  · intro h
    obtain ⟨k, hk⟩ := Nat.exists_testBit_of_ne_zero h
    exact ⟨k, by simpa using hk⟩
  · rintro ⟨k, h1, h2⟩ h0
    have := Nat.testBit_and a b k
    rw [h0, h1, h2] at this
    simp at this

theorem flag_any {α : Type} (l : List α) (g : α → Bool) (P : α → Prop) (hg : ∀ q ∈ l, g q = true ↔ P q) (c : Nat) :
    (if l.any g then c else 0) = c ∧ (∃ q ∈ l, P q) ∨ (if l.any g then c else 0) = 0 ∧ ¬∃ q ∈ l, P q := by
  by_cases h : l.any g = true
  · left; rw [if_pos h]; obtain ⟨q, h1, h2⟩ := List.any_eq_true.1 h; exact ⟨rfl, q, h1, (hg q h1).1 h2⟩
  · right; rw [if_neg h]; refine ⟨rfl, ?_⟩; rintro ⟨q, h1, h2⟩; exact h (List.any_eq_true.2 ⟨q, h1, (hg q h1).2 h2⟩)

theorem foldl_flags_bit (rs : List FRes) (k : Nat) : (rs.foldl (fun (a : Nat) (r : FRes) => a ||| r.flags) 0).testBit k = true ↔ ∃ r ∈ rs, r.flags.testBit k = true := by
  have : ∀ a : Nat, (rs.foldl (fun (a : Nat) (r : FRes) => a ||| r.flags) a).testBit k = true ↔ a.testBit k = true ∨ ∃ r ∈ rs, r.flags.testBit k = true := by
    induction rs with
    | nil => simp
    | cons x r ih => intro a; rw [List.foldl_cons, ih]; simp [or_assoc]
  rw [this]; simp

theorem slotMask_bit {v : View} {c : Cls} {q p : Nat} (hq : q ∈ slotsOf c v.E) :
    bitAt (slotMask c v.E q) p = true ↔ bitAt v.E p = true ∧ q = slotAt c p := by
  cases c with
  | vec =>
    simp only [slotMask, slotAt, bitAt_and, Bool.and_eq_true, bitAt_maskOf, List.mem_singleton]
    constructor
    · rintro ⟨⟨h1, h2⟩, h3⟩; exact ⟨h3, h1.symm⟩
    · rintro ⟨h1, h2⟩; exact ⟨⟨h2.symm, bitAt_lt h1⟩, h1⟩
  | shr =>
    simp only [slotMask, slotAt, bitAt_and, Bool.and_eq_true, bitAt_maskOf, List.mem_map, List.mem_range, posOf]
    have : q < 32 := by simp [slotsOf] at hq; exact hq.1
    constructor
    · rintro ⟨⟨⟨m, hm, rfl⟩, h2⟩, h3⟩; exact ⟨h3, by omega⟩
    · rintro ⟨h1, h2⟩; exact ⟨⟨⟨p / 32, by have := bitAt_lt h1; omega, by omega⟩, bitAt_lt h1⟩, h1⟩
  | sca =>
    simp only [slotMask, slotAt]
    have : q = 0 := by simp [slotsOf] at hq; exact hq.2
    simp [this]

theorem slotAt_mem {c : Cls} {E : Mask} {p : Nat} (h : bitAt E p = true) : slotAt c p ∈ slotsOf c E := by
  cases c with
  | vec => exact mem_positions.2 h
  | shr =>
    simp only [slotAt, slotsOf, List.mem_filter, List.mem_range, List.any_eq_true]
    refine ⟨by omega, p / 32, by have := bitAt_lt h; omega, ?_⟩
    rw [show posOf (p % 32) (p / 32) = p by simp [posOf]; omega]; exact h
  | sca =>
    simp only [slotAt, slotsOf]
    split
    · rename_i h0; rw [h0, bitAt_zero] at h; exact absurd h Bool.false_ne_true
    · simp

theorem mask_ne_zero {m : Mask} : m ≠ 0 ↔ ∃ q, bitAt m q = true := by
  constructor
  · intro h
    by_contra hn
    apply h
    apply BitVec.eq_of_getLsbD_eq
    intro k hk
    have : ¬ bitAt m k = true := fun hk' => hn ⟨k, hk'⟩
    simpa [bitAt] using this
  · rintro ⟨q, hq⟩ rfl
    simp [bitAt] at hq

theorem mem_laneOrder {E : Mask} {q : Nat} : q ∈ laneOrder E ↔ bitAt E q = true := by
  unfold laneOrder
  rw [List.mem_filter]
  refine ⟨fun h => h.2, fun h => ⟨?_, h⟩⟩
  rw [List.mem_flatMap]
  have := bitAt_lt h
  exact ⟨q % 32, by simp; omega, by rw [List.mem_map]; exact ⟨q / 32, by simp; omega, by simp [posOf]; omega⟩⟩

theorem laneOrder_sorted (E : Mask) : (laneOrder E).Pairwise fun p q => p % 32 < q % 32 ∨ p % 32 = q % 32 ∧ p ≤ q := by
  unfold laneOrder
  apply List.Pairwise.filter
  refine List.pairwise_flatMap.2 ⟨fun k hk => ?_, ?_⟩
  · have hk := List.mem_range.1 hk
    rw [List.pairwise_map]
    refine List.pairwise_lt_range.imp fun hab => ?_
    simp only [posOf]
    omega
  · refine List.pairwise_lt_range.imp_of_mem fun ha hb hab => ?_
    have ha := List.mem_range.1 ha
    have hb := List.mem_range.1 hb
    intro x hx y hy
    obtain ⟨i, hi, rfl⟩ := List.mem_map.1 hx
    obtain ⟨j, hj, rfl⟩ := List.mem_map.1 hy
    simp only [posOf]
    omega

theorem first_head {E : Mask} {q : Nat} {r : List Nat} (h : laneOrder E = q :: r) : FirstActive E q := by
  have hs := laneOrder_sorted E
  rw [h] at hs
  refine ⟨mem_laneOrder.1 (by simp [h]), fun p hp => ?_⟩
  have := mem_laneOrder.2 hp
  rw [h] at this
  rcases List.mem_cons.1 this with rfl | h2
  · omega
  · exact (List.pairwise_cons.1 hs).1 p h2

end Sys2Proof.Machine
end

