-- ==== Sys2Proof/Laws/Results.lean ====
section
/-! SUPPORT. What writing results does: register copies, predicates, flags, poison marks, and the unit that goes on. -/

namespace Sys2Proof.Machine

/-! ## Register copies -/

/-- Only the registers of a pane change. -/
theorem PaneSt.writeKeys_regs (p : PaneSt) (ws : List (Nat × Word)) : p.writeKeys ws = { p with regs := (p.writeKeys ws).regs } := by
  unfold PaneSt.writeKeys
  induction ws generalizing p with
  | nil => rfl
  | cons w ws ih =>
    rw [List.foldl_cons, ih]
    unfold PaneSt.writeKey
    split <;> rfl

/-- A key that no write names keeps its value. -/
theorem PaneSt.writeKeys_other (p : PaneSt) (ws : List (Nat × Word)) {k : Nat} (h : ∀ w ∈ ws, w.1 ≠ k) :
    Sparse.read (p.writeKeys ws).regs k = Sparse.read p.regs k := by
  unfold PaneSt.writeKeys
  induction ws generalizing p with
  | nil => rfl
  | cons w ws ih =>
    rw [List.foldl_cons, ih _ fun x hx => h x (by simp [hx])]
    unfold PaneSt.writeKey
    split
    · exact Sparse.read_write_other _ _ (fun e => h w (by simp) e.symm)
    · rfl

/-- A key whose writes all carry one value reads that value. -/
theorem PaneSt.writeKeys_read (p : PaneSt) (ws : List (Nat × Word)) {k : Nat} {x : Word} (hk : k < 126 * 256)
    (h : ∀ w ∈ ws, w.1 = k → w.2 = x) (hm : ∃ w ∈ ws, w.1 = k) : Sparse.read (p.writeKeys ws).regs k = x := by
  unfold PaneSt.writeKeys
  induction ws generalizing p with
  | nil => obtain ⟨w, hw, -⟩ := hm; simp at hw
  | cons w ws ih =>
    rw [List.foldl_cons]
    by_cases hr : ∃ w' ∈ ws, w'.1 = k
    · exact ih _ (fun x hx => h x (by simp [hx])) hr
    · have hn : ∀ w' ∈ ws, w'.1 ≠ k := fun w' hw' e => hr ⟨w', hw', e⟩
      have := PaneSt.writeKeys_other (p.writeKey w.1 w.2) ws hn
      unfold PaneSt.writeKeys at this
      rw [this]
      obtain ⟨w', hw', he⟩ := hm
      rcases List.mem_cons.1 hw' with rfl | hw'
      · have hv := h w' (by simp) he
        subst he hv
        unfold PaneSt.writeKey
        rw [if_pos hk]
        simp
      · exact absurd he (hn w' hw')

/-- Every index of an execution class lies below 256. -/
theorem slotsOf_lt {c : Cls} {E : Mask} {q : Nat} (h : q ∈ slotsOf c E) : q < 256 := by
  unfold slotsOf at h
  split at h
  · simp [positions, positionsBelow] at h; exact h.1
  · simp at h; omega
  · split at h <;> simp at h; omega

theorem View.slots_lt {v : View} {i : Instr} {q : Nat} (h : q ∈ v.slots i) : q < 256 := slotsOf_lt h

/-- The code of a register operand. -/
theorem Opnd.code_isReg {d : Opnd} (h : d.isReg = true) : d.code < 126 := by
  cases d <;> simp [Opnd.isReg] at h <;> simp [Opnd.code] <;> omega

theorem Opnd.code_not_isReg {d : Opnd} (h : d.isReg = false) : 126 ≤ d.code := by
  cases d <;> simp [Opnd.isReg] at h <;> simp [Opnd.code]

/-- Keys of a code outside the register files are discarded (R38). -/
theorem PaneSt.writeKeys_discard (p : PaneSt) (ws : List (Nat × Word)) (h : ∀ w ∈ ws, 126 * 256 ≤ w.1) : p.writeKeys ws = p := by
  unfold PaneSt.writeKeys
  induction ws generalizing p with
  | nil => rfl
  | cons w ws ih =>
    have : p.writeKey w.1 w.2 = p := by
      unfold PaneSt.writeKey
      rw [if_neg (by have := h w (by simp); omega)]
    rw [List.foldl_cons, this]
    exact ih _ fun x hx => h x (by simp [hx])

/-- The copies of one destination written: copy q reads f q, and every other copy what it read before. -/
theorem writes_of_code (p : PaneSt) (d : Opnd) (qs : List Nat) (f : Nat → Word) (hq : ∀ q ∈ qs, q < 256) :
    (d.isReg = true → ∀ q ∈ qs, Sparse.read (p.writeKeys (qs.map fun q => (rkey d.code q, f q))).regs (rkey d.code q) = f q) ∧
    ∀ c q, q < 256 → ¬(d.isReg = true ∧ c = d.code ∧ q ∈ qs) →
      Sparse.read (p.writeKeys (qs.map fun q => (rkey d.code q, f q))).regs (rkey c q) = Sparse.read p.regs (rkey c q) := by
  constructor
  · intro hd q hm
    have hc := Opnd.code_isReg hd
    have hl := hq q hm
    refine PaneSt.writeKeys_read p _ (by simp only [rkey]; omega) ?_ ⟨(rkey d.code q, f q), List.mem_map.2 ⟨q, hm, rfl⟩, rfl⟩
    intro w hw he
    obtain ⟨q', hq', rfl⟩ := List.mem_map.1 hw
    have := hq q' hq'
    simp only [rkey] at he
    have : q' = q := by omega
    rw [this]
  · intro c q hl hn
    by_cases hd : d.isReg = true
    · refine PaneSt.writeKeys_other p _ ?_
      intro w hw he
      obtain ⟨q', hq', rfl⟩ := List.mem_map.1 hw
      have := hq q' hq'
      simp only [rkey] at he
      have h1 : q' = q := by omega
      have h2 : c = d.code := by omega
      exact hn ⟨hd, h2, h1 ▸ hq'⟩
    · rw [PaneSt.writeKeys_discard]
      intro w hw
      obtain ⟨q', hq', rfl⟩ := List.mem_map.1 hw
      have := Opnd.code_not_isReg (by simpa using hd)
      simp only [rkey]
      omega

/-! ## Poison marks -/

/-- Clearing marks changes nothing but the marks. -/
theorem View.cleaned_eq (v : View) (s : State) (ks : List Nat) : ∃ ps, v.cleaned s ks = s.setPoison ps := by
  unfold View.cleaned
  split
  · exact ⟨s.poison, rfl⟩
  · suffices ∀ (ks : List Nat) (t : State), ∃ ps, ks.foldl (fun s k => s.cleanKey v.pid k) t = t.setPoison ps from this ks s
    intro ks
    induction ks with
    | nil => exact fun t => ⟨t.poison, rfl⟩
    | cons k ks ih =>
      intro t
      rw [List.foldl_cons]
      have h1 : ∃ ps, t.cleanKey v.pid k = t.setPoison ps := by
        unfold State.cleanKey
        split
        · exact ⟨t.poison, rfl⟩
        · exact ⟨_, rfl⟩
      obtain ⟨p1, h1⟩ := h1
      obtain ⟨p2, h2⟩ := ih (t.setPoison p1)
      exact ⟨p2, by rw [h1, h2]; rfl⟩

/-! ## The unit that goes on -/

/-- The end of an instruction whose act leaves its unit in place: the unit goes past it. -/
theorem commit_next (v : View) {s : State} {n : Nat} {u : UnitSt} (h : s.units.find v.uid = some u) :
    commit v n (.next s) = s.putUnit v.uid ((u.advance n s.now).issued s.now) := by
  simp only [commit, State.updUnit, h]

/-- A state in which only a pane and marks have changed, and its unit gone on. -/
theorem goes_on {s : State} {v : View} (hv : s.view = some v) (i : Instr) (p' : PaneSt) {t : State} (hr : KeepsRest v.s t)
    (hn : t.now = v.s.now) (hu : t.units = v.s.units) (hp : OneEntry v.s.panes t.panes v.pid p') :
    KeepsRest v.s (commit v (1 + i.extraWords) (.next t)) ∧
      OneEntry v.s.units (commit v (1 + i.extraWords) (.next t)).units v.uid (v.past i v.u) ∧
      OneEntry v.s.panes (commit v (1 + i.extraWords) (.next t)).panes v.pid p' := by
  obtain ⟨hs, -, hf, -⟩ := view_facts hv
  have hf' : t.units.find v.uid = some v.u := by rw [hu, hs]; exact hf
  rw [commit_next v hf']
  refine ⟨hr, ⟨by simp [State.putUnit, View.past, hn], ?_⟩, hp⟩
  intro j hj
  simp [State.putUnit, Map.find_put_other _ _ hj, hu]

/-- A pane's new value, the marks of its written copies cleared, and the unit gone on. -/
theorem result_of {s : State} {v : View} (hv : s.view = some v) (i : Instr) (p' : PaneSt) (ks : List Nat) :
    let t := commit v (1 + i.extraWords) (.next (v.cleaned (v.withPane p') ks))
    KeepsRest v.s t ∧ OneEntry v.s.units t.units v.uid (v.past i v.u) ∧ OneEntry v.s.panes t.panes v.pid p' := by
  obtain ⟨ps, hp⟩ := v.cleaned_eq (v.withPane p') ks
  refine goes_on hv i p' (by rw [hp]; rfl) (by rw [hp]; rfl) (by rw [hp]; rfl) ?_
  rw [hp]
  exact ⟨by simp [View.withPane, State.putPane], fun j hj => by simp [View.withPane, State.putPane, Map.find_put_other _ _ hj]⟩

/-- The same with bits set in fstat afterwards (R76). -/
theorem result_flags {s : State} {v : View} (hv : s.view = some v) (i : Instr) (p' : PaneSt) (ks : List Nat) {fl : Nat}
    (h0 : fl ≠ 0) :
    let t := commit v (1 + i.extraWords) (.next (v.withFlags (v.cleaned (v.withPane p') ks) fl))
    KeepsRest v.s t ∧ OneEntry v.s.units t.units v.uid (v.past i v.u) ∧ OneEntry v.s.panes t.panes v.pid (p'.orFstat fl) := by
  obtain ⟨ps, hp⟩ := v.cleaned_eq (v.withPane p') ks
  have hx : v.withFlags (v.cleaned (v.withPane p') ks) fl = ((v.withPane p').setPoison ps).putPane v.pid (p'.orFstat fl) := by
    simp only [View.withFlags, if_neg h0, hp, State.updPane]
    simp [View.withPane, State.putPane]
  refine goes_on hv i (p'.orFstat fl) (by rw [hx]; rfl) (by rw [hx]; rfl) (by rw [hx]; rfl) ?_
  rw [hx]
  exact ⟨by simp [View.withPane, State.putPane], fun j hj => by simp [View.withPane, State.putPane, Map.find_put_other _ _ hj]⟩

/-- A REGISTER RESULT through `writeD` (R25). -/
theorem writeD_result {i : Instr} {s : State} {v : View} (hv : s.view = some v) (d : Opnd) (f : Nat → Word) :
    RegResult i v (commit v (1 + i.extraWords) (.next (v.writeD i d f))) d f 0 := by
  have h := result_of hv i (v.p.writeKeys ((v.slots i).map fun q => (rkey d.code q, f q)))
    (((v.slots i).map fun q => (rkey d.code q, f q)).map Prod.fst)
  have hw := writes_of_code v.p d (v.slots i) f fun q hq => View.slots_lt hq
  have e : v.p.writeKeys ((v.slots i).map fun q => (rkey d.code q, f q)) =
      { v.p with
        regs := (v.p.writeKeys ((v.slots i).map fun q => (rkey d.code q, f q))).regs
        fstat := v.p.fstat ||| w64 (0 % 4096) } := by
    simpa using PaneSt.writeKeys_regs v.p _
  exact ⟨h.1, h.2.1, _, e ▸ h.2.2, hw⟩

/-- The same with bits set in fstat (R76). -/
theorem writeD_flags_result {i : Instr} {s : State} {v : View} (hv : s.view = some v) (d : Opnd) (f : Nat → Word) (fl : Nat) :
    RegResult i v (commit v (1 + i.extraWords) (.next (v.withFlags (v.writeD i d f) fl))) d f fl := by
  by_cases h0 : fl = 0
  · subst h0
    have : v.withFlags (v.writeD i d f) 0 = v.writeD i d f := by simp [View.withFlags]
    rw [this]
    exact writeD_result hv d f
  · have h := result_flags hv i (v.p.writeKeys ((v.slots i).map fun q => (rkey d.code q, f q)))
      (((v.slots i).map fun q => (rkey d.code q, f q)).map Prod.fst) h0
    have hw := writes_of_code v.p d (v.slots i) f fun q hq => View.slots_lt hq
    have e : (v.p.writeKeys ((v.slots i).map fun q => (rkey d.code q, f q))).orFstat fl =
        { v.p with
          regs := (v.p.writeKeys ((v.slots i).map fun q => (rkey d.code q, f q))).regs
          fstat := v.p.fstat ||| w64 (fl % 4096) } := by
      rw [PaneSt.writeKeys_regs]; rfl
    exact ⟨h.1, h.2.1, _, e ▸ h.2.2, hw⟩

/-! ## Floating-point results -/

/-- A FLOATING-POINT RESULT (R76): no enabled condition arose. -/
theorem finishFp_result {i : Instr} {s : State} {v : View} (hv : s.view = some v) (d : Opnd) (g : Nat → Word) (fl : Nat → Nat)
    (h : allFlags ((v.slots i).map fun q => ⟨q, g q, fl q⟩) &&& (FMode.ofWord v.p.fmode).te = 0) :
    RegResult i v (commit v (1 + i.extraWords) (v.finishFp i d ((v.slots i).map fun q => ⟨q, g q, fl q⟩))) d g
      (allFlags ((v.slots i).map fun q => ⟨q, g q, fl q⟩)) := by
  have hf : v.finishFp i d ((v.slots i).map fun q => ⟨q, g q, fl q⟩) =
      .next (v.cleaned (v.withPane ((v.p.writeKeys ((v.slots i).map fun q => (rkey d.code q, g q))).orFstat
        (allFlags ((v.slots i).map fun q => ⟨q, g q, fl q⟩)))) ((v.slots i).map fun q => rkey d.code q)) := by
    simp only [View.finishFp, h, ne_eq, not_true_eq_false, if_false, PaneSt.writeFp, List.map_map]
    rfl
  rw [hf]
  have hr := result_of hv i ((v.p.writeKeys ((v.slots i).map fun q => (rkey d.code q, g q))).orFstat
    (allFlags ((v.slots i).map fun q => ⟨q, g q, fl q⟩))) ((v.slots i).map fun q => rkey d.code q)
  have e : (v.p.writeKeys ((v.slots i).map fun q => (rkey d.code q, g q))).orFstat
      (allFlags ((v.slots i).map fun q => ⟨q, g q, fl q⟩)) =
      { v.p with
        regs := (v.p.writeKeys ((v.slots i).map fun q => (rkey d.code q, g q))).regs
        fstat := v.p.fstat ||| w64 ((allFlags ((v.slots i).map fun q => ⟨q, g q, fl q⟩)) % 4096) } := by
    rw [PaneSt.writeKeys_regs]; rfl
  exact ⟨hr.1, hr.2.1, _, e ▸ hr.2.2, writes_of_code v.p d (v.slots i) g fun q hq => View.slots_lt hq⟩

/-! ## Predicate results -/

/-- Bits of a predicate after a write under a mask. -/
theorem PaneSt.setPred_bit (p : PaneSt) (k : Nat) (m b : Mask) (q : Nat) :
    bitAt (Sparse.read (p.setPred k m b).preds k) q = if bitAt m q then bitAt b q else bitAt (p.pred k) q := by
  simp only [PaneSt.setPred, Sparse.read_write_self, bitAt, BitVec.getLsbD_or, BitVec.getLsbD_and, BitVec.getLsbD_not]
  by_cases hq : q < 256
  · cases m.getLsbD q <;> simp [hq]
  · have h1 : m.getLsbD q = false := BitVec.getLsbD_of_ge _ _ (by omega)
    simp [h1, hq, BitVec.getLsbD_of_ge _ _ (Nat.le_of_not_lt hq)]

/-- A PREDICATE RESULT (R320, R349). -/
theorem pred_result {i : Instr} {s : State} {v : View} (hv : s.view = some v) (k : Nat) (m b : Mask) (fl : Nat) :
    PredResult i v (commit v (1 + i.extraWords) (.next (v.withPane ((v.p.setPred k m b).orFstat fl)))) k m b fl := by
  have h := result_of hv i ((v.p.setPred k m b).orFstat fl) []
  have hc : v.cleaned (v.withPane ((v.p.setPred k m b).orFstat fl)) [] = v.withPane ((v.p.setPred k m b).orFstat fl) := by
    simp [View.cleaned]
  rw [hc] at h
  refine ⟨h.1, h.2.1, _, h.2.2, fun q => PaneSt.setPred_bit v.p k m b q, ?_⟩
  intro j hj
  exact Sparse.read_write_other _ _ hj

end Sys2Proof.Machine
end

