-- ==== Sys2Proof/Laws/Completion.lean ====
section
/-! SUPPORT. From the act of an instruction that issues to what its step answers, once per shape of result. -/

namespace Sys2Proof.Machine

/-- What exec answers when an instruction is ready. -/
theorem ready_commit {i : Instr} {s : State} {v : View} {body : View → Act} {e : View → Early} (he : e v = earlyOf i v)
    (h : Ready i s v) : issueWith i e body s = .next (commit v (1 + i.extraWords) (body v)) :=
  Issues.issueWith (e := e) (by rw [he]; exact h)

theorem gives_of {i : Instr} {s : State} {v : View} {d : Opnd} (F : View → Nat → Word) {P : Nat → Word → Prop}
    (h : Ready i s v) (hx : exec i s = issueWith i (earlyOf i) (fun v => .next (v.writeD i d (F v))) s)
    (hp : ∀ q ∈ v.slots i, P q (F v q)) : Gives i s v d P := by
  refine ⟨F v, _, ?_, writeD_result h.chosen d (F v), hp⟩
  rw [hx, ready_commit rfl h]

theorem givesFlags_of {i : Instr} {s : State} {v : View} {d : Opnd} (F : View → Nat → Word) (fl : View → Nat)
    {P : Nat → Word → Prop}
    (h : Ready i s v) (hx : exec i s = issueWith i (earlyOf i) (fun v => .next (v.withFlags (v.writeD i d (F v)) (fl v))) s)
    (hp : ∀ q ∈ v.slots i, P q (F v q)) : GivesFlags i s v d (fl v) P := by
  refine ⟨F v, _, ?_, writeD_flags_result h.chosen d (F v) (fl v), hp⟩
  rw [hx, ready_commit rfl h]

theorem int2_of {i : Instr} {w : IWidth} {d a b : Opnd} {g : Nat → Nat → Nat} (f : Nat → Nat → Nat)
    (hx : ∀ s, exec i s = issueWith i (earlyOf i) (int2 i w f d a b) s)
    (hg : ∀ x y, x < 2 ^ ibits w → y < 2 ^ ibits w → f x y % 2 ^ ibits w = g x y) : Int2 i w d a b g := by
  intro s v h
  refine gives_of (fun v q => packed2 (ibits w) f (v.rd i a q) (v.rd i b q)) h (hx s) ?_
  intro q _ e he
  rw [sub_packed2 he, hg _ _ (sub_lt _ _ _) (sub_lt _ _ _)]

theorem int1_of {i : Instr} {w : IWidth} {d a : Opnd} {g : Nat → Nat → Prop} (f : Nat → Nat)
    (hx : ∀ s, exec i s = issueWith i (earlyOf i) (int1 i w f d a) s)
    (hg : ∀ x, x < 2 ^ ibits w → g x (f x % 2 ^ ibits w)) : Int1 i w d a g := by
  intro s v h
  refine gives_of (fun v q => packed1 (ibits w) f (v.rd i a q)) h (hx s) ?_
  intro q _ e he
  rw [sub_packed1 he]
  exact hg _ (sub_lt _ _ _)

theorem gives_word3 {i : Instr} {s : State} {v : View} {d a b : Opnd} (f : Word → Word → Word → Word) {P : Nat → Word → Prop}
    (h : Ready i s v) (hx : exec i s = issueWith i (earlyOf i) (word3 i f d a b) s)
    (hp : ∀ q ∈ v.slots i, P q (f (v.rd i d q) (v.rd i a q) (v.rd i b q))) : Gives i s v d P :=
  gives_of (fun v q => f (v.rd i d q) (v.rd i a q) (v.rd i b q)) h hx hp

theorem orFstat_zero (p : PaneSt) : p.orFstat 0 = p := by simp [PaneSt.orFstat]

theorem marks_of {i : Instr} {s : State} {v : View} {p : Nat} {m : Mask} {b : Nat → Bool} (fl : View → Nat) (M B : View → Mask)
    (h : Ready i s v) (hm : M v = m)
    (hx : exec i s = issueWith i (earlyOf i) (fun v => .next (v.withPane ((v.p.setPred p (M v) (B v)).orFstat (fl v)))) s)
    (hp : ∀ q, bitAt m q = true → bitAt (B v) q = b q) : Marks i s v p m (fl v) b := by
  subst hm
  refine ⟨B v, _, ?_, pred_result h.chosen p (M v) (B v) (fl v), hp⟩
  rw [hx, ready_commit rfl h]

theorem marks0_of {i : Instr} {s : State} {v : View} {p : Nat} {m : Mask} {b : Nat → Bool} (M B : View → Mask)
    (h : Ready i s v) (hm : M v = m)
    (hx : exec i s = issueWith i (earlyOf i) (fun v => .next (v.withPane (v.p.setPred p (M v) (B v)))) s)
    (hp : ∀ q, bitAt m q = true → bitAt (B v) q = b q) : Marks i s v p m 0 b := by
  refine marks_of (fun _ => 0) M B h hm ?_ hp
  simp only [orFstat_zero]
  exact hx

theorem put_put {α : Type} (m : Map α) (k : Nat) (a b : α) : Map.put (Map.put m k a) k b = Map.put m k b := by
  induction m with
  | nil => simp [Map.put]
  | cons x r ih =>
    simp only [Map.put]
    split
    · simp [Map.put]
    · split
      · simp [Map.put]
      · simp only [Map.put, *, if_false]

theorem withFlags_withPane (v : View) (p : PaneSt) (fl : Nat) : v.withFlags (v.withPane p) fl = v.withPane (p.orFstat fl) := by
  unfold View.withFlags
  split
  · subst_vars; rw [orFstat_zero]
  · simp only [State.updPane, View.withPane, State.putPane]
    simp [State.setPanes, put_put]

/-- one slot -/def slotRes (W n : Nat) (g : Nat → Nat → FRes) (q : Nat) : SlotRes :=
  let r := joinSubs W ((List.range n).map fun e => g q e)
  ⟨q, w64 r.1, r.2⟩

theorem slotRes_flags (W n : Nat) (g : Nat → Nat → FRes) (q k : Nat) :
    (slotRes W n g q).flags.testBit k = true ↔ ∃ e, e < n ∧ (g q e).flags.testBit k = true := by
  simp only [slotRes, joinSubs]
  rw [foldl_flags_bit]; simp

theorem floats_of {i : Instr} {s : State} {v : View} {d : Opnd} {W n : Nat} (G : View → Nat → Nat → FRes) (hn : W * n ≤ 64)
    (h : Ready i s v)
    (hx : exec i s = issueWith i (earlyOf i) (fun v => v.finishFp i d ((v.slots i).map fun q => slotRes W n (G v) q)) s) :
    Floats i s v d W n (G v) := by
  rw [ready_commit rfl h] at hx
  generalize G v = g at hx
  have hb : ∀ k, (allFlags ((v.slots i).map fun q => slotRes W n g q)).testBit k = true ↔
      ∃ q ∈ v.slots i, ∃ e, e < n ∧ (g q e).flags.testBit k = true := by
    intro k
    rw [allFlags_bit]
    simp only [List.mem_map, exists_exists_and_eq_and, slotRes_flags]
  have hq : allFlags ((v.slots i).map fun q => slotRes W n g q) &&& v.mode.te = 0 ↔ Quiet i v n g := by
    rw [← not_iff_not, ← ne_eq, and_ne_zero_iff]
    simp only [Quiet, not_forall]
    constructor
    · rintro ⟨k, h1, h2⟩
      obtain ⟨q, hq, e, he, hf⟩ := (hb k).1 h1
      exact ⟨q, hq, e, he, (and_ne_zero_iff _ _).2 ⟨k, hf, h2⟩⟩
    · rintro ⟨q, hq, e, he, h1⟩
      obtain ⟨k, h2, h3⟩ := (and_ne_zero_iff _ _).1 h1
      exact ⟨k, (hb k).2 ⟨q, hq, e, he, h2⟩, h3⟩
  refine ⟨fun hu => ?_, fun hu => ?_⟩
  · have h0 := hq.2 hu
    have := finishFp_result (i := i) h.chosen d (fun q => (slotRes W n g q).val) (fun q => (slotRes W n g q).flags) h0
    refine ⟨_, _, _, hx, hb, this, ?_⟩
    intro q _ e he
    simp only [slotRes, joinSubs, List.map_map]
    rw [sub_pack _ _ _ (by simpa using hn), List.getD_eq_getElem?_getD]
    by_cases hen : e < n <;> simp [hen]
  · have h0 := fun e => hu (hq.1 e)
    refine ⟨_, enabledMask v i.cls v.mode.te ((v.slots i).map fun q => slotRes W n g q), hb, ?_, ?_⟩
    · intro p
      unfold enabledMask
      rw [bitAt_unionMask]
      constructor
      · rintro ⟨x, hx, hp⟩
        obtain ⟨r, hr, rfl⟩ := List.mem_map.1 hx
        obtain ⟨hr1, hr2⟩ := List.mem_filter.1 hr
        obtain ⟨q, hq, rfl⟩ := List.mem_map.1 hr1
        obtain ⟨h1, h2⟩ := (slotMask_bit (p := p) hq).1 hp
        refine ⟨h1, ?_⟩
        rw [bne_iff_ne, and_ne_zero_iff] at hr2
        obtain ⟨k, hk1, hk2⟩ := hr2
        obtain ⟨e, he, hf⟩ := (slotRes_flags W n g q k).1 hk1
        refine ⟨e, he, ?_⟩
        rw [and_ne_zero_iff]
        change q = _ at h2
        exact ⟨k, h2 ▸ hf, hk2⟩
      · rintro ⟨h1, e, he, hf⟩
        have hm : slotAt i.cls p ∈ v.slots i := slotAt_mem h1
        refine ⟨_, List.mem_map.2 ⟨slotRes W n g (slotAt i.cls p), List.mem_filter.2 ⟨List.mem_map.2 ⟨_, hm, rfl⟩, ?_⟩, rfl⟩, (slotMask_bit hm).2 ⟨h1, rfl⟩⟩
        rw [bne_iff_ne, and_ne_zero_iff]
        obtain ⟨k, hk1, hk2⟩ := (and_ne_zero_iff _ _).1 hf
        exact ⟨k, (slotRes_flags W n g _ k).2 ⟨e, he, hk1⟩, hk2⟩
    · rw [hx]
      simp only [View.finishFp]
      rw [if_pos h0]
      rfl

theorem floats_congr {i : Instr} {s : State} {v : View} {d : Opnd} {W n : Nat} {g g' : Nat → Nat → FRes} (h : g = g')
    (hf : Floats i s v d W n g) : Floats i s v d W n g' := h ▸ hf

theorem goes_of {i : Instr} {s : State} {v : View} {u : UnitSt} {pc : Nat} {body : View → Act} {t : State} (h : Ready i s v)
    (hx : exec i s = issueWith i (earlyOf i) body s) (hb : body v = .jump t pc)
    (ht : t = s.putUnit v.uid u) : Goes i s v u pc := by
  obtain ⟨hs, -, hf, -⟩ := view_facts h.chosen
  refine ⟨_, by rw [hx, ready_commit rfl h, hb], ?_⟩
  subst ht
  have h1 : (s.putUnit v.uid u).units.find v.uid = some u := by simp [State.putUnit]
  simp only [commit, State.updUnit, h1]
  refine ⟨rfl, ?_, ?_⟩
  · simp [State.putUnit, View.sent, hs]
  · intro j hj; simp [State.putUnit, Map.find_put_other _ _ hj]

theorem goes_same {i : Instr} {s : State} {v : View} {pc : Nat} {body : View → Act} (h : Ready i s v)
    (hx : exec i s = issueWith i (earlyOf i) body s) (hb : body v = .jump v.s pc) : Goes i s v v.u pc := by
  obtain ⟨hs, -, hf, -⟩ := view_facts h.chosen
  refine ⟨_, by rw [hx, ready_commit rfl h, hb], ?_⟩
  simp only [commit, State.updUnit, hs, hf]
  refine ⟨rfl, ?_, ?_⟩
  · simp [State.putUnit, View.sent, hs]
  · intro j hj; simp [State.putUnit, Map.find_put_other _ _ hj]

theorem stays_same {i : Instr} {s : State} {v : View} {body : View → Act} (h : Ready i s v)
    (hx : exec i s = issueWith i (earlyOf i) body s) (hb : body v = .next v.s) : Stays i s v v.u := by
  obtain ⟨hs, -, hf, -⟩ := view_facts h.chosen
  refine ⟨_, by rw [hx, ready_commit rfl h, hb], ?_⟩
  simp only [commit, State.updUnit, hs, hf]
  refine ⟨rfl, ?_, ?_⟩
  · simp [State.putUnit, View.past, hs]
  · intro j hj; simp [State.putUnit, Map.find_put_other _ _ hj]

theorem traps_of {i : Instr} {s : State} {v : View} {body : View → Act} {t : Trap} (h : Ready i s v)
    (hx : exec i s = issueWith i (earlyOf i) body s) (hb : body v = .trap v.s t) (hw : t.word = none) : TrapsWith i s v t := by
  obtain ⟨hs, -, hf, -⟩ := view_facts h.chosen
  unfold TrapsWith
  rw [hx, ready_commit rfl h, hb]
  simp only [commit, hs, hw, Option.getD_none]

end Sys2Proof.Machine
end

