-- ==== Sys2Proof/Tests/Slice0.lean ====
section
/-! SUPPORT. Tests: words of the specification decode, ill-formed terms are refused, single steps, and for every statement
with hypotheses a state that meets them. -/

namespace Sys2Proof.Tests
open Sys2Proof Sys2Proof.Machine
set_option Elab.async false

/-! ## Decoding: words that the specification writes out (R27 and the examples of the instruction reference) -/

/-- Every word, with its literal word above it, decodes to its instruction. -/
def reads (l : List (Nat × Instr)) : Bool :=
  l.all fun q => decide (decodeTableWord (if q.1 < 2 ^ 32 then 32 else 64) q.1 = some q.2)

theorem test_decode_integer : reads
   [(0x0410E0E2, .iadd .i64 (.w 3) (.w 1) (.s 2)),
    (0x0E608001, .iadds .i8 (.v 2) (.v 0) (.v 1)),
    (0x0B418360, .isar .i16 (.v 6) (.v 6) (.s 0)),
    (0x12208082, .icmp .ltu .i32 2 (.v 1) (.v 2)),
    (0x0000_0804_1420_C0FF, .ibfxS (.v 3) (.v 1) (.lit 0x804)),
    (0x18208042, .sel 2 (.v 4) (.v 1) 2),
    (0x1831634B, .sel 3 (.v 11) (.v 13) 11),
    (0x1C017100, .mov (.v 5) (.s 2)),
    (0xFFFFFFFF_1C18FF80, .mov (.s 3) (.lit 0xFFFFFFFF))] = true := by decide +kernel

theorem test_decode_float : reads
   [(0x20210082, .fadd .f32 (.v 4) (.v 1) (.v 2)),
    (0x3F000000_2103C57F, .fmul .f64 (.v 15) (.v 10) (.lit 0x3F000000)),
    (0x3E800000_218080FF, .ffma .f64 (.v 2) (.v 1) (.lit 0x3E800000)),
    (0x25814180, .frnd .f64 (.v 5) (.v 3)),
    (0x2900C082, .fcmp .lt .f64 3 (.v 1) (.v 2)),
    (0x2D81B100, .fcvt .f64i64 (.v 6) (.s 2)),
    (0x3030E0C2, .sfq .f64 .exp2 (.v 3) (.v 7) 2),
    (0x340C4000, .sfw (.s 2))] = true := by decide +kernel

theorem test_decode_cross_lane : reads
   [(0x39108080, .mredAdd .f64 (.w 2) (.v 1)),
    (0x3A80C080, .msort .f64 (.v 3) (.v 1)),
    (0x3C010082, .lshf (.v 4) (.v 1) (.v 2)),
    (0x7_3C8100FF, .lbc (.v 4) (.v 1) (.lit 7)),
    (0x3D010080, .lredAdd .f64 (.v 4) (.v 1)),
    (0x3EE10080, .lscan .i32 (.v 4) (.v 1))] = true := by decide +kernel

theorem test_decode_predicate : reads
   [(0x40002083, .pand 3 1 2),
    (0x40800005, .xmand 5)] = true := by decide +kernel

theorem test_decode_control : reads
   [(0x44100019, .bany 1 25),
    (0x44200006, .bany 2 6),
    (0x4C0FFFFD, .jmp 0xFFFFD),
    (0x4C1FFFFD, .call 0xFFFFD),
    (0x5030000C, .bdiv 3 12),
    (0x58000008, .rcv 8),
    (0x5C300005, .bsaFull 3 5),
    (0x5D300005, .bsaRoom 3 5),
    (0x602C8000, .jmpi (.s 4)),
    (0x603C8000, .calli (.s 4)),
    (0x60400000, .exit),
    (0x60500000, .nop),
    (0x60600001, .trap 1),
    (0x60800000, .eret),
    (0x60900000, .brk)] = true := by decide +kernel

theorem test_decode_memory : reads
   [(0x64604004, .ld .one false .d (.v 1) (.v 0) 1 .dflt),
    (0x6579BF08, .ld .two false .d (.s 6) .zr 2 .dflt),
    (0x65A10004, .ld .two true .h (.v 4) (.v 0) 1 .dflt),
    (0x6860800C, .st .one .d (.v 2) (.v 0) 3 .dflt),
    (0x6A7A3284, .st .four .d (.s 8) (.s 5) 1 .dflt),
    (0x6C40C080, .lds false false .w (.v 3) (.v 1)),
    (0x6E40C080, .sts false .w (.v 3) (.v 1)),
    (0x77A18014, .atom .cas .i64 (.v 6) (.v 0) 5 .dflt),
    (0x78020088, .atom2 .addBf16 (.v 8) (.v 1) 2 .dflt),
    (0x7C0C2004, .bset 4 (.s 1) 0),
    (0x7C1C0004, .bsetS 4 96),
    (0x7C205944, .bget (.s 5) 4 2)] = true := by decide +kernel

theorem test_decode_ordering : reads
   [(0x80000000, .acq),
    (0x80100000, .rel),
    (0x80200000, .fence),
    (0x80300000, .bar),
    (0x80400000, .sbar),
    (0x8438FF18, .ctwt (.s 3) .zr 6),
    (0x1_845FF118, .ctinc (.lit 1) (.s 2) 6)] = true := by decide +kernel

theorem test_decode_copy_and_queue : reads
   [(0x900D4002, .qw 2 (.s 10)),
    (0x90101900, .qr (.s 4) 0),
    (0x940CF900, .sard (.s 4) (.s 7) 0),
    (0x941CBF83, .sawt (.s 5) 3),
    (0x8880C118, .cpy 4 (.v 3) (.v 2) 6 .dflt)] = true := by decide +kernel

theorem test_decode_tile_moves : reads
   [(0x98007208, .mld false .f64 1 (.s 4) 2 .dflt),
    (0x98003208, .mld false .f64 0 (.s 4) 2 .dflt),
    (0x9D40F29C, .mst true .bf16 3 (.s 5) 7 .dflt),
    (0xA8193F20, .rqt .uni (.s 4) 8 .dflt),
    (0xAC193F20, .smv .bf16w (.s 4) 8)] = true := by decide +kernel

theorem test_decode_matrix : reads
   [(0xA0042A00, .mmd 2 1 5 ⟨false, false, false, false⟩),
    (0xA0220888, .mms 1 0 4 2 ⟨false, false, false, true⟩),
    (0xA0404602, .mmh .bf16 0 2 3 0 ⟨false, true, false, false⟩),
    (0xA180CE00, .mmq 6 7 false false false),
    (0xA4844000, .mdrn .f64 2 2 0),
    (0xA4804000, .mdrn .f64 0 2 0),
    (0xA4244600, .manc 2 2 3),
    (0xA408CE08, .mscl 4 6 7 true),
    (0xA4660000, .maczF32 3),
    (0xA5008800, .mtlIn 4 4),
    (0xA5208A00, .mtlOut 4 5),
    (0xA5408C00, .mtlSb 4 6),
    (0xA5652000, .mflg 2 9),
    (0xA5800000, .mtake),
    (0xA5A04000, .mpass 2),
    (0xA5A00001, .mpassFree)] = true := by decide +kernel

theorem test_decode_long_accumulator : reads
   [(0xB0208080, .laddF64 (.v 2) (.v 1)),
    (0xB119F300, .lrnd false .rne (.s 7) (.s 6)),
    (0x31_B219337F, .lrdl (.s 4) (.s 6) (.lit 49)),
    (0xB419730C, .lsv (.s 5) (.s 6) 3 .dflt),
    (0xB439730C, .lld (.s 5) (.s 6) 3 .dflt)] = true := by decide +kernel

theorem test_decode_pivot : reads
   [(0xB80100E3, .pvsel false (.v 4) (.v 1) (.s 3)),
    (0xBD010082, .fxmac 8 (.v 4) (.v 1) (.v 2)),
    (0x1F_BE0080FF, .rngck 2 (.v 1) (.lit 31))] = true := by decide +kernel

theorem test_decode_launch_and_trace : reads
   [(0xC00C7F82, .glaunch (.s 3) 2),
    (0xC01C7F82, .glaunchNb (.s 3) 2),
    (0xC02C7F82, .tlaunch (.s 3) 2),
    (0xC03C7F82, .rerun (.s 3) 2),
    (0xC0400000, .tyld),
    (0xC0504144, .dtst (.v 5) (.v 2) 4),
    (0xC05C3903, .dtst (.s 4) (.s 1) 3),
    (0xC0605F84, .trec (.v 2) 4),
    (0xC06FDFA0, .trecWide)] = true := by decide +kernel

theorem test_decode_system : reads
   [(0x28_C40FE000, .vgrow (.lit 40)),
    (0xC41C4000, .vshr (.s 2)),
    (0xC8003900, .srd (.s 4) 1),
    (0xC802B9C0, .srd (.s 7) 0x15),
    (0xC81C4000, .swr 0 (.s 2)),
    (0xC82C1F89, .logm (.s 0) 9),
    (0xC83C4004, .psavePane (.s 2) 4),
    (0xC84C4044, .prestMx (.s 2) 4)] = true := by decide +kernel

/-- R50: `bmw p1, +5, else, +9` with its two pair words. -/
theorem test_decode_bmw : decode 0x54200000 [0x04000005, 0xFC000009] = .ok (.bmw 2 [⟨1, 5⟩, ⟨63, 9⟩]) := by decide +kernel

/-- R281: what is no instruction is rejected with its reason: a reserved major opcode, a reserved function value, a must-be-0
bit, a field out of range, a literal past the clause's end. -/
theorem test_reject : decode 0 [] = .error .reservedMajor ∧ decode 0xFC000000 [] = .error .reservedMajor ∧
    decode 0x81F00000 [] = .error .reservedFunction ∧ decode 0x60500001 [] = .error .mustBeZero ∧
    decode 0x58100008 [] = .error .outOfRange ∧ decode 0x218080FF [] = .error .pastEnd := by decide +kernel

/-! ## Well-formedness: an ill-formed term for each check (R25, R38, R281) -/

/-- Every term raises ILLEGAL with the reason. -/
def raises (r : Nat) (l : List Instr) : Bool := l.all fun i => decide (i.illegal = some r) && !i.wellFormed

theorem test_ill_range : raises 7
   [.icmp .eq .i64 48 (.v 0) (.v 1), .fcmp .eq .f64 48 (.v 0) (.v 1), .rngck 48 (.v 0) (.s 1),
    .sel 48 (.v 0) (.v 1) 2, .fcvt .f32i8x8 (.v 63) (.v 0), .sfq .f64 .rcp (.v 0) (.v 1) 16, .pand 48 0 0,
    .por 0 48 0, .pxor 0 0 48, .pandn 48 0 0, .pset 48, .pclr 48, .xmld 48, .xmst 48, .xmand 48, .pcnt (.s 0) 48,
    .pbits (.s 0) 48 (.s 1), .bany 48 0, .ball 48 0, .bdiv 48 0, .bmw 0 [],
    .bmw 5 [⟨0, 0⟩, ⟨0, 0⟩, ⟨0, 0⟩, ⟨0, 0⟩, ⟨0, 0⟩], .bmw 2 [⟨63, 0⟩, ⟨0, 0⟩], .bmw 1 [⟨48, 0⟩], .jmpi .zr,
    .calli (.lit 4), .ld .two false .d (.v 63) (.v 0) 0 .dflt, .st .four .d (.s 27) (.s 0) 0 .dflt,
    .lds true false .d (.w 31) (.w 0), .ldl true false .d (.v 63) (.v 0), .sts true .d .zr (.s 0),
    .stl true .d (.v 63) (.v 0), .atom .cas .i64 .zr (.v 0) 0 .dflt, .atom .cas .i64 (.v 63) (.v 0) 0 .dflt,
    .bset 32 (.s 0) 0, .bset 0 (.s 0) 32, .bsetS 32 96, .bsetS 0 95, .bsetS 0 123, .bget (.s 0) 32 0,
    .bget (.s 0) 0 4, .cpy 0 (.v 0) (.v 1) 31 .dflt, .cwait 16, .qw 4 (.s 0), .qr (.s 0) 4] = true := by decide +kernel

theorem test_ill_range_2 : raises 7
   [.sard (.s 0) (.s 1) 3, .sawt (.s 0) 16, .mld false .f64 16 (.s 0) 0 .dflt, .mldSb false 16 (.s 0) 0 .dflt,
    .mst false .f64 16 (.s 0) 0 .dflt, .mstSb false 16 (.s 0) 0 .dflt, .mms 0 0 0 5 ⟨false, false, false, false⟩,
    .mmd 8 0 0 ⟨false, false, false, false⟩, .mmh .bf16 8 0 0 0 ⟨false, false, false, false⟩,
    .mmf .e4m3 0 0 0 5 ⟨false, false, false, false⟩, .mmi .i8 8 0 0 ⟨false, false, false, false⟩, .mscl 8 0 0 false,
    .manc 8 0 0, .macz 8, .maczF32 8, .mflg 8 0, .mdrn .f64 0 0 5, .mdrn .f64 8 0 0, .rqt .uni (.s 0) 29 .dflt,
    .smv .rsvd (.s 0) 0, .smvw .rsvd (.s 0) 0, .glaunch (.s 0) 32, .glaunchNb (.s 0) 32, .tlaunch (.s 0) 32,
    .rerun (.s 0) 32, .dtst (.v 0) (.v 1) 32, .trec (.v 0) 32, .psavePane (.s 0) 32, .psaveMx (.s 0) 32,
    .psaveLx (.s 0) 32, .prestPane (.s 0) 32, .prestMx (.s 0) 32, .prestLx (.s 0) 32] = true := by decide +kernel

theorem test_ill_literal : raises 5
   [.iadd .i64 (.lit 1) (.v 0) (.v 1), .iadd .i64 (.v 0) (.lit 1) (.lit 1), .lclr (.lit 0), .laddF64 (.lit 0) (.v 0),
    .laddF32 (.lit 0) (.v 0), .laddBf16 (.lit 0) (.v 0), .lmacF64 (.lit 0) (.v 0) (.v 1),
    .lmacF32 (.lit 0) (.v 0) (.v 1), .lmrg (.lit 0) (.v 0), .lnrm (.lit 0), .lwrl (.lit 0) (.v 0) (.v 1),
    .lsv (.lit 0) (.v 0) 0 .dflt, .lld (.lit 0) (.v 0) 0 .dflt, .pvsel false (.v 0) (.v 1) (.lit 0)] = true := by decide +kernel

theorem test_ill_class : raises 4
   [.iadd .i64 (.s 0) (.v 0) (.s 1), .rngck 0 (.v 0) (.v 1), .sel 0 (.s 0) (.s 1) 0, .sfw (.w 0),
    .mbc (.s 0) (.v 0) (.s 1), .mbc (.v 0) (.v 1) (.v 2), .mshf (.w 0) (.w 1) (.w 2), .mredAdd .f64 (.s 0) (.v 1),
    .mredMin .f64 (.s 0) (.v 1), .mredMax .f64 (.s 0) (.v 1), .mspr .f64 (.s 0) (.v 1), .msort .f64 (.w 0) (.v 1),
    .mrank .f64 (.w 0) (.v 1) (.v 2), .lshf (.w 0) (.v 1) (.w 2), .lbc (.w 0) (.v 1) (.s 2),
    .lbc (.v 0) (.v 1) (.v 2), .lredAdd .f64 (.s 0) (.s 1), .lredMin .f64 (.w 0) (.v 1), .lredMax .f64 (.s 0) (.s 1),
    .lscan .f64 (.w 0) (.v 1), .pcnt (.v 0) 0, .pbits (.s 0) 0 (.v 1), .pbits (.w 0) 0 (.s 1),
    .ldl false false .d (.w 0) (.w 1), .stl false .d (.s 0) (.s 1), .atom .add .i64 (.s 0) (.v 0) 0 .dflt,
    .atom2 .addBf16 (.w 0) (.v 0) 0 .dflt, .wadr (.s 0) (.v 0) 0, .bset 0 (.v 0) 0, .bget (.v 0) 0 0,
    .ctwt (.v 0) (.s 0) 0, .ctinc (.s 0) (.w 0) 0, .qw 0 (.v 0), .qr (.v 0) 0, .sard (.s 0) (.v 0) 0, .sawt (.w 0) 0,
    .mld false .f64 0 (.v 0) 0 .dflt, .mldSb false 0 (.w 0) 0 .dflt, .mst false .f64 0 (.v 0) 0 .dflt,
    .mstSb false 0 (.w 0) 0 .dflt, .rqt .uni (.v 0) 0 .dflt, .smv .bf16w (.w 0) 0, .smvw .bf16w (.v 0) 0,
    .pvsel false (.w 0) (.w 1) (.s 0), .pvsel false (.v 0) (.v 1) (.v 2)] = true := by decide +kernel

theorem test_ill_class_2 : raises 4
   [.glaunch (.v 0) 0, .glaunchNb (.w 0) 0, .tlaunch (.v 0) 0, .rerun (.v 0) 0, .vgrow (.v 0), .vshr (.w 0),
    .srd (.s 0) 2, .srd (.w 0) 3, .srd .zr 27, .swr 0 (.v 0), .logm (.w 0) 0, .psavePane (.v 0) 0, .psaveMx (.w 0) 0,
    .psaveLx (.v 0) 0, .prestPane (.v 0) 0, .prestMx (.w 0) 0, .prestLx (.v 0) 0] = true := by decide +kernel

/-- Numbers that no field holds, and options without a function value. -/
def unfit (l : List Instr) : Bool := l.all fun i => !i.fits && !i.wellFormed

theorem test_unfit : unfit
   [.icmp .eq .i64 128 (.v 0) (.v 1), .fcmp .eq .f64 128 (.v 0) (.v 1), .rngck 128 (.v 0) (.s 0),
    .sel 64 (.v 0) (.v 1) 0, .sfq .f64 .rcp (.v 0) (.v 1) 64, .pand 64 0 0, .por 0 128 0, .pxor 0 0 128,
    .pandn 64 0 0, .pset 64, .pclr 64, .xmld 64, .xmst 64, .xmand 64, .pcnt (.s 0) 64, .pbits (.s 0) 64 (.s 0),
    .bany 0 1048576, .ball 64 0, .bdiv 0 1048576, .jmp 1048576, .call 1048576, .rcv 1048576, .bsaFull 16 0,
    .bsaRoom 0 1048576, .bmw 1 [], .bmw 1 [⟨64, 0⟩], .bmw 1 [⟨0, 67108864⟩], .trap 64, .sys 64, .cwait 64,
    .logm (.s 0) 64, .sawt (.s 0) 64, .sard (.s 0) (.s 0) 64, .ld .one true .d (.v 0) (.v 0) 0 .dflt,
    .ld .one false .d (.v 0) (.v 0) 32 .dflt, .lds false true .d (.v 0) (.v 0), .ldl false true .d (.v 0) (.v 0),
    .atom .and .f32 (.v 0) (.v 0) 0 .dflt, .atom .xor .f64 (.v 0) (.v 0) 0 .dflt,
    .atom .add .i64 (.v 0) (.v 0) 32 .dflt, .st .one .d (.v 0) (.v 0) 32 .dflt,
    .atom2 .addBf16 (.v 0) (.v 0) 32 .dflt, .bset 64 (.s 0) 0, .bsetS 64 96, .bget (.s 0) 64 0,
    .wadr (.v 0) (.v 0) 32, .ctwt (.s 0) (.s 0) 32, .ctinc (.s 0) (.s 0) 32, .cpy 7 (.v 0) (.v 0) 0 .dflt,
    .cpyIn 7 (.v 0) (.v 0) 0 .dflt] = true := by decide +kernel

theorem test_unfit_2 : unfit
   [.cpyOut 0 (.v 0) (.v 0) 32 .dflt, .qw 64 (.s 0), .qr (.s 0) 64, .mld false .f64 128 (.s 0) 0 .dflt,
    .mst false .f64 0 (.s 0) 32 .dflt, .mldSb false 128 (.s 0) 0 .dflt, .mstSb false 0 (.s 0) 32 .dflt,
    .mmd 16 0 0 ⟨false, false, false, false⟩, .mms 0 0 0 8 ⟨false, false, false, false⟩,
    .mmh .bf16 0 16 0 0 ⟨false, false, false, false⟩, .mmf .e4m3 0 0 16 0 ⟨false, false, false, false⟩,
    .mmi .i8 0 16 0 ⟨false, false, false, false⟩, .mmq 16 0 false false false, .mscl 0 16 0 false, .manc 0 0 16,
    .macz 16, .maczF32 16, .mdrn .f64 0 16 0, .mtlIn 16 0, .mtlOut 0 16, .mtlSb 16 0, .mflg 0 16, .mpass 16,
    .rqt .uni (.s 0) 32 .dflt, .smv .bf16w (.s 0) 32, .smvw .bf16w (.s 0) 32, .lsv (.s 0) (.s 0) 32 .dflt,
    .lld (.s 0) (.s 0) 32 .dflt, .fxmac 16 (.v 0) (.v 0) (.v 0), .glaunch (.s 0) 64, .glaunchNb (.s 0) 64,
    .tlaunch (.s 0) 64, .rerun (.s 0) 64, .dtst (.v 0) (.v 0) 64, .trec (.v 0) 64, .trec .zr 32,
    .psavePane (.s 0) 64, .psaveMx (.s 0) 64, .psaveLx (.s 0) 64, .prestPane (.s 0) 64, .prestMx (.s 0) 64,
    .prestLx (.s 0) 64, .srd (.s 0) 128, .swr 128 (.s 0)] = true := by decide +kernel

/-! ## A state for one step -/

/-- A record of this node that grants everything: base 0, stride 256, extent 4,096. -/
def openRecord : BitVec 256 := BufRec.ofWords 0 (256 + 7 * 2 ^ 48) 4096 0

/-- The pane of log entry 13 with buffer registers 0 to 10 open, 11 on the last page, and OP 1 in s2. -/
def scenePane : PaneSt :=
  { PaneSt.start 2 0 0 64 with regs := [(rkey 98 0, w64 (2 ^ 56))], bufs := (11, BufRec.ofWords (7 * 65536) (256 + 7 * 2 ^ 48) 128 0) :: (List.range 11).map fun k => (k, openRecord) }

/-- The pane's one unit before an instruction's word, in the mode that may run it. -/
def sceneUnit (i : Instr) : UnitSt :=
  { UnitSt.start 3 0 0 0 (fullMask 1) with
    idx := 1
    words := encode i ++ [0x60500000, 0x60500000]
    entered := true
    hdr := BitVec.ofNat 32 (7 * 2 ^ 25)
    sup := (privIndex i).isSome }

/-- The launch, casement and pane of log entry 13, about to issue an instruction, with eight pages of cached translations,
the last of them memory-side (R186). -/
def scene (i : Instr) : State :=
  { State.reset with
    nextId := 5
    ctxs := [(0, { CtxSt.start 0 with ptroot := w64 (placedTables + 1) })]
    launches := [(1, placedLaunch)]
    cas := [(2, placedCasement 0)]
    panes := [(3, scenePane)]
    units := [(4, sceneUnit i)]
    tlb := (List.range 8).map fun k => (tlbKey 0 (65536 * k), (placedPage + 65536 * k + 7 + if k = 7 then 8 else 0) * 4)
    cur := some 4 }

/-- The scene with its pane, its unit, its casement or its context changed. -/
def withPane (f : PaneSt → PaneSt) (s : State) : State := s.updPane 3 f
def withUnit (f : UnitSt → UnitSt) (s : State) : State := s.updUnit 4 f
def withCas (f : CasementSt → CasementSt) (s : State) : State := s.updCas 2 f
def withCtx (f : CtxSt → CtxSt) (s : State) : State := s.updCtx 0 f

/-- An instruction issues there with its own effect. -/
def readyB (i : Instr) (v : View) : Bool :=
  let e := earlyOf i v
  v.u.dueDeferred.isNone && i.illegal.isNone && e.illegal.isNone && (v.u.sup || (privIndex i).isNone) &&
    ((namedCodes i ++ e.codes).find? (undeclared v.p v.l)).isNone && e.rank4.isNone &&
    ((hazardCodes i ++ e.codes ++ e.bufs.map fun n => 128 + n).findSome? (hazardOn v)).isNone && (!(needsFull i || e.full) || !v.notFull) &&
    (v.E != 0 || actsEmpty i) && (poisonTrap v i).isNone

theorem readyB_sound {i : Instr} {s : State} {v : View} (hv : s.view = some v) (h : readyB i v = true) : Ready i s v := by
  simp only [readyB, Bool.and_eq_true, Option.isNone_iff_eq_none, Bool.or_eq_true, Bool.not_eq_true', bne_iff_ne] at h
  obtain ⟨⟨⟨⟨⟨⟨⟨⟨⟨h1, h2⟩, h3⟩, h4⟩, h5⟩, h6⟩, h7⟩, h8⟩, h9⟩, h10⟩ := h
  exact ⟨hv, h1, h2, h3, h4, h5, h6, h7, fun hf => by cases hn : v.notFull <;> simp_all, h9, h10⟩

/-- A condition on the view of a state. -/
def onView (s : State) (c : View → Bool) : Bool :=
  match s.view with
  | some v => c v
  | none => false

theorem onView_sound {s : State} {c : View → Bool} (h : onView s c = true) : ∃ v, s.view = some v ∧ c v = true := by
  unfold onView at h
  split at h
  · exact ⟨_, ‹_›, h⟩
  · cases h

/-- Every instruction of a list issues in its scene. -/
theorem ready_all {l : List Instr} (h : (l.all fun i => onView (scene i) (readyB i)) = true) :
    ∀ i ∈ l, ∃ v, Ready i (scene i) v := fun i hi =>
  have ⟨v, hv, hr⟩ := onView_sound (List.all_eq_true.mp h i hi)
  ⟨v, readyB_sound hv hr⟩

/-- What an instruction sees in its scene. -/
def sceneView (i : Instr) : View := ⟨scene i, 4, sceneUnit i, 3, scenePane, 2, placedCasement 0, placedLaunch⟩

theorem scene_view (i : Instr) : (scene i).view = some (sceneView i) := rfl

theorem ready_of {i : Instr} (h : readyB i (sceneView i) = true) : Ready i (scene i) (sceneView i) := readyB_sound (scene_view i) h

/-- An instruction that meets nothing on its way to memory. -/
def clearB (v : View) (k : Kind) (r : MemReq) : Bool :=
  let f := v.s.locateReq v.ctx r
  r.node.isNone && (decide (ownershipLines v r = 0) || (v.s.ctx v.ctx).logRoom (ownershipLines v r)) &&
    (accessTrap v r f).isNone && f.busy.isNone && decide (f.faults ++ behindPages v.s v.uid r.accs = []) &&
    (!decide (r.op.kind = .atomic ∧ r.op ≠ .ctinc) || v.s.allBound v.uid) && !v.s.mustFollow v.uid v.s.nextId r.op f.locs &&
    !v.countFull k && (decide (r.op = .dtst) || decide (r.op = .trec) || !leaves v.s.dev f.locs)

theorem clearB_sound {v : View} {k : Kind} {r : MemReq} (h : clearB v k r = true) : AccessClear v k r := by
  simp only [clearB, Bool.and_eq_true, Bool.or_eq_true, decide_eq_true_eq, Bool.not_eq_true', Option.isNone_iff_eq_none,
    decide_eq_false_iff_not] at h
  obtain ⟨⟨⟨⟨⟨⟨⟨⟨h1, h2⟩, h3⟩, h4⟩, h5⟩, h6⟩, h7⟩, h8⟩, h9⟩ := h
  exact ⟨h1, h2, h3, h4, h5, fun hk => h6.resolve_left fun hn => hn hk, h7, h8, or_assoc.mp h9⟩

theorem scene_plain (i : Instr) : Plain (scene i) (sceneView i) :=
  ⟨show placedLaunch.traced = false by decide +kernel, rfl, show placedLaunch.det = false by decide +kernel, rfl, rfl⟩

theorem scene_coherent (i : Instr) (c : Nat) : (scene i).l1Coherent c :=
  ⟨fun _ h => (nomatch h), fun _ h => (nomatch h)⟩

/-- The elements of an access that meets no trap. -/
def elems (v : View) (i : Instr) (n : Nat) (k : Perm) (w : Nat) (x : Opnd) : List Elem :=
  match v.resolve i n k w x with
  | .ok es => es
  | .error _ => []

/-! ## Results: states that meet the hypotheses of the statements -/

theorem witness_IntegerTwoOperandResults : ∀ i ∈ ([.iadd .i64 (.v 0) (.v 1) (.v 2), .isub .i32 (.w 0) (.w 1) (.s 2),
    .imul .i16 .zr (.v 1) (.v 2), .imulh .i8 (.v 0) (.v 1) (.v 2), .imulhu .i64 (.s 0) (.s 1) (.s 2), .imin .i32 (.v 0) (.v 1) .zr,
    .imax .i16 (.v 0) (.v 1) (.v 2), .iminu .i8 (.v 0) (.v 1) (.v 2), .imaxu .i64 (.v 0) (.v 1) (.v 2),
    .iand .i64 (.v 0) (.v 1) (.lit 255), .ior .i64 (.v 0) (.v 1) (.v 2), .ixor .i64 (.v 0) (.v 1) (.v 2),
    .iandn .i64 (.v 0) (.v 1) (.v 2), .ishl .i32 (.v 0) (.v 1) (.v 2), .ishr .i32 (.v 0) (.v 1) (.v 2),
    .isar .i16 (.v 6) (.v 6) (.s 0), .irot .i8 (.v 0) (.v 1) (.v 2), .iadds .i8 (.v 2) (.v 0) (.v 1),
    .isubs .i64 (.v 2) (.v 0) (.v 1)] : List Instr), ∃ v, Ready i (scene i) v := ready_all (by decide +kernel)

theorem witness_IntegerOneOperandAndMultiplyAddResults : ∀ i ∈ ([.iabs .i64 (.v 0) (.v 1), .iclz .i32 (.w 0) (.w 1),
    .ipopc .i16 (.s 0) (.s 1), .ibrev .i8 (.v 0) (.v 1), .imad .i32 (.v 0) (.v 1) (.v 2)] : List Instr),
    ∃ v, Ready i (scene i) v := ready_all (by decide +kernel)

theorem witness_BitFieldAndMoveResults : ∀ i ∈ ([.ibfx (.v 0) (.v 1) (.v 2), .ibfxS (.v 3) (.v 1) (.lit 0x804),
    .ibfi (.w 0) (.w 1) (.s 2), .sel 2 (.v 4) (.v 1) 2, .mov (.v 5) (.s 2)] : List Instr), ∃ v, Ready i (scene i) v :=
  ready_all (by decide +kernel)

theorem witness_ComparisonResults : ∀ i ∈ ([.icmp .ltu .i32 2 (.v 1) (.v 2), .fcmp .lt .f64 3 (.v 1) (.v 2),
    .rngck 2 (.v 1) (.lit 31)] : List Instr), ∃ v, Ready i (scene i) v := ready_all (by decide +kernel)

theorem witness_PredicateAndMaskResults : ∀ i ∈ ([.pand 3 1 2, .por 3 1 2, .pxor 3 1 2, .pandn 3 1 2, .pset 0, .pclr 47, .xmst 4,
    .xmld 5, .xmand 5] : List Instr), ∃ v, Ready i (scene i) v := ready_all (by decide +kernel)

theorem witness_FixedPointAndPivotResults : ∀ i ∈ ([.fxmac 8 (.v 4) (.v 1) (.v 2), .pvsel false (.v 4) (.v 1) (.s 3),
    .pvreg true (.v 4) (.v 1) (.v 2), .pcnt (.s 0) 3, .pbits (.s 0) 3 (.s 1)] : List Instr), ∃ v, Ready i (scene i) v :=
  ready_all (by decide +kernel)

theorem witness_FloatingPointResults : ∀ i ∈ ([.fadd .f32 (.v 4) (.v 1) (.v 2), .fsub .f64 (.v 4) (.v 1) (.v 2),
    .fmul .f64 (.v 15) (.v 10) (.lit 0x3F000000), .ffma .f64 (.v 2) (.v 1) (.lit 0x3E800000), .ffms .bf16 (.v 2) (.v 1) (.v 3),
    .fnma .f16 (.v 2) (.v 1) (.v 3), .fmin .f64 (.v 4) (.v 1) (.v 2), .fmax .f32 (.v 4) (.v 1) (.v 2),
    .fscl .f64 (.v 4) (.v 1) (.s 2), .frnd .f64 (.v 5) (.v 3), .fclass .f32 (.w 0) (.w 1), .fabs .f64 (.v 0) (.v 1),
    .fneg .f64 (.v 0) (.v 1), .fcpys .f64 (.v 0) (.v 1) (.v 2)] : List Instr), ∃ v, Ready i (scene i) v :=
  ready_all (by decide +kernel)

theorem witness_ConversionResults : ∀ i ∈ ([.fcvt .f64i64 (.v 6) (.s 2), .fcvt .f32i8x8 (.v 62) (.v 1)] : List Instr),
    ∃ v, Ready i (scene i) v := ready_all (by decide +kernel)

theorem witness_ReductionSortAndRankResults : ∀ i ∈ ([.mredAdd .f64 (.w 2) (.v 1), .mredMin .f32 (.v 2) (.v 1),
    .mredMax .i64 (.v 2) (.v 1), .mspr .i32 (.v 2) (.v 1), .lredAdd .f64 (.v 4) (.v 1), .lredMin .f64 (.v 4) (.v 1),
    .lredMax .f64 (.w 4) (.w 1), .lscan .i32 (.v 4) (.v 1), .msort .f64 (.v 3) (.v 1), .mrank .f64 (.v 3) (.v 1) (.v 2)] :
    List Instr), ∃ v, Ready i (scene i) v := ready_all (by decide +kernel)

theorem witness_CrossLaneMoveResults : ∀ i ∈ ([.mbc (.v 0) (.v 1) (.s 2), .mshf (.v 0) (.v 1) (.v 2), .lshf (.v 4) (.v 1) (.v 2),
    .lbc (.v 4) (.v 1) (.lit 7)] : List Instr), ∃ v, Ready i (scene i) v := ready_all (by decide +kernel)

theorem witness_UniformTransferResults : ∀ i ∈ ([.bany 1 25, .ball 1 25, .jmp 0xFFFFD, .call 0xFFFFD, .ret, .bsaFull 3 5,
    .bsaRoom 3 5] : List Instr), ∃ v, Ready i (scene i) v := ready_all (by decide +kernel)

theorem witness_IndirectTransferResults : ∀ i ∈ ([.jmpi (.s 4), .calli (.s 4)] : List Instr), ∃ v, Ready i (scene i) v ∧
    v.E ≠ 0 ∧ FirstActive v.E 0 := fun i hi => by
  obtain ⟨v, hv, h⟩ := onView_sound (s := scene i) (c := fun v => readyB i v && decide (v.E = fullMask 1))
    (by revert i; decide +kernel)
  simp only [Bool.and_eq_true, decide_eq_true_eq] at h
  refine ⟨v, readyB_sound hv h.1, by rw [h.2]; decide +kernel, by rw [h.2]; decide +kernel, fun p _ => ?_⟩
  by_cases hp : p % 32 = 0
  · exact .inr ⟨hp.symm, Nat.zero_le p⟩
  · exact .inl (Nat.pos_of_ne_zero hp)

theorem witness_DivergenceOfBdiv : ∀ i ∈ ([.bdiv 3 12] : List Instr), ∃ v, Ready i (scene i) v := ready_all (by decide +kernel)

theorem witness_DivergenceOfBmw : ∀ i ∈ ([.bmw 2 [⟨1, 5⟩, ⟨63, 9⟩]] : List Instr), ∃ v, Ready i (scene i) v :=
  ready_all (by decide +kernel)

theorem witness_ReconvergenceResults : ∀ i ∈ ([.rcv 8, .join] : List Instr), ∃ v, Ready i (scene i) v := ready_all (by decide +kernel)

theorem witness_EndAndYieldResults : ∀ i ∈ ([.nop, .tyld, .exit] : List Instr), ∃ v, Ready i (scene i) v :=
  ready_all (by decide +kernel)

theorem witness_OrderingAndBarriers : ∀ i ∈ ([.acq, .rel, .fence, .bar, .sbar] : List Instr), ∃ v, Ready i (scene i) v :=
  ready_all (by decide +kernel)

theorem witness_QueueAndAllowanceResults : ∀ i ∈ ([.qw 0 (.s 2), .qr (.s 4) 0, .sard (.s 4) (.s 7) 0, .sawt (.s 5) 3] :
    List Instr), ∃ v, Ready i (scene i) v := ready_all (by decide +kernel)

theorem witness_LongAccumulatorOperations : ∀ i ∈ ([.lclr (.s 0), .laddF64 (.v 2) (.v 1), .laddF32 (.v 2) (.v 1),
    .laddBf16 (.w 2) (.w 1), .lmacF64 (.v 2) (.v 1) (.v 3), .lmacF32 (.v 2) (.v 1) (.v 3), .lmrg (.s 0) (.s 1), .lnrm (.s 0),
    .lwrl (.s 0) (.s 1) (.s 2)] : List Instr), ∃ v, Ready i (scene i) v := ready_all (by decide +kernel)

theorem witness_LongAccumulatorReadOutsAndImages : ∀ i ∈ ([.lrnd false .rne (.s 7) (.s 6), .lrdl (.s 4) (.s 6) (.lit 49),
    .lst (.s 4) (.s 6), .lsv (.s 5) (.s 6) 3 .dflt, .lld (.s 5) (.s 6) 3 .dflt] : List Instr), ∃ v, Ready i (scene i) v :=
  ready_all (by decide +kernel)

theorem witness_EngineOperationsIssue : ∀ i ∈ ([.mmd 2 1 5 ⟨false, false, false, false⟩, .mms 1 0 4 2 ⟨false, false, false, true⟩,
    .mmh .bf16 0 2 3 0 ⟨false, true, false, false⟩, .mmf .e4m3 7 15 0 4 ⟨true, true, true, true⟩,
    .mmi .i8 0 1 2 ⟨false, false, false, false⟩, .mmq 6 7 false false false, .mscl 4 6 7 true, .manc 2 2 3, .macz 3, .maczF32 3,
    .mflg 2 9, .mdrn .f64 2 2 0, .mtlOut 4 5, .mtlIn 4 4, .mtlSb 4 6] : List Instr), ∃ v, Ready i (scene i) v :=
  ready_all (by decide +kernel)

theorem witness_SpecialFunctionResults : ∀ i ∈ ([.sfq .f64 .exp2 (.v 3) (.v 7) 2, .sfw (.s 2)] : List Instr),
    ∃ v, Ready i (scene i) v := ready_all (by decide +kernel)

theorem witness_SpecialRegisterReads : ∀ i ∈ ([.srd (.s 4) 1, .srd (.v 0) 2, .srd (.s 0) 0x40] : List Instr),
    ∃ v, Ready i (scene i) v := ready_all (by decide +kernel)

theorem witness_SpecialRegisterWrites : ∀ i ∈ ([.swr 0 (.s 2), .swr 0x1E (.s 2), .swr 0x40 (.s 2), .swr 0x4B (.s 2),
    .swr 0x4D (.s 2), .swr 0x60 (.s 2)] : List Instr), ∃ v, Ready i (scene i) v := ready_all (by decide +kernel)

theorem witness_StagedRegisterWrites : ∀ i ∈ ([.ptrootWrite 1, .wpartWrite 31 5, .dmapEnable 0x100001, .dmapDisable 0] : List Instr),
    ∃ v, Ready i (scene i) v := ready_all (by decide +kernel)

theorem witness_RegisterGrowthAndMarkers : ∀ i ∈ ([.vgrow (.lit 40), .vshr (.s 2), .logm (.s 0) 9] : List Instr),
    ∃ v, Ready i (scene i) v := ready_all (by decide +kernel)

theorem witness_DeliveryAndReturn : ∀ i ∈ ([.trap 1, .sys 63, .brk] : List Instr), ∃ v, Ready i (scene i) v :=
  ready_all (by decide +kernel)

theorem witness_GlobalLoadResults :
    (let i := Instr.ld .two true .h (.v 4) (.v 0) 1 .dflt
      let v := sceneView i
      let es := elems v i 1 .rd 2 (.v 0)
      let r := v.request i (.load true 2) 1 .dflt (spread (v.inOrder i.cls es) 2 2 fun k e a =>
        ⟨e.mask, a, 2, 0, 0, [rkey (4 + k) e.slot], false⟩) (missedKeys (v.inOrder i.cls es) 4 2)
      (scene i).ownStores 4 5 = [] ∧ Ready i (scene i) v ∧ v.resolve i 1 .rd 2 (.v 0) = .ok es ∧ AccessClear v .load r) ∧
    (let i := Instr.bset 4 (.s 1) 0
      let v := sceneView i
      let es := elems v i 0 .rd 32 (.s 1)
      let r := v.request i (.bset 4) 0 .dflt (spread es 1 32 fun _ e a => ⟨e.mask, a, 32, 0, 0, [], false⟩) []
      Ready i (scene i) v ∧ v.resolve i 0 .rd 32 (.s 1) = .ok es ∧ AccessClear v .load r) :=
  ⟨⟨by decide +kernel, ready_of (by decide +kernel), by decide +kernel, clearB_sound (by decide +kernel)⟩,
    ready_of (by decide +kernel), by decide +kernel, clearB_sound (by decide +kernel)⟩

theorem witness_GlobalStoreResults :
    let i := Instr.st .one .d (.v 2) (.v 0) 3 .dflt
    let v := sceneView i
    let es := elems v i 3 .wr 8 (.v 0)
    let r := v.request i .store 3 .dflt (spread (v.inOrder i.cls es) 1 8 fun k e a =>
      ⟨e.mask, a, 8, v.dataAt i (.v 2) k e.slot % 2 ^ 64, 0, [], false⟩) []
    Plain (scene i) v ∧ Ready i (scene i) v ∧ v.resolve i 3 .wr 8 (.v 0) = .ok es ∧ AccessClear v .store r :=
  ⟨scene_plain _, ready_of (by decide +kernel), by decide +kernel, clearB_sound (by decide +kernel)⟩

theorem witness_AtomicResults :
    (let i := Instr.atom .cas .i64 (.v 6) (.v 0) 5 .dflt
      let v := sceneView i
      let es := elems v i 5 .at_ 8 (.v 0)
      let r := v.request i (.atom .cas .i64 true) 5 .dflt (spread (v.inOrder i.cls es) 1 8 fun _ e a =>
        ⟨e.mask, a, 8, (v.rd i (.v 6) e.slot).toNat % 2 ^ 64, v.dataAt i (.v 6) 1 e.slot % 2 ^ 64, [rkey 6 e.slot], false⟩)
        (missedKeys (v.inOrder i.cls es) 6 1)
      Ready i (scene i) v ∧ v.resolve i 5 .at_ 8 (.v 0) = .ok es ∧ AccessClear v .load r) ∧
    (let i := Instr.atom2 .addBf16 .zr (.v 1) 2 .dflt
      let v := sceneView i
      let es := elems v i 2 .at_ 4 (.v 1)
      let r := v.request i (.atom2 .addBf16 false) 2 .dflt (spread (v.inOrder i.cls es) 1 4 fun _ e a =>
        ⟨e.mask, a, 4, (v.rd i .zr e.slot).toNat % 2 ^ 32, 0, [rkey 126 e.slot], false⟩)
        (missedKeys (v.inOrder i.cls es) 126 1)
      Ready i (scene i) v ∧ v.resolve i 2 .at_ 4 (.v 1) = .ok es ∧ AccessClear v .store r) :=
  ⟨⟨ready_of (by decide +kernel), by decide +kernel, clearB_sound (by decide +kernel)⟩,
    ready_of (by decide +kernel), by decide +kernel, clearB_sound (by decide +kernel)⟩

/-- The scene with the line of byte 0 in core 0's L1, the value 7 at its start. -/
def warm (i : Instr) : State :=
  { scene i with
    mem := Memory.writeNat [] 0x20000 8 7
    cores := [(0, { CoreSt.start with l1 := [(0x4000, 7)], l1valid := (List.range 8).map fun k => 0x4000 + k })] }
def warmView (i : Instr) : View := { sceneView i with s := warm i }

theorem warm_view (i : Instr) : (warm i).view = some (warmView i) := rfl

theorem warm_coherent (i : Instr) : (warm i).l1Coherent 0 :=
  ⟨(by decide +kernel : ∀ w ∈ (List.range 8).map (fun k => 0x4000 + k), (warm .nop).owner.find w ≠ some 0 →
    Sparse.read [(0x4000, (7 : Word))] w = w64 ((warm .nop).homeRead (8 * w) 8)), fun _ h => (nomatch h)⟩

/-- ReadIssued: a load and a tile move that L1 serves at issue. -/
theorem witness_ReadBoundAtIssue :
    (let i := Instr.ld .one false .d (.v 4) .zr 1 .dflt
      let v := warmView i
      let es := elems v i 1 .rd 8 .zr
      let r := v.request i (.load false 8) 1 .dflt (spread (v.inOrder i.cls es) 1 8 fun k e a =>
        ⟨e.mask, a, 8, 0, 0, [rkey (4 + k) e.slot], false⟩) (missedKeys (v.inOrder i.cls es) 4 1)
      let f := (warm i).locateReq v.ctx r
      Ready i (warm i) v ∧ v.resolve i 1 .rd 8 .zr = .ok es ∧ AccessClear v .load r ∧
        f.s.bindsNow v.who r.pol (f.locs.flatMap Prod.snd) = true ∧ (warm i).poison = [] ∧ v.l.traced = false ∧
        (warm i).ownStores v.uid (warm i).nextId = []) ∧
    (let i := Instr.mldSb false 6 .zr 2 .dflt
      let v := { warmView i with s := (warm i).setCores [(0, { (warm i).core 0 with l1valid := (List.range 1024).map fun k => 0x4000 + k })] }
      let es := (tileCheck v 2 false true .rd .zr).toOption.getD []
      let r := tileRequest v i .tileIn 2 .dflt true es
      let f := v.s.locateReq v.ctx r
      v.s.tileQueued v.core = false ∧ f.s.bindsNow v.who r.pol (f.locs.flatMap Prod.snd) = true ∧ es ≠ []) :=
  ⟨⟨readyB_sound (warm_view _) (by decide +kernel), by decide +kernel, clearB_sound (by decide +kernel), by decide +kernel,
    by decide +kernel, by decide +kernel, by decide +kernel⟩, by decide +kernel⟩

/-- A view with another record in buffer register 1, and x in v1 at position 0. -/
def recordView (i : Instr) (r : BitVec 256) (x : Nat) : View :=
  { sceneView i with p := { scenePane with bufs := [(1, r)], regs := [(rkey 1 0, w64 x)] } }

/-- ElementAddresses, clause by clause: a per-member record under a scalar form; a reserved field; no permission; the first index
past the extent under OOB 1; a misaligned base; the last index. -/
theorem witness_ElementAddresses :
    (let i := Instr.ld .one false .d (.s 1) (.s 0) 1 .dflt;
      i.cls ≠ .vec ∧ BufRec.mmode ((recordView i (BufRec.ofWords 0 (256 + 7 * 2 ^ 48) 4096 (2 ^ 11)) 0).p.buf 1) = 1) ∧
    (let i := Instr.ld .one false .d (.v 2) (.v 1) 1 .dflt
      let v := recordView i (BufRec.ofWords (2 ^ 57) (256 + 7 * 2 ^ 48) 4096 0) 0;
      BufRec.mmode (v.p.buf 1) = 0 ∧ BufRec.malformed (v.p.buf 1) = true) ∧
    (let i := Instr.ld .one false .d (.v 2) (.v 1) 1 .dflt
      let v := recordView i (BufRec.ofWords 0 (256 + 6 * 2 ^ 48) 4096 0) 0;
      BufRec.malformed (v.p.buf 1) = false ∧ Perm.rd.granted (v.p.buf 1) = false) ∧
    (let i := Instr.ld .one false .d (.v 2) (.v 1) 1 .dflt
      let v := recordView i (BufRec.ofWords 0 (256 + 7 * 2 ^ 48) 4096 (2 ^ 13)) 4096;
      BufRec.malformed (v.p.buf 1) = false ∧ Perm.rd.granted (v.p.buf 1) = true ∧ BufRec.oob (v.p.buf 1) = 1 ∧
        0 ∈ v.slots i ∧ BufRec.extent (v.p.buf 1) ≤ (v.rd i (.v 1) 0).toNat) ∧
    (let i := Instr.ld .one false .d (.v 2) (.v 1) 1 .dflt
      let v := recordView i (BufRec.ofWords 4 (256 + 7 * 2 ^ 48) 4096 0) 4095;
      0 ∈ v.slots i ∧ (v.rd i (.v 1) 0).toNat < BufRec.extent (v.p.buf 1) ∧ (4 + 4095 * 256) % 8 ≠ 0) ∧
    (let i := Instr.ld .one false .d (.v 2) (.v 1) 1 .dflt
      let v := recordView i (BufRec.ofWords 0 (256 + 7 * 2 ^ 48) 4096 (2 ^ 13)) 4095;
      BufRec.malformed (v.p.buf 1) = false ∧ Perm.rd.granted (v.p.buf 1) = true ∧ BufRec.mmode (v.p.buf 1) = 0 ∧
        ∀ q ∈ v.slots i, (v.rd i (.v 1) q).toNat < BufRec.extent (v.p.buf 1) ∧ (v.rd i (.v 1) q).toNat * 256 % 8 = 0) := by
  decide +kernel

/-- R127: the last element's address under zero, and the clamp past it. -/
theorem test_addresses : ((elems (recordView (.ld .one false .d (.v 2) (.v 1) 1 .dflt)
      (BufRec.ofWords 0 (256 + 7 * 2 ^ 48) 4096 0) 4095) (.ld .one false .d (.v 2) (.v 1) 1 .dflt) 1 .rd 8 (.v 1)).head?.map Elem.ea) =
      some (some (4095 * 256)) ∧
    ((elems (recordView (.ld .one false .d (.v 2) (.v 1) 1 .dflt)
      (BufRec.ofWords 0 (256 + 7 * 2 ^ 48) 4096 (2 * 2 ^ 13)) 4096) (.ld .one false .d (.v 2) (.v 1) 1 .dflt) 1 .rd 8 (.v 1)).head?.map
        Elem.ea) = some (some (4095 * 256)) := by decide +kernel

/-- TranslationOfOneLine: a context without tables, and tables that map a page for reading and writing. -/
theorem witness_TranslationOfOneLine : ((State.reset.ctx 0).ptroot.toNat % 2 = 0) ∧
    (let s := State.reset.withFetchWord 32 0x60500000;
      (s.ctx 0).ptroot.toNat % 2 = 1 ∧ ({ s with tlb := [] } : State).tlb.find (tlbKey 0 0) = none ∧
        (match walk s.dev s.mem (s.ctx 0).ptroot.toNat 0 with
        | .leaf l => l.w && decide (frameOf s.dev (bits l.e 16 36 * 65536) = .hbm 0)
        | _ => false) = true) := by decide +kernel

/-- CompletionOfAccesses: a load's reply, a store's registration, writes, and a recall. -/
def inFlight (k : Kind) (w : Work) : State :=
  { scene .nop with pend := [(9, ⟨9, 4, 3, 0, 0, 0, k, 1, 0, 0, false, 0, w⟩)] }

/-- The next state of an instruction or event. -/
def after (i : Instr) (s : State) : Option State :=
  match exec i s with
  | .next t => some t
  | _ => none

theorem witness_CompletionOfAccesses :
    (after (.loadReply 9) (inFlight .load (.regs [(rkey 5 0, 7)] [] [] 0))).map (fun t =>
      (Sparse.read ((t.panes.find 3).getD scenePane).regs (rkey 5 0), t.pend)) = some (7, []) ∧
    (after (.storeRegistrationAck 9) (inFlight .store (.store [⟨0x20000, 0, 8, 0x1122, false, false⟩]))).map (fun t =>
      (t.mem.readNat 0x20000 8, t.owner.find 0x4000)) = some (0x1122, some 0) ∧
    (after (.writeAcknowledged 9) (inFlight .store (.write [⟨0x20000, 0, 2, 0x1122, false, false⟩]))).map (fun t =>
      (t.mem.readNat 0x20000 8, t.owner)) = some (0x1122, []) ∧
    (after (.writeAcknowledged 9) (inFlight .matrix (.rqt [] [] 16))).isSome = true ∧
    ((after (.writeAcknowledged 9) (inFlight .matrix (.rqt [⟨0x20000, 0, 8, 5, false, false⟩] [] 16))).bind fun t => t.workOf 9) =
      some .acking ∧
    (after (.storeRegistrationAck 9) (inFlight .other .acking)).map (fun t => t.pend.length) = some 0 ∧
    (let locs : List (Acc × List Piece) := [(⟨fullMask 1, 0, 8, 0, 0, [rkey 5 0], false⟩,
        [⟨0, 8, 0x20000, ⟨(placedPage + 7) * 4, 0⟩⟩])]
      let r : MemReq :=
        ⟨.load false 8, .ld .one false .d (.v 5) .zr 1 .dflt, 0, 0, 1, 1, none, .dflt, locs.map Prod.fst, [], fullMask 1, 0⟩
      let s := { inFlight .load (.reads r locs) with mem := Memory.writeNat [] 0x20000 8 7 };
      r.op.servedAtHome = true ∧ (s.pend.vals.all fun p => s.servable p r locs) = true ∧
        ((after (.loadReply 9) s).bind fun t => t.workOf 9) = some (.regs [(rkey 5 0, 7)] [] [] 0)) ∧
    (after (.writeAcknowledged 9) (inFlight .store (.ordered []))).isSome = true ∧
    (after (.registryRecall 0x20000) { scene .nop with owner := [(0x4000, 0)] }).map (fun t => t.owner) = some [] := by
  decide +kernel

theorem witness_WatchedWordsAndCounters :
    (let i := Instr.wadr (.v 0) (.v 1) 2
      let v := sceneView i
      let es := elems v i 2 .rd 8 (.v 1)
      let r := v.request i .wadr 2 .dflt (spread (v.inOrder i.cls es) 1 8
        (fun _ e a => ⟨e.mask, a, 8, (v.rd i (.v 0) e.slot).toNat, 0, [rkey 0 e.slot], false⟩)) []
      Ready i (scene i) v ∧ v.resolve i 2 .rd 8 (.v 1) = .ok es ∧ AccessClear v .load r) ∧
    (let i := Instr.ctwt (.s 3) .zr 11
      let v := sceneView i
      let es := elems v i 11 .rd 8 .zr
      let r := { v.request i .ctwt 11 .dev (spread es 1 8 fun _ e a => ⟨e.mask, a, 8, v.scalar (.s 3), 0, [], false⟩) [] with
        node := none }
      Ready i (scene i) v ∧ v.resolve i 11 .rd 8 .zr = .ok es ∧ counterRemote v 11 es = none ∧ AccessClear v .other r) ∧
    (let i := Instr.ctinc (.lit 1) (.s 1) 11
      let v := sceneView i
      let es := elems v i 11 .at_ 8 (.s 1)
      let r := { v.request i .ctinc 11 .dev (spread es 1 8 fun _ e a => ⟨e.mask, a, 8, v.scalar (.lit 1), 0, [], false⟩) [] with
        node := none }
      Ready i (scene i) v ∧ v.resolve i 11 .at_ 8 (.s 1) = .ok es ∧ counterRemote v 11 es = none ∧ AccessClear v .store r) ∧
    (after (.sequenceCounterIncrement 9) (inFlight .store (.count ⟨0x20000, 0, 8, 5, false, false⟩))).map (fun t =>
      t.mem.readNat 0x20000 8) = some 5 ∧
    (after (.loadReply 9) (withUnit (fun u => { u with park := .wadr 9 })
      (inFlight .load (.wadr [⟨some 0x20000, rkey 0 0, 0, some 3⟩])))).map (fun t =>
        (Sparse.read ((t.panes.find 3).getD scenePane).regs (rkey 0 0), (t.units.find 4).map UnitSt.park)) = some (3, some .ready) :=
  ⟨⟨ready_of (by decide +kernel), by decide +kernel, clearB_sound (by decide +kernel)⟩,
    ⟨ready_of (by decide +kernel), by decide +kernel, by decide +kernel, clearB_sound (by decide +kernel)⟩,
    ⟨ready_of (by decide +kernel), by decide +kernel, by decide +kernel, clearB_sound (by decide +kernel)⟩,
    by decide +kernel, by decide +kernel⟩

theorem witness_ScratchLaneStoreAndBufferRegisters :
    (∀ i ∈ ([.bsetS 4 96, .bget (.s 5) 4 2] : List Instr), ∃ v, Ready i (scene i) v) ∧
    (let own := fun (i : Instr) (size w : Nat) (x : Opnd) => readyB i (sceneView i) &&
      (match (sceneView i).resolveOwn i size w w x with
      | .ok es => decide (es ≠ [])
      | .error _ => false);
      own (.lds false false .w (.v 3) (.v 1)) placedLaunch.scr 4 (.v 1) = true ∧
      own (.sts false .w (.v 3) (.v 1)) placedLaunch.scr 4 (.v 1) = true ∧
      own (.ldl false true .h (.v 3) (.v 1)) placedLaunch.L 2 (.v 1) = true ∧
      own (.stl false .d (.v 3) (.v 1)) placedLaunch.L 8 (.v 1) = true) ∧
    (let i := Instr.lds false false .w (.v 3) (.v 1)
      let v := recordView i openRecord 65533;
      0 ∈ v.slots i ∧ v.l.scr < (v.rd i (.v 1) 0).toNat + 4) :=
  ⟨ready_all (by decide +kernel), by decide +kernel, by decide +kernel⟩

theorem witness_CopyBatchResults :
    (∀ i ∈ ([.cpy 4 (.v 3) (.v 0) 6 .dflt, .cpyIn 1 (.v 3) (.v 0) 1 .dflt, .cpyOut 0 (.v 3) (.v 0) 1 .dflt, .cseal, .cwait 15] :
      List Instr), ∃ v, Ready i (scene i) v) ∧
    (let i := Instr.cpy 4 (.v 3) (.v 0) 6 .dflt
      let v := sceneView i;
      perMember v i 6 = false ∧ (match copyGlobal v i 6 .rd 64 (.v 0) with
        | .ok es => decide (es ≠ [])
        | .error _ => false) = true) :=
  ⟨ready_all (by decide +kernel), by decide +kernel⟩

/-- The engine's baton is free, and its queue and the unit's count have room. -/
def engineB (v : View) : Bool :=
  decide ((v.s.core v.core).baton = none) && decide (v.s.batonWaiters v.core = []) &&
    decide ((v.s.core v.core).engQ.length < 16) && !v.countFull .matrix

theorem engineB_sound {s : State} {v : View} (hs : v.s = s) (h : engineB v = true) : EngineFree s v := by
  subst hs
  simp only [engineB, Bool.and_eq_true, decide_eq_true_eq, Bool.not_eq_true'] at h
  obtain ⟨⟨⟨h1, h2⟩, h3⟩, h4⟩ := h
  exact ⟨.inr ⟨h1, by simp [h2]⟩, h3, h4⟩

/-- Every engine operation of the statements issues with the engine free. -/
theorem witness_EngineFree : EngineFree (scene .mtake) (sceneView .mtake) := engineB_sound rfl (by decide +kernel)

theorem witness_TileMovesAndBaton :
    (∀ i ∈ ([.mtake, .mpass 1, .mpassFree] : List Instr), ∃ v, Ready i (scene i) v) ∧
    (let tile := fun (i : Instr) (n : Nat) (k : Perm) (op : MemOp) (ms sb : Bool) =>
        let v := sceneView i
        let es := (tileCheck v n ms sb k .zr).toOption.getD []
        let r := tileRequest v i op n .dflt sb es
        let f := (scene i).locateReq v.ctx r
        readyB i v && engineB v && decide (tileCheck v n ms sb k .zr = .ok es) && decide (es ≠ []) && decide (ownershipLines v r = 0) &&
          decide (accessTrap v r f = none ∧ f.busy = none ∧ f.faults ++ behindPages (scene i) v.uid r.accs = []);
      tile (.mld false .f64 1 .zr 2 .dflt) 2 .rd .tileIn false false = true ∧
      tile (.mldSb false 6 .zr 2 .dflt) 2 .rd .tileIn false true = true ∧
      tile (.mst true .bf16 3 .zr 7 .dflt) 7 .wr .tileOut true false = true ∧
      tile (.mstSb false 3 .zr 7 .dflt) 7 .wr .tileOut false true = true) :=
  ⟨ready_all (by decide +kernel), by decide +kernel⟩

theorem witness_RequantisingAndStackJobIssue :
    (let i := Instr.rqt .uni .zr 7 .dflt
      let v := sceneView i
      let r := { v.request i .rqt 7 .dflt (rqtAccs v 7 (v.scalar .zr)) [] with node := none };
      Ready i (scene i) v ∧ rqtTrap v 7 (v.scalar .zr) = none ∧ AccessClear v .matrix r) ∧
    (∀ i, i = Instr.smv .bf16w .zr 8 ∨ i = Instr.smvw .q4w .zr 8 →
      let v := sceneView i
      let es := elems v i 8 .rd 128 .zr
      let r := v.request i .job 8 .dev (spread es 1 128 fun _ e a => ⟨e.mask, a, 128, 0, 0, [], false⟩) [];
      Ready i (scene i) v ∧ v.resolve i 8 .rd 128 .zr = .ok es ∧ AccessClear v .matrix r) := by
  refine ⟨⟨ready_of (by decide +kernel), by decide +kernel, clearB_sound (by decide +kernel)⟩, ?_⟩
  rintro i (rfl | rfl)
  · exact ⟨ready_of (by decide +kernel), by decide +kernel, clearB_sound (by decide +kernel)⟩
  · exact ⟨ready_of (by decide +kernel), by decide +kernel, clearB_sound (by decide +kernel)⟩

/-- A block whose largest value is the least and the greatest that `requant` holds. -/
theorem witness_requant : (∃ y ∈ [(1 : Int), 0], y ≠ 0) ∧ ∀ y ∈ [(96 * 2 ^ 63 : Int), -(96 * 2 ^ 63)], y.natAbs ≤ 96 * 2 ^ 63 := by
  decide +kernel

/-- The scene inside its pane's save routine. -/
def saving (i : Instr) : State := withUnit (fun u => { u with level := .save }) (scene i)
def savingView (i : Instr) : View :=
  { sceneView i with s := saving i, u := { sceneUnit i with level := .save } }

theorem saving_view (i : Instr) : (saving i).view = some (savingView i) := rfl

theorem witness_SaveAndRestoreResults :
    let place := fun (i : Instr) (k : Perm) => readyB i (savingView i) &&
      (match imagePlace (savingView i) i 4 k .zr with
        | .ok es => decide (es ≠ [])
        | .error _ => false);
    place (.psavePane .zr 4) .wr = true ∧ place (.psaveMx .zr 4) .wr = true ∧ place (.psaveLx .zr 4) .wr = true ∧
    place (.prestPane .zr 4) .rd = true ∧ place (.prestMx .zr 4) .rd = true ∧ place (.prestLx .zr 4) .rd = true ∧
    (let i := Instr.prestLx .zr 4
      let s := { saving i with launches := [(1, { placedLaunch with words := placedRecord.set 5 (2 ^ 32 + 65536) })] };
      onView s fun v =>
        let es := (imagePlace v i 4 .rd .zr).toOption.getD []
        readyB i v && v.anyBusySlot.isNone && clearB v .load (imageRequest v i (.restore 2) 4 (640 * v.l.lslots) 0 false es)) = true ∧
    (after (.loadReply 9) (inFlight .load (.install 2 (some (.lx [])) false))).isSome = true := by decide +kernel

theorem witness_TraceInstructionResults :
    (∀ i ∈ ([.dtst (.v 5) (.v 2) 4, .trec (.v 2) 4, .trecWide] : List Instr), ∃ v, Ready i (scene i) v) ∧
    (let i := Instr.trec (.v 2) 4
      let v := sceneView i
      let es := elems v i 4 .rd 1 (.v 2)
      let f := (scene i).locateTrace v.ctx (v.request i .trec 4 .dflt
        (spread (v.inOrder i.cls es) 1 1 fun _ e a => ⟨e.mask, a, 1, 0, 0, [], false⟩) []).accs;
      v.resolve i 4 .rd 1 (.v 2) = .ok es ∧ f.traps = [] ∧ f.faults = []) :=
  ⟨ready_all (by decide +kernel), by decide +kernel⟩

theorem witness_DeviceSideLaunchResults : ∀ i ∈ ([.glaunch .zr 2, .glaunchNb .zr 2, .tlaunch .zr 2, .rerun .zr 2] : List Instr),
    let v := sceneView i
    let es := elems v i 2 .rd 128 .zr
    let s1 := { scene i with nextId := 6 };
    Ready i (scene i) v ∧ v.resolve i 2 .rd 128 .zr = .ok es ∧ (scene i).allPerformed v.uid = true ∧ v.u.fails = [] ∧
      v.pendingFull = false ∧ AccessClear { v with s := s1 } .load
        (v.request i (.record 5) 2 .dflt (spread es 1 128 fun _ e a => ⟨e.mask, a, 128, 0, 0, [], false⟩) []) := by
  intro i hi
  refine ⟨ready_of ?_, ?_, ?_, ?_, ?_, clearB_sound ?_⟩ <;> revert i <;> decide +kernel

/-! ## Causes, handlers, clauses and the step -/

/-- CommonCausesInOrder, cause by cause: a cause that waits; ILLEGAL of the word and of the unit's place; an empty mask; PRIV; REGS;
SLOT; HAZARD; PARTIAL; POISON. -/
theorem witness_CommonCausesInOrder :
    (onView (withUnit (fun u => { u with defer := [⟨0x0E, 0, 0, 0, 0, 0, 0⟩] }) (scene .nop)) fun v => v.u.dueDeferred.isSome) = true ∧
    (Instr.pset 48).illegal = some 7 ∧ (earlyOf .eret (sceneView .eret)).illegal = some 7 ∧
    (onView (withUnit (fun u => { u with xm := 0 }) (scene (.iadd .i64 (.v 0) (.v 1) (.v 2)))) fun v =>
      decide (v.E = 0) && !actsEmpty (.iadd .i64 (.v 0) (.v 1) (.v 2)) && !needsFull (.iadd .i64 (.v 0) (.v 1) (.v 2))) = true ∧
    privIndex (.swr 0x40 (.s 2)) = some 0x40 ∧
    (onView (withPane (fun p => { p with vcnt := 8 }) (scene (.mov (.v 8) (.v 7)))) fun v =>
      (namedCodes (.mov (.v 8) (.v 7))).find? (undeclared v.p v.l) == some 8) = true ∧
    (onView (withPane (fun p => { p with regs := [(rkey 96 0, 64)] }) (scene (.lclr (.s 0)))) fun v =>
      (earlyOf (.lclr (.s 0)) v).rank4.isSome) = true ∧
    (onView (withUnit (fun u => { u with uncov := [⟨1, fullMask 1, .load, 1, 0⟩] }) (scene (.mov (.v 8) (.v 1)))) fun v =>
      ((hazardCodes (.mov (.v 8) (.v 1))).findSome? (hazardOn v)).isSome) = true ∧
    (onView (withUnit (fun u => { u with xm := 1 }) (scene (.mmd 2 1 5 ⟨false, false, false, false⟩))) fun v =>
      needsFull (.mmd 2 1 5 ⟨false, false, false, false⟩) && v.notFull) = true ∧
    (onView { scene (.mov (.v 8) (.v 1)) with poison := [.reg 3 1 0 0] } fun v =>
      (poisonTrap v (.mov (.v 8) (.v 1))).isSome) = true := by decide +kernel

/-- DeliveryAndReturn: the levels that `eret` leaves, and the four ends of a raised cause. -/
theorem witness_eret : ∀ l ∈ [Level.user, .sup, .nested, .save, .watchdog, .resume],
    onView (withUnit (fun u => { u with level := l }) (scene .eret)) (readyB .eret) = true := by decide +kernel

/-- R232: a user cause goes to uhv, or to phv in supervisor mode, and ends the context where both are 0. -/
theorem test_delivery :
    ((after (.trap 1) (withPane (fun p => { p with uhv := 0x40 }) (scene (.trap 1)))).bind fun t => t.units.find 4).map
      (fun u => (u.pc, u.level, u.sup, u.ecause, u.efd, u.epc)) = some (0x40, .user, false, 0x11, 1, 2 ^ 59) ∧
    ((after (.trap 1) (withCtx (fun c => { c with phv := 0x80 }) (scene (.trap 1)))).bind fun t => t.units.find 4).map
      (fun u => (u.pc, u.level, u.sup, u.ecause)) = some (0x80, .sup, true, 0x11) ∧
    (after (.trap 1) (scene (.trap 1))).map (fun t => t.units) = some [] := by decide +kernel

/-- R233, R309: `eret` resumes at epc's clause and word, in user mode. -/
theorem test_eret : ((after .eret (withUnit (fun u => { u with level := .sup, sup := true, epc := 3 * 2 ^ 59 + 0x80 })
    (scene .eret))).bind fun t => t.units.find 4).map (fun u => (u.pc, u.idx, u.level, u.sup, u.entered)) =
    some (0x80, 3, .none, false, false) := by decide +kernel

/-- The scene with its unit before a clause, and a clause header placed (R258). -/
def beforeClause (h : Nat) : State :=
  withUnit (fun u => { u with entered := false, idx := 0, words := [] }) { scene .nop with mem := Memory.writeNat [] 0x20000 4 h }

/-- ClauseEntryAndReservedWords: headers of no words, of a must-be-0 bit, of a wait that does not hold, and of one word. -/
theorem witness_ClauseEntryAndReservedWords :
    (∀ q ∈ [(0x0E000000, 0), (0x10000001, 1), (0x1E000000, 1), (0x1EFFFF00, 1)],
      onView (beforeClause q.1) (fun v => v.u.dueDeferred.isNone && (match (beforeClause q.1).fetchClause v.ctx v.u.pc with
        | .ok hdr ws _ => decide (hdr.toNat = q.1) && decide (ws.length = q.2)
        | _ => false)) = true) ∧
    (let s := { beforeClause 0x1E000000 with pend := [(9, ⟨9, 4, 3, 0, 0, 0, .load, 0, 0, 0, false, 0, .none⟩)] };
      onView s (fun v => !s.fieldsHold v.uid v.u 0 0 0 0)) = true ∧
    nextInstr { sceneUnit .nop with words := [0] } = .reservedEncoding 0 1 ∧
    nextInstr { sceneUnit .nop with words := [0x60500001] } = .reservedEncoding 0x60500001 3 ∧
    nextInstr { sceneUnit .nop with hdr := 0 } = .reservedEncoding 0x60500000 6 ∧
    nextInstr { sceneUnit .nop with words := [0x218080FF] } = .reservedEncoding 0x218080FF 9 := by decide +kernel

/-- StepRunsDecoded: after reset with a word placed, the next step runs it. -/
theorem witness_StepRunsDecoded : (match (State.reset.withFetchWord 32 0x0410E0E2).nextIssue with
    | some k => k.u.entered && decide (decode k.u.word k.u.rest = .ok (.iadd .i64 (.w 3) (.w 1) (.s 2))) &&
      decide (clsOfMajor (majorOf k.u.word) = some 0) && decide (bits k.u.hdr.toNat 25 3 = 7) &&
      ((State.reset.withFetchWord 32 0x0410E0E2).casOfPane k.u.pane).isSome
    | none => false) = true := by decide +kernel

theorem witness_StepKeepsMemoryCanonical : State.reset.memWf = true ∧ (State.reset.withFetchWord 32 0x60500000).memWf = true ∧
    (match step State.reset with
      | .next t => t.memWf
      | _ => false) = true := by decide +kernel

theorem witness_DecodeEncodeAgree : (Instr.iadd .i64 (.w 3) (.w 1) (.s 2)).hasWord = true ∧
    (Instr.iadd .i64 (.w 3) (.w 1) (.s 2)).wellFormed = true ∧ Instr.wellFormed (.bmw 4 [⟨0, 0⟩, ⟨47, 1⟩, ⟨1, 2⟩, ⟨63, 3⟩]) = true := by
  decide +kernel

/-! ## Events: states in which each occurs -/

/-- Work in flight whose unit is the scene's, in its first ac past an ac. -/
def working (w : Work) : State := inFlight .other w

/-- An engine operation at the head of core 0's queue, with the pane holding the baton. -/
def engineState (i : Instr) (M : MxSt) : State :=
  { inFlight .matrix .none with cores := [(0, { CoreSt.start with
      mx := M
      baton := some 3
      engQ := [⟨9, 4, 3, 1, i, 0, [], [], 0, 0⟩] })] }

theorem witness_EngineOperationResults : ∀ i ∈ ([.mmi .i8 0 1 2 ⟨false, false, false, true⟩, .macz 3, .maczF32 3, .manc 2 2 3,
      .mmq 6 7 false false false, .mtlOut 4 5, .mtlIn 4 4, .mtlSb 4 6, .mdrn .f64 2 2 0] : List Instr),
    ((engineState i .clear).engineDue 0).isSome = true ∧ (engineState i .clear).poison = [] := by decide +kernel

/-- R111: `macz` frees an a-register's marks, and its operation leaves the queue. -/
theorem test_macz : (after (.engineOpComplete 0) (engineState (.macz 3) ⟨[], [(3, ⟨true, [], 1, 2, 3⟩)], []⟩)).map (fun t =>
    (((t.core 0).mx.acc 3).fp32, ((t.core 0).mx.acc 3).rowM, (t.core 0).engQ.length)) = some (false, 0, 0) := by decide +kernel

def oneCopy : CopyOp := ⟨fullMask 1, 8, 0, 0x100, false, false, openRecord, openRecord, .dflt, false⟩

/-- A state with the value 7 in the first 8 bytes of the scene's first page. -/
def withSeven (s : State) : State := { s with mem := Memory.writeNat s.mem 0x20000 8 7 }

/-- A halo command of one 8-byte row from index 0 to index 1, without a completion word. -/
def haloCmd : Command := ⟨0, [2 ^ 56 + 8, 0, 1, 0, 0], [openRecord, openRecord, 0, 0], 1, 0, none, fullMask 1⟩
/-- A collective minimum of one element of this node alone, into index 1. -/
def collCmd : Command := ⟨2, [0x12 * 2 ^ 56, 0, 0, 1, 2 ^ 32, 0], [openRecord, openRecord, 0, 0], 1, 0, none, fullMask 1⟩

theorem witness_EngineVisits :
    (∀ w ∈ [Work.copy 0 [oneCopy] [] [] 0, .halo haloCmd [] [] 0, .coll collCmd [] [] [] 0, .coll collCmd [5] [] [] 3,
        .coll collCmd [5] [] [] 4, .coll collCmd [5] [] [] 5],
      let s := withSeven (working w)
      s.pend.vals.all (fun p => s.boundBefore p && s.engineTurn p && (s.panes.find p.pane).isSome &&
        ((s.launchOfPane p.pane).map fun l => !l.traced && !l.det).getD false && (s.ctx p.ctx).dmap == 0 && s.poison == []) = true) ∧
    (let s := withSeven (working .none)
      let a := s.planCopies 0 [oneCopy];
      a.busy = false ∧ a.faults = [] ∧ a.plans.length = 1 ∧ (a.plans.all fun pl => pl.trap.isNone && !pl.op.dead) = true) ∧
    (after (.copyBatchComplete 9) (withSeven (working (.copy 0 [oneCopy] [] [] 0)))).map (fun t =>
      (t.mem.readNat 0x20100 8, t.pend.length)) = some (7, 0) ∧
    ((after (.copyBatchComplete 9) (withSeven (working (.copy 0 [{ oneCopy with dst := 2 ^ 20 * 65536 }] [] [] 0)))).map fun t =>
      t.mem.readNat 0x20000 8) = some 7 ∧
    (after (.haloCommandComplete 9) (withSeven (working (.halo haloCmd [] [] 0)))).map (fun t =>
      (t.mem.readNat 0x20100 8, t.pend.length)) = some (7, 0) ∧
    (after (.haloCommandComplete 9) (working (.halo { haloCmd with cw := some 0x200 } [] [] 32))).map (fun t =>
      (t.mem.readNat 0x20200 8, t.pend.length)) = some (1, 0) ∧
    (after (.collectiveCommandComplete 9) (working (.coll { collCmd with cw := some 0x200 } [] [] [] 35))).map (fun t =>
      (t.mem.readNat 0x20200 8, t.pend.length)) = some (2 ^ 63 + 1, 0) ∧
    ((after (.collectiveCommandComplete 9) (withSeven (working (.coll collCmd [] [] [] 0)))).bind fun t => t.workOf 9) =
      some (.coll collCmd [7] [] [] 3) ∧
    ((after (.collectiveCommandComplete 9) (working (.coll collCmd [7] [] [] 3))).bind fun t => t.workOf 9) =
      some (.coll collCmd [7] [] [] 4) ∧
    (after (.collectiveCommandComplete 9) (working (.coll collCmd [7] [] [] 4))).map (fun t =>
      (t.mem.readNat 0x20100 8, t.workOf 9)) = some (7, some (.coll collCmd [7] [] [] 5)) ∧
    (after (.collectiveCommandComplete 9) (working (.coll collCmd [7] [] [] 5))).map (fun t => t.pend.length) = some 0 := by
  decide +kernel

/-- A job of one row of one BF16 weight at 0, one vector of one FP32 at 0x100, Y at 0x200 and its completion word at 0x300. -/
def jobWords : List Nat :=
  [0, 256 + 7 * 2 ^ 48, 16, 0, 0x100, 256 + 7 * 2 ^ 48, 16, 0, 0x200, 256 + 7 * 2 ^ 48, 16, 0, 1 + 2 ^ 32, 1, 2 ^ 63 + 0x100, 0]
def jobReq : MemReq := ⟨.job, .smv .bf16w .zr 8, 0, 0, 1, 8, none, .dev, [], [], fullMask 1, 0⟩

/-- 1.0 × 7.0 in FP32, and status 1 of words that are all 0. -/
theorem witness_StackJobsAndBatonGrants :
    (let s := working (.job jobWords jobReq [] 0 false)
      let t := { s with mem := Memory.writeNat (Memory.writeNat [] 0x20000 2 0x3F80) 0x20100 4 0x40E00000 };
      (Job.ofWords jobWords).bad .bf16w false = false ∧ (Job.ofWords jobWords).beyond = false ∧
      (t.pend.vals.all fun p => t.boundBefore p && t.jobTurn p jobWords 0) = true ∧ remoteNode s.dev (Job.ofWords jobWords).yrec = none ∧
      (after (.stackJobComplete 9) t).map (fun t => (t.mem.readNat 0x20200 4, t.mem.readNat 0x20300 8)) = some (0x40E00000, 1)) ∧
    (Job.ofWords (List.replicate 16 0)).bad .bf16w false = true ∧
    (after (.stackJobComplete 9) (working (.job (List.replicate 16 0) jobReq [] 0 false))).map (fun t => t.pend.length) = some 0 ∧
    (let s := { withUnit (fun u => { u with park := .wait .baton }) (scene .mtake) with now := 1 };
      (s.batonNext 0).isSome = true ∧ (after (.batonGrant 0) s).map (fun t => (t.core 0).baton) = some (some 3)) := by
  decide +kernel

/-- One request to node 5, for the line at 0. -/
def oneReq : RemReq where
  line := 0
  addr := 2 ^ 41
  mask := fullMask 1
  node := 5
  host := false
  kind := .load
  window := none
  charge := 16
  timeout := 100
  answer := none
def loadReq : MemReq :=
  ⟨.load false 8, .ld .one false .d (.v 0) (.v 1) 1 .dflt, 0, 0, 1, 1, some 5, .dflt, [⟨fullMask 1, 0, 8, 0, 0, [rkey 0 0], false⟩], [], fullMask 1, 0⟩

/-- RemoteRequestsAndReplies: one of two answers, the last of a load, a failed one, a store's timeout, and a peer's requests. -/
theorem witness_RemoteRequestsAndReplies :
    ((after (.remoteReply 9 0 0 7 3) (working (.remote loadReq [oneReq, oneReq]))).bind fun t => t.workOf 9) =
      some (.remote loadReq [{ oneReq with answer := some (0, 7) }, oneReq]) ∧
    (after (.remoteReply 9 0 0 7 3) (withUnit (fun u => { u with park := .work 9 }) (working (.remote loadReq [oneReq])))).map
      (fun t => (Sparse.read ((t.panes.find 3).getD scenePane).regs (rkey 0 0), t.pend.length)) = some (7, 0) ∧
    ((after (.remoteReply 9 0 2 0 3) (withCtx (fun c => { c with phv := 0x80 }) (withUnit (fun u => { u with park := .work 9 })
      (working (.remote loadReq [oneReq]))))).bind fun t => t.units.find 4).map (fun u => (u.ecause, u.pc)) = some (0x0A, 0x80) ∧
    ((after (.remoteTimeout 9) { working (.remote { loadReq with op := .store } [oneReq]) with now := 100 }).bind fun t =>
      t.units.find 4).map (fun u => u.fails.length) = some 1 ∧
    (let r : Inbound := ⟨5, .load, 0, 8, 0, .add, .i64, 0, 0, none, true⟩
      let keyed := (scene .nop).setDev { (scene .nop).dev with keys := [(5, ⟨0, none, false, [], false⟩)] };
      (after (.inboundRemoteRequest r) (scene .nop)).map (fun t => t.dev.badTags) = some 1 ∧
      (after (.inboundRemoteRequest { r with tagOk := false }) keyed).map (fun t => t.dev.badTags) = some 1 ∧
      (after (.inboundRemoteRequest r) (withSeven keyed)).map (fun t => t.dev.answers) = some [⟨2 ^ 32 + 5, [0, 7]⟩] ∧
      (after (.inboundRemoteRequest { r with kind := .store, data := 9 }) keyed).map (fun t => t.mem.readNat 0x20000 8) = some 9 ∧
      (after (.inboundRemoteRequest { r with kind := .atomic, data := 9 }) (withSeven keyed)).map (fun t =>
        t.mem.readNat 0x20000 8) = some 16 ∧
      (after (.inboundRemoteRequest { r with off := 2 ^ 35 }) keyed).map (fun t => t.dev.answers) = some [⟨2 ^ 32 + 5, [4, 0]⟩]) := by
  decide +kernel

/-- A context whose fring names a descriptor at 0x1000 of the first page: ring at 0x2000, 2 entries. -/
def ringed (fs : List FaultRec) (s : State) : State :=
  withCtx (fun c => { c with fring := 0x1000, faults := fs })
    { s with mem := Memory.writeNat (Memory.writeNat s.mem 0x21000 8 0x2000) 0x21008 8 1 }

/-- PageFaultRecordsAndReplies: a closed window; a record not answered, dropped, and refused. -/
theorem witness_PageFaultRecordsAndReplies :
    (let s := ringed [⟨5, 0, 1, 0, 0, none⟩] (scene .nop);
      s.closedFaults 0 = [(0, ⟨5, 0, 1, 0, 0, none⟩)] ∧ (s.ctx 0).desc ≠ 0 ∧ s.ringFull 0 = false ∧
      (after (.faultMergeWindow 0) s).map (fun t => (t.mem.readNat 0x22000 8, t.mem.readNat 0x22008 8, t.mem.readNat 0x21010 8)) =
        some (2 ^ 56 + 2 ^ 48, 5 * 65536, 1)) ∧
    (let s := withCtx (fun c => { c with replies := 1 }) (ringed [⟨5, 0, 1, 0, 0, some 0⟩] (scene .nop))
      let ans := fun (k : Nat) => { s with mem := Memory.writeNat s.mem 0x2201F 1 k };
      (ans 1).answerOf 0 0 = 1 ∧
      (after (.pageFaultReply 0) s).map (fun t => ((t.ctx 0).replies, (t.ctx 0).faults.length)) = some (0, 1) ∧
      (after (.pageFaultReply 0) (ans 1)).map (fun t => ((t.ctx 0).replies, (t.ctx 0).faults.length)) = some (0, 0) ∧
      (after (.pageFaultReply 0) (ans 3)).map (fun t => t.units) = some []) := by decide +kernel

/-- WatchdogsFire: a barrier, and a resident time, over their limits in the least setting. -/
theorem witness_WatchdogsFire :
    (let s := { withCtx (fun c => { c with phv := 0x80, wdb := 1, wdp := 1 }) (withCas (fun c => { c with barStart := some 0 })
        (withUnit (fun u => { u with park := .bar, seated := false }) (scene .bar))) with now := 2 ^ 20 + 1 };
      (s.ctx 0).barLimit < s.now ∧ (s.ctx 0).progressLimit < s.now ∧
      (s.diagEntries 2 1).findSome? DiagEntry.uid = some 4 ∧
      ((after (.barrierWatchdog 2) s).bind fun t => t.units.find 4).map (fun u => (u.ecause, u.pc, u.level)) =
        some (0x0C, 0x80, .watchdog) ∧
      ((after (.progressWatchdog 2) s).bind fun t => t.units.find 4).map (fun u => (u.ecause, u.pc, u.level)) =
        some (0x0D, 0x80, .watchdog)) := by decide +kernel

/-- A bind record of the scene's launch. -/
def oneBind (ctx : Nat) : BindRec := ⟨0, ctx, 0, 0, 0, 0, 1, [0], [0]⟩

/-- ResidenceEvents: an expired slice. -/
theorem witness_ResidenceEvents_slice :
    let s := { withCtx (fun c => { c with psv := 0x80, slice := 1 }) (scene .nop) with
      now := 2 ^ 16 + 1, cores := [(0, { CoreSt.start with slices := [(0, 0)], table := [oneBind 1] })] };
    s.sliceOver 0 0 = true ∧ ((after (.sliceExpiry 0 0) s).bind fun t => t.cas.find 2).map CasementSt.phase = some .stopping := by
  decide +kernel

/-- A pane that asks for its whole register file in a core whose other casements hold the rest, at M = 8. -/
def crowded (psv : Word) : State :=
  { withCtx (fun c => { c with psv := psv }) (withUnit (fun u => { u with park := .vgrow 64, seated := false }) (scene (.vgrow (.lit 64))))
    with
    now := 1
    launches := [(1, { placedLaunch with words := placedRecord.set 3 (3 * 2 ^ 60) })]
    cas := (2, placedCasement 0) :: (List.range 16).map fun k => (20 + k, { placedCasement 0 with linear := k + 1 })
    panes := (3, { scenePane with vcnt := 8 }) :: (List.range 16).map fun k =>
      (200 + k, { PaneSt.start (20 + k) 0 (k + 1) (if k = 15 then 8 else 64) with exited := true }) }

/-- A deadlock of `vgrow`. -/
theorem witness_ResidenceEvents_deadlock :
    ((crowded 0x80).youngest ((crowded 0x80).deadlocked 0)).isSome = true ∧ (after (.vgrowDeadlock 0) (crowded 0x80)).isSome = true ∧
    ((crowded 0).youngest ((crowded 0).deadlocked 0)).isSome = true ∧ (after (.vgrowDeadlock 0) (crowded 0)).isSome = true := by
  decide +kernel

/-- A resumption. -/
theorem witness_ResidenceEvents_resumption :
    let s := withCtx (fun c => { c with psv := 0x80 }) (withCas (fun c => { c with phase := .resuming })
      { withPane (fun p => { p with saved := true }) (scene .nop) with units := [] });
    ((after (.resumption 2) s).bind fun t => t.units.find 5).map (fun u => (u.pc, u.ecause, u.level, u.efd)) =
      some (0x80, 0x13, .resume, 1) := by decide +kernel

/-- A swap out and a swap in. -/
theorem witness_ResidenceEvents_swap :
    (let l := { placedLaunch with words := placedRecord.set 11 0x8000 }
      let s := { withUnit (fun u => { u with park := .ctwt 9, seated := false }) (working (.ctwt (some 0x90000) 3)) with
        now := 16385, launches := [(1, l)] };
      s.swappable 3 scenePane (placedCasement 0) l = true) ∧
    (let l := { placedLaunch with words := placedRecord.set 11 0x8000 }
      let p := { scenePane with out := true, outAt := 0, outVa := 0x8000 }
      let s := { scene .nop with now := 2, launches := [(1, l)], panes := [(3, p)] };
      s.returnSlot 3 p (placedCasement 0) l = some 0 ∧ s.spanOk 0 .read 0x8000 l.saveSize = true ∧
      ((after (.swapIn 3) s).bind fun t => t.panes.find 3).map PaneSt.out = some false) := by decide +kernel

/-- The 128 bytes of a record of words. -/
def recordBytes (ws : List Nat) : List Byte := ws.flatMap fun w => toBytes 8 w

/-- A record of one casement of one pane, with its entry in the first page. -/
theorem witness_LaunchQueueEvents :
    (after (.hostLaunch 0 0 0 (recordBytes placedRecord)) (scene .nop)).map (fun t =>
      ((t.ctx 0).accepted, (t.launches.find 5).map LaunchSt.words)) = some (1, some placedRecord) ∧
    (after (.hostLaunch 0 0 0 (recordBytes placedRecord)) { scene .nop with launches := (List.range 64).map fun k =>
      (k + 1, placedLaunch) }).map (fun t => ((t.ctx 0).refused, (t.ctx 0).lastReason)) = some (1, 9) ∧
    (after (.pendingMove 2) (withCas (fun c => { c with pendQ := [⟨9, 2, placedRecord, 0⟩] }) (scene .nop))).map (fun t =>
      (t.launches.find 5).map LaunchSt.kind) = some (some .task) ∧
    (let s := { scene .nop with launches := [(6, LaunchSt.arrive 0 .launch placedRecord)] };
      s.unchecked 0 false = some (6, LaunchSt.arrive 0 .launch placedRecord) ∧
      s.checkRecord (LaunchSt.arrive 0 .launch placedRecord) = none ∧
      ((after (.launchCheck 0) s).bind fun t => t.launches.find 6).map LaunchSt.phase = some .accepted) ∧
    (let s := fun (ws : List Nat) => { scene .nop with launches := [(6, LaunchSt.arrive 0 .launch ws)] }
      let refused := fun (ws : List Nat) => (after (.launchCheck 0) (s ws)).map fun t => (t.ctx 0).lastReason;
      refused (placedRecord.set 0 (2 ^ 57)) = some 1 ∧ refused (placedRecord.set 3 (2 ^ 60)) = some 2 ∧
      refused (placedRecord.set 2 0) = some 3 ∧ refused (placedRecord.set 2 (2 ^ 31 + 1)) = some 3) ∧
    (let l := { LaunchSt.arrive 0 .task [0, 0, 0, placedRecord.getD 4 0, placedRecord.getD 5 0, 0, 0, 0, 0, 0, 0, 0, 0, 0, 0, 0] with
        phase := .accepted }
      let s := { scene .nop with launches := [(6, l)] };
      (s.unchecked 0 true = none) ∧ l.counters = [] ∧
      ((after (.taskReady 0 0) s).bind fun t => t.launches.find 6).map LaunchSt.ready = some true) ∧
    (let l := LaunchSt.arrive 0 .task [0, 0, 0, placedRecord.getD 4 0, placedRecord.getD 5 0, 0, 0, 0, 0, 0, 0, 0, 0, 0, 0, 0]
      let s := { scene .nop with launches := [(6, l)] };
      ((after (.taskCheck 0) s).bind fun t => t.launches.find 6).map LaunchSt.phase = some .accepted) := by decide +kernel

/-- BindingAdmissionAndRetirement: a start and a placement, an admission, a retirement, and the ends of a launch and a task. -/
theorem witness_BindingAdmissionAndRetirement :
    (let l := { LaunchSt.arrive 0 .launch placedRecord with phase := .accepted, todo := [0] }
      let s := { scene .nop with launches := [(6, l)], cas := [], panes := [], units := [] };
      s.nextBind = some (.start 6) ∧
      ((after .bind s).bind fun t => t.launches.find 6).map LaunchSt.phase = some .running ∧
      ((after .bind s).bind (after .bind)).map (fun t => (t.core 0).table.length) = some 1) ∧
    (let s := { scene .nop with cas := [], panes := [], units := [], cores := [(0, { CoreSt.start with table := [oneBind 0] })] };
      (s.fits 0 (placedLaunch.foot placedLaunch.V)).isSome = true ∧
      (after (.admission 0) s).map (fun t => (t.panes.length, t.units.find 7 |>.map UnitSt.pc, (t.core 0).table.length)) =
        some (1, some 0, 0)) ∧
    (let s := { withPane (fun p => { p with exited := true }) (scene .nop) with units := [] };
      s.retirable 2 = true ∧
      (after (.casementRetire 2) s).map (fun t => ((t.cas.find 2).map CasementSt.phase, (t.launches.find 1).map LaunchSt.retired)) =
        some (some .retired, some 1)) ∧
    (let l := { placedLaunch with retired := 1, words := (placedRecord.set 8 0x100).set 9 77 }
      let s := withCas (fun c => { c with phase := .retired }) { scene .nop with now := 1, launches := [(1, l)], units := [] };
      s.finished 1 l = true ∧
      (after (.launchComplete 1) s).map (fun t => (t.launches.length, t.cas.length, t.mem.readNat 0x20100 8)) = some (0, 0, 77)) ∧
    (let l := { placedLaunch with kind := .task, retired := 1, words := (placedRecord.set 13 0x70000) }
      let s := withCas (fun c => { c with phase := .retired }) { scene .nop with now := 1, launches := [(1, l)], units := [] };
      s.finished 1 l = true ∧
      (after (.taskComplete 1) s).map (fun t => (t.launches.length, t.mem.readNat 0x90000 8)) = some (0, 1)) := by decide +kernel

theorem witness_ErrorsAndFences :
    (let d := fun (u : HwUnit) => { scene .nop with dev := { (scene .nop).dev with testing := [u] } };
      (after (.correctedError (.core 0)) (scene .nop)).map (fun t => t.dev.testing) = some [.core 0] ∧
      (after (.selfTestResult (.core 0) true) (d (.core 0))).map (fun t => t.dev.testing) = some [] ∧
      (after (.selfTestResult (.core 127) false) (d (.core 127))).isSome = true ∧
      (after (.selfTestResult (.sillWay 31) false) (d (.sillWay 31))).map (fun t => bits t.dev.spares 31 1) = some 0 ∧
      (after (.selfTestResult (.station 15) false) (d (.station 15))).map (fun t => t.dev.stations) = some 0x7FFF ∧
      (after (.selfTestResult (.hbmRow 3) false) (d (.hbmRow 3))).isSome = true) ∧
    (let s := { working (.remote loadReq [{ oneReq with station := some 15 }]) with
        dev := { (scene .nop).dev with testing := [.station 15] } };
      ((after (.selfTestResult (.station 15) false) s).bind fun t => (t.workOf 9).map fun w => w.reqs.map RemReq.lost) = some [true]) ∧
    (let s := { scene .nop with dev := { (scene .nop).dev with testing := [.sillWay 0], spares := 0 } };
      (after (.selfTestResult (.sillWay 0) false) s).map (fun t => t.dev.fencedWays) = some [0]) ∧
    (after (.uncorrectableError 0x10 (.reg 3 1 0 0) 9) (scene .nop)).map (fun t => t.poison) = some [.reg 3 1 0 0] ∧
    (after (.uncorrectableError 0x10 (.line 0x20000) 0) (scene .nop)).map (fun t => t.poison) = some [.line 0x20000] := by
  decide +kernel

/-- A host region of context 0 over the first page, with every right. -/
def hosted : State :=
  { scene .nop with dev := { (scene .nop).dev with regions := [(1, ⟨1, 0, 7, false, 0, 0x100⟩)] } }
def hostSrc : ReqSrc := ⟨0, 1⟩

theorem witness_HostOperations :
    hosted.dev.recovery = false ∧ hosted.dev.regionFor 2 1 0 8 = none ∧ hosted.dev.regionFor 1 1 0xFF 2 = none ∧
    (hosted.dev.regionFor 1 2 0xF8 8).isSome = true ∧ hosted.dev.takes hostSrc = true ∧ hosted.dev.takes ⟨1, 1⟩ = false ∧
    (after (.hostRdmaWrite 0 1 0xFE [0x22, 0x11]) hosted).map (fun t => (t.mem.readNat 0x200FE 2, t.dev.answers)) =
      some (0x1122, [⟨0, [0]⟩]) ∧
    (after (.hostRdmaWrite 0 1 0xFF [0x22, 0x11]) hosted).map (fun t => (t.mem.readNat 0x200FE 2, t.dev.answers)) =
      some (0, [⟨0, [1]⟩]) ∧
    (after (.hostRdmaRead 3 1 0 2) (withSeven hosted)).map (fun t => t.dev.answers) = some [⟨3, [0, 7, 0]⟩] ∧
    (after (.hostRdmaAtomic 0 1 0 true 9 7) (withSeven hosted)).map (fun t => (t.mem.readNat 0x20000 8, t.dev.answers)) =
      some (9, [⟨0, [0, 7]⟩]) ∧
    (after (.hostRdmaAtomic 0 1 0 false 9 0) (withSeven hosted)).map (fun t => t.mem.readNat 0x20000 8) = some 16 ∧
    badRegion 5 0 0 0x1000 = false ∧ badRegion 5 0 1 0 = true ∧ badBinding false 5 0 0 = false ∧ badBinding true 5 0 0 = false ∧
    (after (.installRegion hostSrc 5 0 0 0x1000) hosted).map (fun t => (t.dev.regions.length, t.dev.answers)) =
      some (2, [⟨0x10, [0]⟩]) ∧
    (after (.installRegion hostSrc (w64 (2 ^ 50 + 5)) 0 0 0x1000) hosted).map (fun t => t.dev.answers) = some [⟨0x10, [2]⟩] ∧
    (after (.removeRegion hostSrc 1 0 0 0) hosted).map (fun t => t.dev.regions.length) = some 0 ∧
    (after (.bindPort hostSrc 5 0x1000 0 0) hosted).map (fun t => (t.dev.bindings.find 0).map Binding.hbase) = some (some 0x1000) ∧
    (after (.unbindPort hostSrc 5 0 0 0) hosted).isSome = true ∧
    (after (.malformedManagementRequest hostSrc 5) hosted).map (fun t => t.dev.answers) = some [⟨0x10, [1]⟩] := by decide +kernel

/-- A firmware image of one byte 0 with its SHA-256 (R251, R252). -/
def oneByteImage : List Byte :=
  List.replicate 16 0 ++ toBytes 8 1 ++
    (toBytes 32 0x6e340b9cffb37a989ca544e6bb780a2c78901d3fb33738768511a30617afa01d).reverse ++ List.replicate (4096 - 56) 0 ++ [0]

theorem oneByte_digest : (sha256 ((oneByteImage.drop 4096).take 1) == (oneByteImage.drop 24).take 32) = true := by decide +kernel
theorem oneByte_length : oneByteImage.length = 4097 := by decide +kernel
theorem oneByte_fields : imageNat oneByteImage 16 8 = 1 ∧ imageNat oneByteImage 8 8 = 0 ∧
    (((oneByteImage.drop 3429).take 667).all fun b => b == 0) = true := by decide +kernel

/-- What stands between that image and its acceptance is the open verdict on its signatures alone (log entry 12). -/
theorem witness_imageAccepted :
    imageAccepted (scene .nop).dev oneByteImage = Config.signaturesVerify (oneByteImage.take 3429) ∧
    imageAccepted (scene .nop).dev [] = false := by
  constructor
  · unfold imageAccepted
    rw [oneByte_fields.1, oneByte_fields.2.1, oneByte_fields.2.2]
    show (decide (4096 + 1 ≤ oneByteImage.length) && decide (1 ≤ 1) && decide (1 ≤ 64 * 2 ^ 20) && true && _ &&
      (sha256 ((oneByteImage.drop 4096).take 1) == (oneByteImage.drop 24).take 32) && _) = _
    rw [oneByte_digest, oneByte_length]
    have h : (scene .nop).dev.rollback = 0 := by decide +kernel
    simp [h]
  · have h : imageNat [] 16 8 = 0 := by decide +kernel
    simp [imageAccepted, h]

/-! ## The platform -/

/-- The answers of the device after an event. -/
def answersOf (i : Instr) (s : State) : Option (List (Nat × List Nat)) :=
  (after i s).map fun t => t.dev.answers.map fun a => (a.qp, a.words)

theorem witness_PlatformOperations :
    let s := scene .nop
    let dv := fun (f : DevSt → DevSt) => s.setDev (f s.dev)
    (s.dev.takes hostSrc = true ∧ s.dev.recovery = false ∧ (dv fun d => { d with recovery := true }).dev.recovery = true) ∧
    answersOf (.malformedPlatformRequest hostSrc 0x0F) s = some [(0x11, [1])] ∧
    answersOf (.malformedPlatformRequest hostSrc 0x19) (dv fun d => { d with recovery := true }) = some [(0x11, [2])] := by decide +kernel

theorem witness_PlatformOperations_contexts :
    let s := scene .nop
    badDefinition 0x80000000001 0x80 0x40 0x40 = false ∧ badDefinition 2 0 0 0 = true ∧ badDefinition 0 0 0 0x20 = true ∧
    answersOf (.defineContext hostSrc 0 0 0 0 0) s = some [(0x11, [3])] ∧
    answersOf (.defineContext hostSrc 63 2 0 0 0) s = some [(0x11, [1])] ∧
    (after (.defineContext hostSrc 63 0x80000000001 0x80 0x40 0x40) s).map (fun t =>
      ((t.takeEffect.ctxs.find 63).map CtxSt.phv, t.ctxs.length)) = some (some 0x80, 1) ∧
    answersOf (.undefineContext hostSrc 63) s = some [(0x11, [3])] ∧
    (after (.undefineContext hostSrc 0) s).map (fun t => (t.ctxs.length, t.launches.length, t.units.length)) = some (0, 0, 0) := by decide +kernel

theorem witness_PlatformOperations_power :
    let s := scene .nop
    (after (.setConfiguration hostSrc (1, 0) (5, 3)) s).map (fun t => (t.dev.cfgA, t.takeEffect.dev.cfgA, t.takeEffect.dev.cfgB)) =
      some (s.dev.cfgA, 1, 5 + 3 * 2 ^ 64) ∧
    (answersOf (.powerReport hostSrc) s).map (fun l => l.map fun a => a.2.length) = some [25] ∧
    [1599, 1600, 3200, 3201].map (fun w => answersOf (.setPowerLimit hostSrc (w64 w)) s) =
      [some [(0x11, [1])], some [(0x11, [0])], some [(0x11, [0])], some [(0x11, [1])]] ∧
    (after (.setPowerLimit hostSrc 1600) s).map (fun t => t.dev.newLimit) = some 1600 := by decide +kernel

theorem witness_PlatformOperations_units :
    let s := scene .nop
    let dv := fun (f : DevSt → DevSt) => s.setDev (f s.dev)
    [(2401, 1050000), (2401, 525000), (2400, 1000000), (2300, 1000000), (2299, 1000000), (2299, 1050000)].map (fun q =>
      (after (.blockPowerReport [q.1 - 1] 1) (dv fun d => { d with clock := q.2, calm := 99, limit := 2400, newLimit := 2400 })).map fun t =>
        t.dev.clock) =
      [some 1023750, some 525000, some 1000000, some 1000000, some 1026250, some 1050000] ∧
    (s.dev.keys.find 5 = none ∧ (after (.keyExchange 5 true) s).map (fun t => (t.dev.keys.find 5).isSome) = some true) ∧
    (after (.keyExchange 5 false) s).map (fun t => t.dev.exchanges.find 5) = some (some (1000 * s.dev.clock)) ∧
    ((dv fun d => { d with exchanges := [(5, 0)] }).dev.exchanges.find 5 = some 0 ∧
      (after (.keyExchangeTimeout 5) { (dv fun d => { d with exchanges := [(5, 0)] }) with now := 10 * s.dev.clock }).isSome = true ∧
      (after (.keyExchangeTimeout 5) { (dv fun d => { d with exchanges := [(5, 0)] }) with now := 10 * s.dev.clock - 1 }).isSome =
        false) ∧
    (let k := dv fun d => { d with keys := [(5, ⟨0, none, false, [(3, 9)], false⟩)] };
      k.dev.keys.find 5 = some ⟨0, none, false, [(3, 9)], false⟩ ∧ k.sealedOpen 5 1 = false ∧
      (after (.keyRotation 5) k).map (fun t => t.dev.keys.find 5) = some (some ⟨1, some 0, true, [(3, 9)], false⟩)) ∧
    (let k := dv fun d => { d with keys := [(5, ⟨0, some 0, true, [], false⟩)] }
      let w := k.setPend [(9, ⟨9, 4, 3, 0, 0, 0, .load, 1, 0, 0, false, 0, .remote loadReq [{ oneReq with slot := some 1 }]⟩)];
      w.sealedOpen 5 1 = true ∧ (after (.keyRotation 5) w).map (fun t => t.inbox) = some [(1, .keyRotation 5)]) ∧
    (after (.stationDown 15) s).map (fun t => t.dev.stations) = some 0x7FFF ∧
    (after (.stationUp ⟨15, [5]⟩) s).map (fun t => (t.dev.stations, t.dev.exchanges)) = some (0xFFFF, [(5, 0)]) ∧
    (after (.expanderAttached 7 1024) s).map (fun t => (t.dev.attached, t.dev.mapped)) = some ([(7, 1024)], s.dev.mapped) ∧
    (after (.expanderRemoved 7) (dv fun d => { d with attached := [(7, 1024)] })).map (fun t => (t.dev.attached, t.dev.gone)) =
      some ([], [7]) := by decide +kernel

theorem witness_PlatformOperations_powerOn :
    (after (.powerOnReset [127] [(0, 2 ^ 21)]) (scene .nop)).map (fun t => (t.mem.length, t.units.length, t.dev.enabled)) =
      some (0, 0, 2 ^ 127 - 1) ∧
    (after (.powerOnReset [127] [(0, 2 ^ 21)]) (scene .nop)).map (fun t => (t.dev.mapped, t.dev.resets)) =
      some ([(0, 2 ^ 20)], 2) := by decide +kernel

/-- A byte of memory and a byte of a vault, before a reset. -/
def twoBytes : State := { scene .nop with mem := Memory.writeNat (Memory.writeNat [] 8 1 7) Config.vaultBase 1 9 }

theorem witness_PlatformOperations_reset :
    (after (.reset ⟨hostSrc, 9, [127]⟩) twoBytes).map (fun t =>
      (Memory.readNat t.mem 8 1, Memory.readNat t.mem Config.vaultBase 1, t.dev.resets, t.ctxs.length)) = some (7, 0, 2, 0) ∧
    (after (.reset ⟨hostSrc, 9, [127]⟩) twoBytes).map (fun t => t.dev.enabled) = some (2 ^ 127 - 1) ∧
    answersOf (.reset ⟨hostSrc, 9, []⟩) { twoBytes with inbox := [(3, .powerReport hostSrc)] } = some [(0x11, [0]), (0x11, [2])] := by decide +kernel

/-! ## The remaining events -/

/-- Work of the scene's unit, which waits for it. -/
def parked (w : Work) : State := withUnit (fun u => { u with park := .work 9 }) (working w)

theorem witness_StagedEvents :
    (let s := parked .invalidate;
      s.pend.length = 1 ∧ (after (.translationInvalidated 4) s).map (fun t => (t.tlb.length, t.pend.length)) = some (0, 0)) ∧
    (let s := { working (.convert 31 4 2) with
        wpart := [(31, { (scene .nop).wp 31 with vw := 2, busy := true })]
        mem := Memory.writeNat [] (Config.vaultBase + 31 * 2 ^ 24 + 2 * 2 ^ 20) 1 7 };
      (after (.wpartConversionDone 31) s).map (fun t => ((t.wp 31).busy, t.mem.length, t.pend.length)) = some (false, 0, 0)) ∧
    (let s := { parked (.mapsClear 0 0x20001) with mem := Memory.writeNat [] 0x20000 1 7 };
      (after (.dmapMapsClear 0) s).map (fun t => ((t.ctx 0).dmap, t.mem.length, t.pend.length)) = some (0x20001, 0, 0) ∧
      (after (.dmapMapsClear 0) (withCtx (fun c => { c with dmap := 0x30001 }) s)).map (fun t => ((t.ctx 0).dmap, t.mem.length)) =
        some (0x30001, 1)) ∧
    (let s := withCtx (fun c => { c with clearing := true, dmap := 0x20001 }) (working (.frozenClear 0 0x20000));
      (after (.dirtyMapCleared 0) s).map (fun t => ((t.ctx 0).clearing, t.pend.length)) = some (false, 0)) := by decide +kernel

theorem witness_SfqResult :
    (let s := withPane (fun p => { p with tokens := [(2, ⟨5, fullMask 1, 4, 0⟩)] })
        (working (.sfq 2 [(rkey 5 0, 7)] 2 2 (fullMask 1) 0));
      (after (.sfqResult 9) s).map (fun t => (((t.panes.find 3).map fun p => (Sparse.read p.regs (rkey 5 0), p.fstat, p.tokens.length)),
        ((t.units.find 4).map fun u => u.defer.map Deferred.cause))) = some (some (7, 2, 0), some [0x15])) := by decide +kernel

theorem witness_VgrowGrant :
    (let s := withUnit (fun u => { u with park := .vgrow 8, parkedAt := 0, seated := false }) (scene .nop);
      (s.vgrowNext 0).isSome = true ∧
      (after (.vgrowGrant 0) s).map (fun t => ((t.panes.find 3).map PaneSt.vcnt, (t.units.find 4).map UnitSt.park)) =
        some (some (max 8 scenePane.vcnt), some .ready)) := by decide +kernel

theorem witness_CollectivePartial :
    (after (.collectivePartialState ⟨1, 5, [], [7]⟩) (scene .nop)).map (fun t => t.dev.partials) = some [⟨1, 5, [], [7]⟩] := by
  decide +kernel

end Sys2Proof.Tests
end

/-! SUPPORT. Control transfers (R51 to R53): where a uniform transfer goes, what an indirect transfer's operand says, and the
obligations about both. -/

namespace Sys2Proof.Machine

/-! ## Targets and the unit that is sent -/

theorem wrap_cast (n : Nat) (x : Int) : (wrap n x : Int) = x % 2 ^ n :=
  Int.toNat_of_nonneg (Int.emod_nonneg x (by positivity))

/-- A change of the executing unit is a store of that unit. -/
theorem updUnit_of_view {s : State} {v : View} (h : s.view = some v) (f : UnitSt → UnitSt) :
    v.s.updUnit v.uid f = s.putUnit v.uid (f v.u) := by
  obtain ⟨hs, -, hf, -⟩ := view_facts h
  simp only [State.updUnit, hs, hf]

theorem mask_and_ne_zero (E P : Mask) : E &&& P ≠ 0 ↔ ∃ q, bitAt E q = true ∧ bitAt P q = true := by
  simp only [mask_ne_zero, bitAt_and, Bool.and_eq_true]

theorem mask_and_not_eq_zero (E P : Mask) : E &&& ~~~P = 0 ↔ ∀ q, bitAt E q = true → bitAt P q = true := by
  rw [← not_iff_not, ← ne_eq, mask_and_ne_zero]
  push Not
  refine exists_congr fun q => and_congr_right fun hq => ?_
  simp [bitAt, bitAt_lt hq]

/-! ## Uniform transfers (R51, R52, R214) -/

/-- An instruction whose act is to jump where C holds and else to go on has both outcomes by any equivalent condition. -/
theorem goes_or_stays_of {i : Instr} {s : State} {v : View} {body : View → Act} {pc : Nat} {C P : Prop} [Decidable C]
    (h : Ready i s v) (hx : exec i s = issueWith i (earlyOf i) body s)
    (hb : body v = if C then .jump v.s pc else .next v.s) (hC : C ↔ P) :
    (P → Goes i s v v.u pc) ∧ (¬P → Stays i s v v.u) :=
  ⟨fun hp => goes_same h hx (hb.trans (if_pos (hC.2 hp))), fun hp => stays_same h hx (hb.trans (if_neg (hC.not.2 hp)))⟩

/-- `call` with room on the call stack pushes the word after its clause. -/
theorem call_goes {off : Nat} {s : State} {v : View} (h : Ready (.call off) s v) (hl : v.u.cstack.length < 32) :
    Goes (.call off) s v { v.u with cstack := v.u.fallThrough :: v.u.cstack } (target v.u.pc 20 off) :=
  goes_of h rfl (if_neg (Nat.not_le.2 hl)) (updUnit_of_view h.chosen _)

theorem call_traps {off : Nat} {s : State} {v : View} (h : Ready (.call off) s v) (hl : 32 ≤ v.u.cstack.length) :
    TrapsWith (.call off) s v (rstackOf v) :=
  traps_of h rfl (if_pos hl) rfl

/-- `ret` raises RSTACK without a return address, and at the depth of the top reconvergence entry (R51). -/
theorem ret_traps {s : State} {v : View} (h : Ready .ret s v)
    (hc : v.u.cstack = [] ∨ ∃ e r, v.u.rstack = e :: r ∧ e.depth = v.u.cstack.length) : TrapsWith .ret s v (rstackOf v) := by
  refine traps_of h rfl ?_ rfl
  rcases hs : v.u.cstack with _ | ⟨pc, r⟩
  · rfl
  · obtain ⟨e, es, he, hd⟩ := hc.resolve_left (by simp [hs])
    rw [hs] at hd
    simp only [he, List.head?_cons, Option.map_some, hd, beq_self_eq_true, Option.getD_some, if_true]
    rfl

/-- `ret` above the depth of the top reconvergence entry pops its return address (R51). -/
theorem ret_goes {s : State} {v : View} (h : Ready .ret s v) {pc : Nat} {r : List Nat} (hs : v.u.cstack = pc :: r)
    (hd : ∀ e es, v.u.rstack = e :: es → e.depth ≠ v.u.cstack.length) : Goes .ret s v { v.u with cstack := r } pc := by
  have hn : (v.u.rstack.head?.map fun e => e.depth == v.u.cstack.length).getD false = false := by
    rcases he : v.u.rstack with _ | ⟨e, es⟩
    · rfl
    · simp [hd e es he]
  refine goes_of h rfl ?_ (updUnit_of_view h.chosen fun u => { u with cstack := r })
  rw [hs] at hn
  simp only [hs, hn, Bool.false_eq_true, if_false]

/-- Settles O19: one lemma for the transfers that go or stay by a condition, and one per outcome of `call` and `ret`. -/
theorem uniformTransferResults : Obligations.UniformTransferResults := by
  intro p k off s v T c
  have hT : (T : Int) = ((v.u.pc : Int) + 4 * signed 20 off) % 2 ^ 57 := wrap_cast 57 _
  refine ⟨hT, fun h => ?bany, fun h => ?ball, fun h => ?jmp, fun h => ?call, fun h => ?ret, fun h => ?full, fun h => ?room⟩
  case bany => exact goes_or_stays_of h rfl rfl (mask_and_ne_zero v.E (v.p.pred p))
  case ball => exact goes_or_stays_of h rfl rfl (mask_and_not_eq_zero v.E (v.p.pred p))
  case jmp => exact goes_same h rfl rfl
  case call => exact ⟨call_goes h, call_traps h⟩
  case ret => exact ⟨ret_traps h, fun _ _ => ret_goes h⟩
  case full => exact goes_or_stays_of h rfl rfl Iff.rfl
  case room => exact goes_or_stays_of h rfl rfl Iff.rfl

/-! ## Indirect transfers (R53) -/

/-- T is the target that a unit's operand gives: the first active position's value, and copy 0 where no position is active. -/
structure View.TargetIs (v : View) (a : Opnd) (T : Nat) : Prop where
  empty : v.E = 0 → T = (v.p.readAt zext a 0).toNat
  first : ∀ q, FirstActive v.E q → T = (v.p.readAt zext a q).toNat

/-- An active position's target is not T. -/
def View.Differs (v : View) (a : Opnd) (T q : Nat) : Prop := bitAt v.E q = true ∧ (v.p.readAt zext a q).toNat ≠ T

theorem mem_targetValues {v : View} {a : Opnd} {q t : Nat} :
    (q, t) ∈ targetValues v a ↔ bitAt v.E q = true ∧ (v.p.readAt zext a q).toNat = t := by
  simp [targetValues, mem_laneOrder]

/-- The listed values are none, or T is the first of them. -/
theorem View.TargetIs.values {v : View} {a : Opnd} {T : Nat} (hT : v.TargetIs a T) :
    (targetValues v a = [] ∧ T = (v.p.readAt zext a 0).toNat) ∨ ∃ q r, targetValues v a = (q, T) :: r := by
  unfold targetValues
  rcases ho : laneOrder v.E with _ | ⟨q, r⟩
  · refine .inl ⟨rfl, hT.empty ?_⟩
    by_contra h0
    obtain ⟨q, hq⟩ := mask_ne_zero.1 h0
    simpa [ho] using mem_laneOrder.2 hq
  · exact .inr ⟨q, _, by rw [List.map_cons, hT.first q (first_head ho)]⟩

theorem View.TargetIs.mem_disagreeing {v : View} {a : Opnd} {T : Nat} (hT : v.TargetIs a T) (q : Nat) :
    q ∈ disagreeing v a ↔ v.Differs a T q := by
  have hm : v.Differs a T q ↔ ∃ t, (q, t) ∈ targetValues v a ∧ t ≠ T := by simp [mem_targetValues, View.Differs]
  rw [hm]
  rcases hT.values with ⟨hv, -⟩ | ⟨q0, r, hv⟩
  · simp [disagreeing, hv]
  · simp [disagreeing, hv, or_and_right, and_assoc]

/-- An indirect transfer by its target (R53). -/
theorem View.TargetIs.indirect_eq {v : View} {a : Opnd} {T : Nat} (hT : v.TargetIs a T) (K : Nat → Act) :
    indirect v a K =
      if disagreeing v a ≠ [] then .trap v.s { cause := 4, mask := maskOf (disagreeing v a) }
      else if T % 4 ≠ 0 then .trap v.s { cause := 9, mask := v.E, eaddr := T % 2 ^ 57 }
      else K (T % 2 ^ 57) := by
  rcases hT.values with ⟨hv, h0⟩ | ⟨q, r, hv⟩
  · simp only [indirect, hv, h0]
  · simp only [indirect, hv]

/-- The three outcomes of an indirect transfer: DISAGREE, ALIGN, and the unit, as u, at its target. -/
theorem indirect_outcomes {i : Instr} {s : State} {v : View} {u : UnitSt} {a : Opnd} {T : Nat} {body : View → Act}
    {K : Nat → Act} (hT : v.TargetIs a T) (h : Ready i s v) (hx : exec i s = issueWith i (earlyOf i) body s)
    (hb : body v = indirect v a K) (hK : ∀ pc, body v = K pc → Goes i s v u pc) :
    ((∃ q, v.Differs a T q) →
      ∃ m : Mask, (∀ q, bitAt m q = true ↔ v.Differs a T q) ∧ TrapsWith i s v { cause := 4, mask := m }) ∧
    ((¬∃ q, v.Differs a T q) → T % 4 ≠ 0 → TrapsWith i s v { cause := 9, mask := v.E, eaddr := T % 2 ^ 57 }) ∧
    ((¬∃ q, v.Differs a T q) → T % 4 = 0 → Goes i s v u (T % 2 ^ 57)) := by
  rw [hT.indirect_eq] at hb
  have hd : disagreeing v a ≠ [] ↔ ∃ q, v.Differs a T q := by
    simp only [ne_eq, List.eq_nil_iff_forall_not_mem, hT.mem_disagreeing, not_forall, not_not]
  refine ⟨fun hq => ⟨maskOf (disagreeing v a), fun q => ?_, ?_⟩, fun hq h4 => ?_, fun hq h4 => ?_⟩
  · rw [bitAt_maskOf, hT.mem_disagreeing]
    exact and_iff_left_of_imp fun hq => bitAt_lt hq.1
  · exact traps_of h hx (hb.trans (if_pos (hd.2 hq))) rfl
  · exact traps_of h hx (hb.trans ((if_neg (hd.not.2 hq)).trans (if_pos h4))) rfl
  · exact hK _ (hb.trans ((if_neg (hd.not.2 hq)).trans (if_neg (not_not.2 h4))))

/-- Settles O20: both instructions have the outcomes of an indirect transfer, `calli` after its check of the call stack. -/
theorem indirectTransferResults : Obligations.IndirectTransferResults := by
  intro a T s v val differs called align h0 h1
  have hT : v.TargetIs a T := ⟨h0, h1⟩
  refine ⟨fun h => ?jmpi, fun h => ⟨fun hl => ?full, fun hl => ?calli⟩⟩
  case jmpi => exact indirect_outcomes hT h rfl rfl fun _ hb => goes_same h rfl hb
  case full => exact traps_of h rfl (if_pos hl) rfl
  case calli =>
    exact indirect_outcomes hT h rfl (if_neg (Nat.not_le.2 hl)) fun _ hb =>
      goes_of h rfl hb (updUnit_of_view h.chosen fun u => { u with cstack := u.fallThrough :: u.cstack })

end Sys2Proof.Machine

/-! SUPPORT. Fixed point and pivots (R68, R101, R102, R317, R349): the clamped sum of `fxmac`, the lane that a pivot search
chooses, the element that `pvreg` leaves, what `pcnt` and `pbits` read of a mask, and the obligation about all five. -/

namespace Sys2Proof.Machine

/-! ## The clamped sum of `fxmac` (R68, R317) -/

theorem in64_iff (x : Int) : in64 x = true ↔ -(2 ^ 63 : Int) ≤ x ∧ x < 2 ^ 63 := by
  simp only [in64, Bool.and_eq_true, decide_eq_true_eq]

theorem clampS_eq_max_min (x : Int) : clampS 64 x = max (-(2 ^ 63)) (min x (2 ^ 63 - 1)) := by
  simp only [clampS]
  split_ifs <;> omega

theorem fxStep_value (sh : Nat) (d a b : Word) :
    (fxStep sh d a b).1.toInt = max (-(2 ^ 63)) (min (d.toInt + a.toInt * b.toInt / 2 ^ (4 * sh)) (2 ^ 63 - 1)) := by
  have h : (fxStep sh d a b).1.toInt = clampS 64 (d.toInt + fxProduct sh a b) := by
    refine wrap_signed_id _ ?_ ?_ <;> rw [clampS_eq_max_min] <;> omega
  rw [h, clampS_eq_max_min, fxProduct]

/-- RV is set where the product or the sum leaves the signed range. -/
theorem fxStep_outside (sh : Nat) (d a b : Word) :
    (fxStep sh d a b).2 = true ↔
      ¬(-(2 ^ 63 : Int) ≤ a.toInt * b.toInt / 2 ^ (4 * sh) ∧ a.toInt * b.toInt / 2 ^ (4 * sh) < 2 ^ 63 ∧
        -(2 ^ 63 : Int) ≤ d.toInt + a.toInt * b.toInt / 2 ^ (4 * sh) ∧
        d.toInt + a.toInt * b.toInt / 2 ^ (4 * sh) < 2 ^ 63) := by
  simp only [fxStep, Bool.not_eq_true', ← Bool.not_eq_true, Bool.and_eq_true, in64_iff, fxProduct, and_assoc]

/-! ## The lane of a pivot search (R101) -/

/-- Lane l of member m takes part in a search from lane k on. -/
def View.Candidate (v : View) (k m l : Nat) : Prop := l < 32 ∧ k ≤ l ∧ bitAt v.E (posOf l m) = true

/-- The candidates of member m in ascending order. -/
def View.candidates (v : View) (k m : Nat) : List Nat := (List.range 32).filter fun l => k ≤ l && bitAt v.E (posOf l m)

/-- The magnitude that the search compares at lane l of member m. -/
def View.pivotMag (v : View) (i : Instr) (f : Fmt) (a : Opnd) (m l : Nat) : Nat :=
  pivotKey f (bits (v.rd i a (posOf l m)).toNat 0 f.width)

/-- Lane l has the largest magnitude of the candidates, and is the lowest of those that have it. -/
def View.Pivot (v : View) (i : Instr) (f : Fmt) (a : Opnd) (k m l : Nat) : Prop :=
  v.Candidate k m l ∧ ∀ l', v.Candidate k m l' →
    v.pivotMag i f a m l' ≤ v.pivotMag i f a m l ∧ (v.pivotMag i f a m l' = v.pivotMag i f a m l → l ≤ l')

theorem View.mem_candidates {v : View} {k m l : Nat} : l ∈ v.candidates k m ↔ v.Candidate k m l := by
  simp [View.candidates, View.Candidate]

theorem View.candidates_sorted (v : View) (k m : Nat) : (v.candidates k m).SortedLT :=
  (List.pairwise_lt_range.filter _).sortedLT

/-- In an ascending list the order of the places is the order of the values. -/
theorem le_of_idxOf_le {xs : List Nat} (hs : xs.SortedLT) {x y : Nat} (hx : x ∈ xs) (hy : y ∈ xs)
    (h : xs.idxOf x ≤ xs.idxOf y) : x ≤ y := by
  have := (hs.getElem_le_getElem_iff (hi := List.idxOf_lt_length_of_mem hx) (hj := List.idxOf_lt_length_of_mem hy)).2 h
  simpa using this

/-- The model's fold is the first lane of the largest magnitude. -/
theorem pivotLane_eq_argmax (v : View) (i : Instr) (f : Fmt) (a : Opnd) (k m : Nat) :
    pivotLane v i f a k m =
      ((v.candidates k m).argmax (v.pivotMag i f a m)).map fun l => (l, v.pivotMag i f a m l) := by
  let g := v.pivotMag i f a m
  change (match (v.candidates k m).map fun l => (l, g l) with
    | [] => none
    | c :: r => some (r.foldl (fun (b x : Nat × Nat) => if b.2 < x.2 then x else b) c)) = _
  rcases v.candidates k m with _ | ⟨c, r⟩
  · rfl
  · have hs : (c :: r).argmax g = some (r.foldl (fun b x => if g b < g x then x else b) c) :=
      List.foldl_hom some fun b x => by simp only [List.argAux]; split_ifs <;> rfl
    rw [hs, List.map_cons]
    simp only [Option.map_some, List.foldl_map]
    exact congrArg some (List.foldl_hom (fun l => (l, g l)) fun b x => by split_ifs <;> rfl)

/-- The search answers the pivot with its magnitude, and none only where the member has no candidate. -/
theorem pivotLane_spec (v : View) (i : Instr) (f : Fmt) (a : Opnd) (k m : Nat) :
    (pivotLane v i f a k m = none ∧ ¬∃ l, v.Candidate k m l) ∨
      ∃ l, pivotLane v i f a k m = some (l, v.pivotMag i f a m l) ∧ v.Pivot i f a k m l := by
  rw [pivotLane_eq_argmax]
  rcases h : (v.candidates k m).argmax (v.pivotMag i f a m) with _ | l
  · refine .inl ⟨rfl, ?_⟩
    rw [List.argmax_eq_none] at h
    rintro ⟨l, hl⟩
    simpa [h] using View.mem_candidates.2 hl
  · refine .inr ⟨l, rfl, ?_⟩
    obtain ⟨hm, hmax, hfirst⟩ := List.argmax_eq_some_iff.1 h
    refine ⟨View.mem_candidates.1 hm, fun l' hl' => ?_⟩
    have hm' := View.mem_candidates.2 hl'
    exact ⟨hmax l' hm', fun he => le_of_idxOf_le (v.candidates_sorted k m) hm hm' (hfirst l' hm' he.ge)⟩

/-- What `pvsel` writes for a search's answer. -/
def pivotWord : Option (Nat × Nat) → Word
  | none => w64 (2 ^ 64 - 1)
  | some (l, _) => w64 l

/-- A search's answer raises PZ. -/
def pivotZero : Option (Nat × Nat) → Bool
  | none => true
  | some (_, key) => key == 0

theorem pivotWord_pivotLane (v : View) (i : Instr) (f : Fmt) (a : Opnd) (k m : Nat) :
    (∃ l, v.Pivot i f a k m l ∧ pivotWord (pivotLane v i f a k m) = w64 l) ∨
      (¬∃ l, v.Candidate k m l) ∧ pivotWord (pivotLane v i f a k m) = w64 (2 ^ 64 - 1) := by
  rcases pivotLane_spec v i f a k m with ⟨h, hn⟩ | ⟨l, h, hl⟩ <;> rw [h]
  · exact .inr ⟨hn, rfl⟩
  · exact .inl ⟨l, hl, rfl⟩

/-- PZ is raised where every candidate is a zero, or there is none. -/
theorem pivotZero_pivotLane (v : View) (i : Instr) (f : Fmt) (a : Opnd) (k m : Nat) :
    pivotZero (pivotLane v i f a k m) = true ↔ ∀ l, v.Candidate k m l → v.pivotMag i f a m l = 0 := by
  rcases pivotLane_spec v i f a k m with ⟨h, hn⟩ | ⟨l, h, hl, hbest⟩ <;> rw [h]
  · exact iff_of_true rfl fun l hl => absurd ⟨l, hl⟩ hn
  · refine beq_iff_eq.trans ⟨fun h0 l' hl' => ?_, fun hz => hz l hl⟩
    exact Nat.eq_zero_of_le_zero (h0 ▸ (hbest l' hl').1)

/-! ## The element that `pvreg` leaves (R102) -/

/-- Element x is no NaN, τ = t is none, and the magnitude of x lies below that of τ. -/
def Fmt.Below (f : Fmt) (x t : Nat) : Prop :=
  f.isNaN x = false ∧ f.isNaN t = false ∧ x % 2 ^ (f.width - 1) < t % 2 ^ (f.width - 1)

theorem Fmt.width_pred (f : Fmt) : f.width - 1 = f.eb + f.fb := by simp only [Fmt.width]; omega

theorem Fmt.two_pow_width (f : Fmt) : 2 ^ f.width = 2 * 2 ^ (f.width - 1) := by
  rw [← pow_succ', f.width_pred, Fmt.width]; congr 1; omega

/-- What stands above the magnitude of a code is its sign bit. -/
theorem Fmt.top_cases {f : Fmt} {x : Nat} (hx : x < 2 ^ f.width) :
    x / 2 ^ (f.width - 1) = 0 ∨ x / 2 ^ (f.width - 1) = 1 := by
  rw [f.two_pow_width, ← Nat.div_lt_iff_lt_mul (Nat.two_pow_pos _)] at hx
  exact Nat.le_one_iff_eq_zero_or_eq_one.1 (Nat.le_of_lt_succ hx)

theorem Fmt.sign_eq {f : Fmt} {x : Nat} (hx : x < 2 ^ f.width) :
    (if f.neg x then 2 ^ (f.eb + f.fb) else 0) = x / 2 ^ (f.width - 1) * 2 ^ (f.width - 1) := by
  have ht := Fmt.top_cases hx
  rw [f.width_pred] at ht ⊢
  rcases ht with h | h <;> simp [Fmt.neg, bits, h]

theorem regularise_below {f : Fmt} {x t : Nat} (hx : x < 2 ^ f.width) (h : f.Below x t) :
    regularise f x t = ⟨x / 2 ^ (f.width - 1) * 2 ^ (f.width - 1) + t % 2 ^ (f.width - 1), flPT, false⟩ := by
  rw [← Fmt.sign_eq hx, Nat.add_comm]
  obtain ⟨hx, ht, hlt⟩ := h
  rw [f.width_pred] at *
  simp only [regularise, hx, ht, Nat.not_le.2 hlt, Bool.false_eq_true, or_self, if_false]

theorem regularise_not_below {f : Fmt} {x t : Nat} (h : ¬f.Below x t) : regularise f x t = ⟨x, 0, false⟩ := by
  refine if_pos ?_
  by_contra hc
  simp only [not_or, Bool.not_eq_true, not_le] at hc
  exact h (by rwa [Fmt.Below, f.width_pred])

theorem regularise_flags {f : Fmt} {x t : Nat} (hx : x < 2 ^ f.width) : (regularise f x t).flags ≠ 0 ↔ f.Below x t := by
  by_cases h : f.Below x t
  · simp [regularise_below hx h, h, flPT]
  · simp [regularise_not_below h, h]

/-- A regularised element fits its width. -/
theorem regularise_code_lt {f : Fmt} {x : Nat} (t : Nat) (hx : x < 2 ^ f.width) : (regularise f x t).code < 2 ^ f.width := by
  by_cases h : f.Below x t
  · rw [regularise_below hx h]
    have ht : t % 2 ^ (f.width - 1) < 2 ^ (f.width - 1) := Nat.mod_lt _ (Nat.two_pow_pos _)
    have hw := f.two_pow_width
    rcases Fmt.top_cases hx with h0 | h0 <;> simp only [h0] <;> omega
  · rwa [regularise_not_below h]

/-- Some joined element raises a condition. -/
theorem joinSubs_flags (w n : Nat) (g : Nat → FRes) :
    (joinSubs w ((List.range n).map g)).2 ≠ 0 ↔ ∃ e, e < n ∧ (g e).flags ≠ 0 := by
  have hb : ∀ x : Nat, x ≠ 0 ↔ ∃ k, x.testBit k = true := fun x => by simpa using and_ne_zero_iff x x
  simp only [joinSubs, hb, foldl_flags_bit, List.mem_map, List.mem_range, exists_exists_and_eq_and]
  tauto

/-- What `pvreg` makes of a copy of a and a copy of b, with its flags. -/
def regularised (f : Fmt) (x t : Word) : Nat × Nat :=
  joinSubs f.width ((List.range (64 / f.width)).map fun e => regularise f (sub f.width e x) (sub f.width e t))

theorem regularised_flags (f : Fmt) (x t : Word) :
    ((regularised f x t).2 != 0) = true ↔ ∃ e, e < 64 / f.width ∧ f.Below (sub f.width e x) (sub f.width e t) :=
  bne_iff_ne.trans ((joinSubs_flags _ _ _).trans
    (exists_congr fun _ => and_congr_right fun _ => regularise_flags (sub_lt _ _ _)))

theorem regularised_element (f : Fmt) (x t : Word) {e : Nat} (he : e < 64 / f.width) :
    sub f.width e (w64 (regularised f x t).1) = (regularise f (sub f.width e x) (sub f.width e t)).code := by
  rw [regularised, joinSubs, List.map_map, sub_packed he]
  exact Nat.mod_eq_of_lt (regularise_code_lt _ (sub_lt _ _ _))

/-- An element below τ takes τ's magnitude under its own sign; another stands. -/
theorem regularised_spec (f : Fmt) (x t : Word) {e : Nat} (he : e < 64 / f.width) :
    (f.Below (sub f.width e x) (sub f.width e t) → sub f.width e (w64 (regularised f x t).1) =
      sub f.width e x / 2 ^ (f.width - 1) * 2 ^ (f.width - 1) + sub f.width e t % 2 ^ (f.width - 1)) ∧
    (¬f.Below (sub f.width e x) (sub f.width e t) → sub f.width e (w64 (regularised f x t).1) = sub f.width e x) := by
  rw [regularised_element f x t he]
  exact ⟨fun h => by rw [regularise_below (sub_lt _ _ _) h], fun h => by rw [regularise_not_below h]⟩

/-! ## What `pcnt` and `pbits` read of a mask (R349) -/

theorem countOf_and (m n : Mask) : countOf (m &&& n) = ((List.range 256).filter fun q => bitAt m q && bitAt n q).length := by
  simp only [countOf, positions, positionsBelow, bitAt_and]

theorem countOf_lt (m : Mask) : countOf m < 2 ^ 64 :=
  ((List.length_filter_le _ _).trans_eq (List.length_range)).trans_lt (by decide)

/-- Bit l of a member's word of a mask. -/
theorem memberWord_bit (m : Mask) (k : Nat) {l : Nat} (hl : l < 64) :
    (w64 (m.toNat / 2 ^ (32 * k) % 2 ^ 32)).getLsbD l = (decide (l < 32) && bitAt m (posOf l k)) := by
  rw [w64_bit _ _ hl, bits_bit, Nat.add_comm]
  rfl

/-! ## The obligation -/

/-- A register result whose one flag c is set where an index of a list raises it. -/
theorem givesFlag_of {i : Instr} {s : State} {v : View} {d : Opnd} (F : View → Nat → Word) (qs : View → List Nat)
    (raises : View → Nat → Bool) (c : Nat) {D : Prop} {P : Nat → Word → Prop} (h : Ready i s v)
    (hx : exec i s = issueWith i (earlyOf i)
      (fun v => .next (v.withFlags (v.writeD i d (F v)) (if (qs v).any (raises v) then c else 0))) s)
    (hD : (∃ q ∈ qs v, raises v q = true) ↔ D) (hp : ∀ q ∈ v.slots i, P q (F v q)) :
    ∃ fl, (fl = c ∧ D ∨ fl = 0 ∧ ¬D) ∧ GivesFlags i s v d fl P := by
  rw [← hD]
  exact ⟨_, flag_any (qs v) (raises v) _ (fun _ _ => Iff.rfl) c,
    givesFlags_of F (fun v => if (qs v).any (raises v) then c else 0) h hx hp⟩

/-- Settles O14: each instruction writes the word, and sets the flag, that the lemmas above say of one copy. -/
theorem fixedPointAndPivotResults : Obligations.FixedPointAndPivotResults := by
  intro f32 sh k d a b s v
  refine ⟨fun h => ?fxmac, fun h => ?pvsel, fun h => ?pvreg, fun h => ?pcnt, fun h => ?pbits⟩
  case fxmac =>
    let i := Instr.fxmac sh d a b
    let st := fun (v : View) q => fxStep sh (v.rd i d q) (v.rd i a q) (v.rd i b q)
    exact givesFlag_of (fun v q => (st v q).1) (fun v => v.slots i) (fun v q => (st v q).2) flRV h rfl
      (exists_congr fun q => and_congr_right fun _ => fxStep_outside sh _ _ _) fun q _ => fxStep_value sh _ _ _
  case pvsel =>
    let f := if f32 then Fmt.f32 else Fmt.f64
    let pick := fun (v : View) q => pivotLane v (.pvsel f32 d a b) f a (v.scalar b) (q / 32)
    exact givesFlag_of (fun v q => pivotWord (pick v q)) (fun v => positions v.E) (fun v q => pivotZero (pick v q)) flPZ h rfl
      (exists_congr fun q => and_congr mem_positions (pivotZero_pivotLane v _ f a _ _))
      fun q _ => pivotWord_pivotLane v _ f a _ _
  case pvreg =>
    let i := Instr.pvreg f32 d a b
    let f := if f32 then Fmt.f32 else Fmt.f64
    let r := fun (v : View) q => regularised f (v.rd i a q) (v.rd i b q)
    exact givesFlag_of (fun v q => w64 (r v q).1) (fun v => v.slots i) (fun v q => (r v q).2 != 0) flPT h rfl
      (exists_congr fun q => and_congr_right fun _ => regularised_flags f _ _) fun q _ e he => regularised_spec f _ _ he
  case pcnt =>
    refine gives_of (fun v _ => w64 (countOf (v.E &&& v.p.pred k))) h rfl fun _ _ => ?_
    rw [BitVec.toNat_ofNat, Nat.mod_eq_of_lt (countOf_lt _), countOf_and]
  case pbits =>
    refine gives_of (fun v _ => w64 ((v.E &&& v.p.pred k).toNat / 2 ^ (32 * (v.scalar a % v.M)) % 2 ^ 32)) h rfl
      fun _ _ l hl => ?_
    rw [memberWord_bit _ _ hl, bitAt_and, Bool.and_assoc]

end Sys2Proof.Machine
